-- ==== Sys2Proof/Word.lean ====
section
/-! DEFINITION. Words, bit fields of plain numbers, and the sparse map with a default that holds every
array-like piece of the machine: a list of (key, value) pairs, keys rising, no entry equal to the default.
Keys are plain numbers. -/

namespace Sys2Proof

abbrev Byte := BitVec 8
abbrev W32 := BitVec 32
abbrev W64 := BitVec 64
/-- A scalar register number, s0 to s31 (R253). -/
abbrev Reg := BitVec 5

/-- A finite map with a default: what a key that is not listed reads as is given by the reader. -/
abbrev SMap (α : Type) := List (Nat × α)

namespace SMap

/-- The value at key `k`; `d` when the key is not listed. -/
def get {α : Type} (d : α) : SMap α → Nat → α
  | [], _ => d
  | (i, v) :: t, k => if i = k then v else get d t k

/-- The map without key `k`. -/
def erase {α : Type} : SMap α → Nat → SMap α
  | [], _ => []
  | (i, v) :: t, k => if i = k then erase t k else (i, v) :: erase t k

/-- Puts an entry at its place in the rising order. -/
def place {α : Type} (k : Nat) (v : α) : SMap α → SMap α
  | [] => [(k, v)]
  | (i, w) :: t => if k < i then (k, v) :: (i, w) :: t else (i, w) :: place k v t

/-- The map with key `k` at value `v`; a value equal to the default is not listed. -/
def set {α : Type} [DecidableEq α] (d : α) (m : SMap α) (k : Nat) (v : α) : SMap α :=
  if v = d then erase m k else place k v (erase m k)

/-- The map without the keys from `lo` to `lo + n - 1`. -/
def eraseRange {α : Type} (m : SMap α) (lo n : Nat) : SMap α :=
  m.filter fun e => e.1 < lo || lo + n ≤ e.1

/-- Every key above `k`, keys rising. -/
def above {α : Type} : SMap α → Nat → Bool
  | [], _ => true
  | (i, _) :: t, k => k < i && above t i

/-- The canonical form: keys rising and no entry equal to the default. -/
def wf {α : Type} [DecidableEq α] (d : α) (m : SMap α) : Bool :=
  (match m with | [] => true | (i, _) :: t => above t i) && m.all fun e => decide (e.2 ≠ d)

end SMap

/-- Bits `lo` to `lo + n - 1` of a number. -/
def bits (x lo n : Nat) : Nat := x / 2 ^ lo % 2 ^ n

/-- The integer whose `n`-bit two's complement is the low `n` bits of `x` (R184 sext). -/
def sextNat (x n : Nat) : Int :=
  let m := x % 2 ^ n
  if 2 * m < 2 ^ n then (m : Int) else (m : Int) - (2 ^ n : Nat)

/-- The `n`-bit two's complement of an integer, as a number. -/
def wrapInt (x : Int) (n : Nat) : Nat := (x % ((2 ^ n : Nat) : Int)).toNat

/-- R184 sat: an integer clamped to a range. -/
def clampInt (x lo hi : Int) : Int := if x < lo then lo else if hi < x then hi else x

/-- Little-endian bytes of a number. -/
def leBytes (x : Nat) : Nat → List Byte
  | 0 => []
  | n + 1 => BitVec.ofNat 8 x :: leBytes (x / 256) n

/-- The number whose little-endian bytes are given. -/
def leNat : List Byte → Nat
  | [] => 0
  | b :: t => b.toNat + 256 * leNat t

/-- Element `i` of a list, or a default. -/
def nth {α : Type} (d : α) : List α → Nat → α
  | [], _ => d
  | x :: _, 0 => x
  | _ :: t, i + 1 => nth d t i

/-- The list with element `i` replaced; a list too short is unchanged. -/
def setNth {α : Type} : List α → Nat → α → List α
  | [], _, _ => []
  | _ :: t, 0, v => v :: t
  | x :: t, i + 1, v => x :: setNth t i v

/-- The list without element `i`. -/
def dropNth {α : Type} : List α → Nat → List α
  | [], _ => []
  | _ :: t, 0 => t
  | x :: t, i + 1 => x :: dropNth t i

/-- Saturating count: adds `k`, stays at `top`. -/
def satAdd (x k top : Nat) : Nat := Nat.min (x + k) top

end Sys2Proof
end

