-- ==== Sys2Proof/Machine/Num.lean ====
section
/-! DEFINITION. Number formats and arithmetic (R181 to R198): exact values, one rounding where a rule names it. -/

namespace Sys2Proof.Machine

/-- A floating-point value: NaN, an infinity, or (−1)^neg · m · 2^e. -/
inductive Fp where
  | nan
  | inf (neg : Bool)
  | fin (neg : Bool) (m : Nat) (e : Int)
  deriving DecidableEq, Repr

/-- Exponent and fraction bits of a format (R181). -/
structure Fmt where
  ebits : Nat
  fbits : Nat
  deriving DecidableEq, Repr

def fp32 : Fmt := ⟨8, 23⟩
def bf16 : Fmt := ⟨8, 7⟩
def fp16 : Fmt := ⟨5, 10⟩

def Fmt.bias (f : Fmt) : Int := 2 ^ (f.ebits - 1) - 1
def Fmt.signBit (f : Fmt) : Nat := 2 ^ (f.ebits + f.fbits)
def Fmt.infBits (f : Fmt) : Nat := (2 ^ f.ebits - 1) * 2 ^ f.fbits
/-- R182: the canonical quiet NaN. -/
def Fmt.nanBits (f : Fmt) : Nat := f.infBits + 2 ^ (f.fbits - 1)
/-- Exponent of the smallest quantum. -/
def Fmt.qmin (f : Fmt) : Int := 1 - f.bias - f.fbits

def Fmt.decode (f : Fmt) (w : Nat) : Fp :=
  let neg := bits w (f.ebits + f.fbits) 1 == 1
  let e := bits w f.fbits f.ebits
  let m := w % 2 ^ f.fbits
  if e = 2 ^ f.ebits - 1 then if m = 0 then .inf neg else .nan
  else if e = 0 then .fin neg m f.qmin
  else .fin neg (m + 2 ^ f.fbits) (f.qmin + (e - 1))

/-- R183: hi + lo/2^d rounded to an integer; `sticky` is a remainder below the last bit. 0 RNE, 1 RTZ, 2 RUP,
3 RDN, on a magnitude of the sign given. -/
def roundBits (rm : Nat) (neg : Bool) (m d : Nat) (sticky : Bool) : Nat :=
  let hi := m / 2 ^ d
  let lo := m % 2 ^ d
  let half := 2 ^ d / 2
  let up := match rm with
    | 0 => half < lo || (lo == half && d != 0 && (sticky || hi % 2 == 1))
    | 1 => false
    | 2 => !neg && (lo != 0 || sticky)
    | _ => neg && (lo != 0 || sticky)
  if up then hi + 1 else hi

/-- R183: what an overflow writes. -/
def Fmt.overflow (f : Fmt) (rm : Nat) (neg : Bool) : Nat :=
  let toInf := match rm with
    | 0 => true
    | 1 => false
    | 2 => !neg
    | _ => neg
  (if neg then f.signBit else 0) + (if toInf then f.infBits else f.infBits - 1)

/-- R183, R184 rnd: (−1)^neg · m · 2^e in a format, subnormals kept. -/
def Fmt.round (f : Fmt) (rm : Nat) (neg : Bool) (m : Nat) (e : Int) : Nat :=
  let sign := if neg then f.signBit else 0
  if m = 0 then sign
  else
    let lead := e + Nat.log2 m
    let q := max (lead - f.fbits) f.qmin
    let mant := if q ≤ e then m * 2 ^ (e - q).toNat else roundBits rm neg m (q - e).toNat false
    let enc := mant + (q - f.qmin).toNat * 2 ^ f.fbits
    if f.infBits ≤ enc then f.overflow rm neg else sign + enc

def Fmt.encode (f : Fmt) (rm : Nat) : Fp → Nat
  | .nan => f.nanBits
  | .inf neg => (if neg then f.signBit else 0) + f.infBits
  | .fin neg m e => f.round rm neg m e

def Fp.negate : Fp → Fp
  | .nan => .nan
  | .inf n => .inf (!n)
  | .fin n m e => .fin (!n) m e

/-- The exact product. -/
def Fp.mul : Fp → Fp → Fp
  | .nan, _ => .nan
  | _, .nan => .nan
  | .inf a, .inf b => .inf (a != b)
  | .inf a, .fin b m _ => if m = 0 then .nan else .inf (a != b)
  | .fin b m _, .inf a => if m = 0 then .nan else .inf (a != b)
  | .fin a m e, .fin b k g => .fin (a != b) (m * k) (e + g)

def Fp.isNan : Fp → Bool
  | .nan => true
  | _ => false
def Fp.isInf (n : Bool) : Fp → Bool
  | .inf b => b == n
  | _ => false
def Fp.isZero (n : Bool) : Fp → Bool
  | .fin b m _ => b == n && m == 0
  | _ => false
def Fp.exp : Fp → Int
  | .fin _ m e => if m = 0 then 0 else e
  | _ => 0
/-- The value over 2^q, for q at most its exponent. -/
def Fp.over (q : Int) : Fp → Int
  | .fin n m e => if m = 0 then 0 else (if n then -1 else 1) * (m * 2 ^ (e - q).toNat)
  | _ => 0

/-- R182, R183, R191: the exact sum of a list. A zero that cancels is +0, or −0 in RDN; zeros of one sign keep it. -/
def Fp.sum (rm : Nat) (l : List Fp) : Fp :=
  if l.any Fp.isNan || (l.any (Fp.isInf true) && l.any (Fp.isInf false)) then .nan
  else if l.any (Fp.isInf true) then .inf true
  else if l.any (Fp.isInf false) then .inf false
  else
    let q : Int := l.foldl (fun a x => min a x.exp) 0
    let t : Int := l.foldl (fun a x => a + x.over q) 0
    if t = 0 then
      .fin (if l.all (Fp.isZero true) && !l.isEmpty then true else if l.all (Fp.isZero false) then false else rm == 3) 0 0
    else .fin (t < 0) t.natAbs q

/-- A signed integer times 2^q. -/
def Fp.ofInt (t q : Int) : Fp := .fin (t < 0) t.natAbs q

/-- R189: a value rounded to an integer, then clamped; NaN gives 0. -/
def Fp.toInt (rm : Nat) (lo hi : Int) : Fp → Int
  | .nan => 0
  | .inf n => if n then lo else hi
  | .fin n m e =>
    let r := if 0 ≤ e then m * 2 ^ e.toNat else roundBits rm n m (-e).toNat false
    clampInt (if n then -(r : Int) else r) lo hi

/-- Order of values; none with a NaN. Zeros are equal. -/
def Fp.lt (a b : Fp) : Bool :=
  match a, b with
  | .nan, _ => false
  | _, .nan => false
  | .inf n, .inf k => n && !k
  | .inf n, .fin .. => n
  | .fin .., .inf k => !k
  | x, y => let q := min x.exp y.exp; x.over q < y.over q
def Fp.eq (a b : Fp) : Bool := !a.isNan && !b.isNan && !a.lt b && !b.lt a

/-! ### Lane types (R181, R272) -/

/-- TYPE codes 1 FP32, 2 BF16, 3 FP16, 4 INT8, 5 INT16, 6 INT32. -/
def fmtOf : Nat → Fmt
  | 1 => fp32
  | 2 => bf16
  | _ => fp16
def isFp (t : Nat) : Bool := 1 ≤ t && t ≤ 3
def intBits : Nat → Nat
  | 4 => 8
  | 5 => 16
  | _ => 32
/-- Elements of one 32-bit lane. -/
def perLane : Nat → Nat
  | 4 => 4
  | 5 => 2
  | _ => 1
/-- Bytes of one element (R159 formats). -/
def elemBytes : Nat → Nat
  | 1 => 4
  | 2 => 2
  | 3 => 2
  | 4 => 1
  | 5 => 2
  | _ => 4

def laneFp (t : Nat) (w : W32) : Fp := (fmtOf t).decode w.toNat
def fpLane (t rm : Nat) (x : Fp) : W32 := BitVec.ofNat 32 ((fmtOf t).encode rm x)
/-- The signed elements of an integer lane, lowest first. -/
def laneInts (t : Nat) (w : W32) : List Int :=
  (List.range (perLane t)).map fun j => sextNat (w.toNat / 2 ^ (intBits t * j)) (intBits t)
/-- Elements packed into a lane modulo 2^n. -/
def intsLane (t : Nat) (l : List Int) : W32 :=
  BitVec.ofNat 32 ((l.zip (List.range l.length)).foldl (fun n e => n + wrapInt e.1 (intBits t) * 2 ^ (intBits t * e.2)) 0)
def intMax (t : Nat) : Int := 2 ^ (intBits t - 1) - 1
def intMin (t : Nat) : Int := -(2 ^ (intBits t - 1))

/-! ### Transcendentals (R194 to R198) -/

/-- rne(a / b) for a natural quotient. -/
def rneDiv (a b : Nat) : Nat :=
  let q := a / b
  let r := a % b
  if b < 2 * r ∨ (2 * r = b ∧ q % 2 = 1) then q + 1 else q

/-- A finite nonzero magnitude as M · 2^(e − 23) with 2^23 ≤ M < 2^24, and e (R194). -/
def normal24 (m : Nat) (e : Int) : Nat × Int :=
  let l := Nat.log2 m
  if l ≤ 23 then (m * 2 ^ (23 - l), e + l) else (m / 2 ^ (l - 23), e + l)

/-- R195: C_k. -/
def expC (k : Nat) : Nat :=
  rneDiv ((match k with
    | 1 => 6931471806
    | 2 => 2402265070
    | 3 => 555041087
    | 4 => 96181291
    | 5 => 13333558
    | 6 => 1540353
    | 7 => 152527
    | 8 => 13215
    | _ => 1018) * 2 ^ 30) (10 ^ 10)

/-- The FP32 result as an exact value. -/
def exp2 : Fp → Fp
  | .nan => .nan
  | .inf n => if n then .fin false 0 0 else .inf false
  | .fin neg m e =>
    let x : Int := (if neg then -1 else 1) * m
    let big : Int := if 0 ≤ e then x * 2 ^ e.toNat * 2 ^ 30 else x * 2 ^ 30 / 2 ^ (-e).toNat
    let n := big / 2 ^ 30
    if 128 ≤ n then .inf false
    else if n < -126 then .fin false 0 0
    else
      let f := (big % 2 ^ 30).toNat
      let a := [8, 7, 6, 5, 4, 3, 2, 1].foldl (fun a k => expC k + a * f / 2 ^ 30) (expC 9)
      let p := 2 ^ 30 + a * f / 2 ^ 30
      let r := rneDiv p (2 ^ 7)
      if n = 127 ∧ 2 ^ 24 ≤ r then .inf false else .fin false r (n - 23)

/-- R196: D_k = rne(2·2^32 / (k·ln 2)), from ln 2 itself; the table prints the quotients to ten places. -/
def logD : Nat → Int
  | 1 => 12392656037
  | 3 => 4130885346
  | 5 => 2478531207
  | 7 => 1770379434
  | 9 => 1376961782
  | _ => 1126605094

def log2 : Fp → Fp
  | .nan => .nan
  | .inf n => if n then .nan else .inf false
  | .fin neg m e =>
    if m = 0 then .inf true
    else if neg then .nan
    else
      let (M, e) := normal24 m e
      let up := 11863283 < M
      let D : Int := if up then 2 ^ 24 else 2 ^ 23
      let e := if up then e + 1 else e
      let t := (((M : Int) - D) * 2 ^ 32).tdiv (M + D)
      let u := (t * t).tdiv (2 ^ 32)
      let a := [9, 7, 5, 3, 1].foldl (fun a k => logD k + (a * u).tdiv (2 ^ 32)) (logD 11)
      Fp.ofInt (e * 2 ^ 32 + (a * t).tdiv (2 ^ 32)) (-32)

/-- R197: G_0 and G_1. -/
def rcpG0 : Int := rneDiv (48 * 2 ^ 40) 17
def rcpG1 : Int := rneDiv (32 * 2 ^ 40) 17
def rcpStep (mm y : Int) : Int := y * (2 ^ 41 - mm * y / 2 ^ 40) / 2 ^ 40
/-- R197, the steps as printed (log entry 83). -/
def rcp : Fp → Fp
  | .nan => .nan
  | .inf n => .fin n 0 0
  | .fin neg m e =>
    if m = 0 then .inf neg
    else
      let (M, e) := normal24 m e
      if M = 2 ^ 23 then .fin neg 1 (-e)
      else
        let mm : Int := M * 2 ^ 17
        let y := rcpStep mm (rcpStep mm (rcpStep mm (rcpG0 - rcpG1 * mm / 2 ^ 40)))
        let r := rneDiv y.natAbs (2 ^ 16)
        .fin (neg != (decide (y < 0) && r != 0)) r (-e - 24)

/-- R198: H_0 and H_1. -/
def rsqH0 : Int := rneDiv (109 * 2 ^ 40) 100
def rsqH1 : Int := rneDiv (16 * 2 ^ 40) 100
def rsqStep (mm y : Int) : Int := y * (3 * 2 ^ 40 - mm * (y * y / 2 ^ 40) / 2 ^ 40) / 2 ^ 41
def rsq : Fp → Fp
  | .nan => .nan
  | .inf n => if n then .nan else .fin false 0 0
  | .fin neg m e =>
    if m = 0 then .inf neg
    else if neg then .nan
    else
      let (M, e) := normal24 m e
      let odd := e % 2 = 1
      let M' := if odd then 2 * M else M
      let e := if odd then e - 1 else e
      if M' = 2 ^ 23 then .fin false 1 (-(e / 2))
      else
        let mm : Int := M' * 2 ^ 17
        let y := rsqStep mm (rsqStep mm (rsqStep mm (rsqStep mm (rsqH0 - rsqH1 * mm / 2 ^ 40))))
        .fin false (rneDiv y.toNat (2 ^ 16)) (-(e / 2) - 24)

/-- R194: the FP32 result narrowed with RNE to the lane's type, a subnormal result flushed to a zero of its sign. -/
def flushed (t : Nat) (x : Fp) : W32 :=
  let f := fmtOf t
  let w := f.encode 0 (fp32.decode (fp32.encode 0 x))
  let mag := w % f.signBit
  BitVec.ofNat 32 (if 0 < mag ∧ mag < 2 ^ f.fbits then w - mag else w)

/-! ### Plane blocks (R186 to R190) -/

/-- Planes of a format: PB8 8, PB6 6, PB4 4; bytes of a record. -/
def planesOf : Nat → Nat
  | 8 => 8
  | 9 => 6
  | _ => 4
def pbBytes (t : Nat) : Nat := 4 * planesOf t + 1
def isPb (t : Nat) : Bool := 8 ≤ t && t ≤ 10
/-- Bytes of one element or block of a format. -/
def fmtBytes (f : Nat) : Nat := if isPb f then pbBytes f else elemBytes f
/-- R187: the scale as a value; none for a NaN block. -/
def scaleValue (b : Nat) : Option Fp := if b = 0xFF then none else some (.fin false (8 + b % 8) (b / 8 - 18))
/-- R186, R188: w_j of element j from the first n planes of a record. -/
def pbElem (r : List Byte) (n j : Nat) : Int :=
  let v := (List.range n).foldl (fun a k =>
    a + bits (nth 0#8 r (4 * k + 1 + j / 8)).toNat (j % 8) 1 * 2 ^ (7 - k)) 0
  sextNat v 8
def pbScale (r : List Byte) : Nat := (nth 0#8 r 0).toNat
/-- Element j as an exact value. -/
def pbValue (r : List Byte) (n j : Nat) : Fp :=
  match scaleValue (pbScale r) with
  | none => .nan
  | some s => s.mul (Fp.ofInt (pbElem r n j) 0)
/-- R186: a record of n planes from a scale byte and 32 elements. -/
def pbPack (n scale : Nat) (v : List Int) : List Byte :=
  BitVec.ofNat 8 scale :: (List.range n).flatMap fun k => (List.range 4).map fun q =>
    BitVec.ofNat 8 ((List.range 8).foldl (fun a b => a + bits (wrapInt (nth 0 v (8 * q + b)) 8) (7 - k) 1 * 2 ^ b) 0)

/-- rne of an exact quotient of signed values. -/
def rneQuot (num den : Int) : Int :=
  let a := num.natAbs
  let q := rneDiv a den.natAbs
  if (num < 0) = (den < 0) then q else -q

/-- R190: 32 values converted to a block with n planes. -/
def pbOfValues (n : Nat) (xs : List Fp) : List Byte :=
  let q := 2 ^ (8 - n)
  let t : Int := 128 - q
  if xs.any fun x => x.isNan || x.isInf true || x.isInf false then pbPack n 0xFF (List.replicate 32 0)
  else
    let g := xs.foldl (fun a x => min a x.exp) (-18)
    let a := xs.foldl (fun a x => max a (x.over g).natAbs) 0
    if a = 0 then pbPack n 0 (List.replicate 32 0)
    else
      let s := ((List.range 255).find? fun b =>
        (a : Int) ≤ t * ((8 + b % 8 : Nat) * 2 ^ (b / 8) : Nat) * 2 ^ (-18 - g).toNat).getD 0xFE
      let sv : Int := ((8 + s % 8) * 2 ^ (s / 8) : Nat) * 2 ^ (-18 - g).toNat
      pbPack n s (xs.map fun x =>
        q * clampInt (rneQuot (x.over g) (q * sv)) (-128 / q) (t / q))

end Sys2Proof.Machine
end

