-- ==== Sys2Proof/Syntax.lean ====
section
/-! DEFINITION. The instructions and events of the Swiogus SG4: one constructor for each row of
spec/opcode_table.json, the three decode events first, then control instructions, events and node firings. Control instructions carry the fields of R253 to R264. Events carry what
the outside or the choice of the moment supplies; node firings name a core, an ELEM code (R135) and a slot. -/

namespace Sys2Proof

/-- How a packet comes: the number of the peer's delivery context, whether it passes the authentication of R42, and
whether R29 lists every feature that it needs. -/
structure Via where
  pdc : Nat
  auth : Bool
  known : Bool
  deriving DecidableEq, Repr
/-- A packet that arrives at a port under a UET JobID (R35). -/
structure Rx where
  port : Nat
  job : Nat
  via : Via
  /-- The version that a Read asks for (R31, R203). -/
  ver : Option Nat := none
  deriving DecidableEq, Repr

/-- What an access finds: R59's outcomes of the memory's code at its n-th byte, or, of another device, an error answer
(R37). -/
inductive Found where
  | good
  | corrected (n : Nat)
  | transient (n : Nat)
  | lasting (n : Nat)
  | refused
  deriving DecidableEq, Repr

/-- One row of the opcode table each. -/
inductive Instr where
  /-- ILLEGAL_INSTRUCTION_TRAP (R254): A context fetches a word that decodes to no instruction, and the illegal-instruction trap is raised before any effect. Such a word is a kind 0b10 or 0b11 word reached by sequential fetch, an unassigned major opcode or function, a broken LONG pair, or a nonzero must-be-zero field. -/
  | illegalInstructionTrap
  /-- INSTRUCTION_FETCH_TRAP (R257): The fetch of the next instruction fails its translation or X check, and the translation trap is raised at that pc before any instruction is decoded. -/
  | instructionFetchTrap (cause : Nat)
  /-- LARDER_UNDEFINED_COMMAND (R275): A Larder context issues a command with OPC 0xE or 0xF, a missing marker, or a command index past NCMDM1, and the program halts with an error reply of cause 0x01 that carries the command index. -/
  | larderUndefinedCommand (ld : Nat) (i : Nat)
  /-- ADD (R282): Adds two scalars modulo 2^64. -/
  | add (rd : Reg) (ra : Reg) (rb : Reg)
  /-- SUB (R282): Subtracts two scalars modulo 2^64. -/
  | sub (rd : Reg) (ra : Reg) (rb : Reg)
  /-- MUL (R282): Low 64 bits of the product of two scalars. -/
  | mul (rd : Reg) (ra : Reg) (rb : Reg)
  /-- MULH (R282): High 64 bits of the signed or unsigned product. -/
  | mulh (rd : Reg) (ra : Reg) (rb : Reg) (u : Bool)
  /-- DIV (R283): Signed or unsigned integer division, trapping on division by zero. -/
  | div (rd : Reg) (ra : Reg) (rb : Reg) (u : Bool)
  /-- REM (R283): Signed or unsigned remainder, trapping on division by zero. -/
  | rem (rd : Reg) (ra : Reg) (rb : Reg) (u : Bool)
  /-- AND (R282): Bitwise AND. -/
  | and (rd : Reg) (ra : Reg) (rb : Reg)
  /-- OR (R282): Bitwise OR. -/
  | or (rd : Reg) (ra : Reg) (rb : Reg)
  /-- XOR (R282): Bitwise XOR. -/
  | xor (rd : Reg) (ra : Reg) (rb : Reg)
  /-- ANDN (R282): a AND NOT b. -/
  | andn (rd : Reg) (ra : Reg) (rb : Reg)
  /-- SHL (R282): Shift left by b mod 64. -/
  | shl (rd : Reg) (ra : Reg) (rb : Reg)
  /-- SHR (R282): Logical shift right by b mod 64. -/
  | shr (rd : Reg) (ra : Reg) (rb : Reg)
  /-- SHA (R282): Arithmetic shift right by b mod 64. -/
  | sha (rd : Reg) (ra : Reg) (rb : Reg)
  /-- MIN (R282): Signed or unsigned minimum. -/
  | min (rd : Reg) (ra : Reg) (rb : Reg) (u : Bool)
  /-- MAX (R282): Signed or unsigned maximum. -/
  | max (rd : Reg) (ra : Reg) (rb : Reg) (u : Bool)
  /-- CLZ (R282): Counts leading zero bits. -/
  | clz (rd : Reg) (ra : Reg)
  /-- POPC (R282): Counts one bits. -/
  | popc (rd : Reg) (ra : Reg)
  /-- SEXT (R282): Sign-extends a byte, half or word. -/
  | sext (rd : Reg) (ra : Reg) (wd : BitVec 2)
  /-- CMP (R282): Writes 1 when the condition holds between a and b, else 0. -/
  | cmp (rd : Reg) (ra : Reg) (rb : Reg) (cond : BitVec 3)
  /-- SEL (R282): Writes a when the old d is nonzero, else b. -/
  | sel (rd : Reg) (ra : Reg) (rb : Reg)
  /-- ADDI (R284): Adds a sign-extended 14-bit immediate. -/
  | addi (rd : Reg) (ra : Reg) (imm : BitVec 14)
  /-- ANDI (R284): AND with a sign-extended immediate. -/
  | andi (rd : Reg) (ra : Reg) (imm : BitVec 14)
  /-- ORI (R284): OR with a sign-extended immediate. -/
  | ori (rd : Reg) (ra : Reg) (imm : BitVec 14)
  /-- XORI (R284): XOR with a sign-extended immediate. -/
  | xori (rd : Reg) (ra : Reg) (imm : BitVec 14)
  /-- SHLI (R284): Shift left by an immediate. -/
  | shli (rd : Reg) (ra : Reg) (imm : BitVec 6)
  /-- SHRI (R284): Logical shift right by an immediate. -/
  | shri (rd : Reg) (ra : Reg) (imm : BitVec 6)
  /-- SHAI (R284): Arithmetic shift right by an immediate. -/
  | shai (rd : Reg) (ra : Reg) (imm : BitVec 6)
  /-- CMPI (R284): Compares a with a sign-extended 11-bit immediate under a condition. -/
  | cmpi (rd : Reg) (ra : Reg) (cond : BitVec 3) (imm : BitVec 11)
  /-- LIMM (R285): Two-word instruction that loads a sign-extended 44-bit immediate. -/
  | limm (rd : Reg) (imm : BitVec 44)
  /-- ADDPC (R285): Two-word instruction that writes pc plus a sign-extended 44-bit byte offset. -/
  | addpc (rd : Reg) (imm : BitVec 44)
  /-- B_COND (R286): Branches when the condition holds between two scalars. -/
  | bCond (ra : Reg) (rb : Reg) (cond : BitVec 3) (imm : BitVec 11)
  /-- BI_COND (R286): Branches when the condition holds between a scalar and a 5-bit immediate. -/
  | biCond (ra : Reg) (imm5 : BitVec 5) (cond : BitVec 3) (imm : BitVec 11)
  /-- JMP (R287): Jumps by a 24-bit word displacement. -/
  | jmp (imm : BitVec 24)
  /-- JAL (R287): Jumps and links in s31. -/
  | jal (imm : BitVec 24)
  /-- JALR (R287): Jumps to a register plus an offset and links in d. -/
  | jalr (rd : Reg) (ra : Reg) (imm : BitVec 14)
  /-- LD (R288): Loads 1 to 8 bytes zero-extended on path S. -/
  | ld (rd : Reg) (ra : Reg) (sz : BitVec 2) (off : BitVec 12)
  /-- ST (R288): Stores the low bytes of a scalar on path S. -/
  | st (rd : Reg) (ra : Reg) (sz : BitVec 2) (off : BitVec 12)
  /-- LDC (R288): Load-consume that taints its result. -/
  | ldc (rd : Reg) (ra : Reg) (sz : BitVec 2) (off : BitVec 12)
  /-- STV (R289): Versioned store that creates a version and releases earlier writes on path S. -/
  | stv (rd : Reg) (ra : Reg) (rb : Reg) (sz : BitVec 2) (off : BitVec 7)
  /-- LDVT (R290): Tries a word once for a version and records not-yet, exact or later in VSTAT. -/
  | ldvt (rd : Reg) (ra : Reg) (rb : Reg) (sz : BitVec 2) (off : BitVec 7)
  /-- RECL (R291): Retires the older versions of a dword up to a version. -/
  | recl (ra : Reg) (rb : Reg) (off : BitVec 7)
  /-- AMO (R292): Atomic read-modify-write of a word or dword, returning the old value. -/
  | amo (rd : Reg) (ra : Reg) (rb : Reg) (sz : BitVec 1) (op : BitVec 4)
  /-- ACAS (R292): Atomic compare-and-swap, returning the old value. -/
  | acas (rd : Reg) (ra : Reg) (rb : Reg) (sz : BitVec 1)
  /-- FENCE (R294): Waits for the context's accesses within the scope and orders them. -/
  | fence (scope : BitVec 3)
  /-- FENCEX (R294): Orders writes of path X within the scope to path Y. -/
  | fencex (px : BitVec 3) (py : BitVec 3) (scope : BitVec 3)
  /-- WAITC (R295): Stalls until the LD, ST, CP and TL counts are at most their limits. -/
  | waitc (ldLim : BitVec 3) (stLim : BitVec 3) (cpLim : BitVec 3) (tlLim : BitVec 3)
  /-- SPAWN (R296): Writes a continuation record from an image into a cluster after earlier writes are acknowledged, returning its handle or 0. -/
  | spawn (rd : Reg) (ra : Reg) (rb : Reg)
  /-- JOIN (R297): Applies one join to a record after the task's writes are acknowledged. -/
  | join (ra : Reg)
  /-- ARM (R298): Places a version monitor that joins a record, returning 1, or 0 when no monitor is free. -/
  | arm (rd : Reg) (ra : Reg) (rb : Reg)
  /-- END (R299): Waits for acknowledges, counts under R94, and ends the task. -/
  | end_
  /-- TRIG (R299): Waits for acknowledges and lowers the launch's U count the first time it runs. -/
  | trig
  /-- GANG (R300): Reads the gang size and the task's rank. -/
  | gang (rd : Reg)
  /-- BAR (R301): Arrives at the gang barrier; counts in TL and writes BARSTAT on completion. -/
  | bar
  /-- CFG (R303): Starts installing a region image with its fault descriptor on the core's fabric. -/
  | cfg (ra : Reg) (rb : Reg)
  /-- RUN (R304): Starts the installed region, naming its DONE join record. -/
  | run (ra : Reg)
  /-- BOUND (R305): Sends a BOUND token to a counter or address generator. -/
  | bound (ra : Reg) (elem : BitVec 8)
  /-- INJ (R305): Asks a controller to inject BARRIER or COMMIT through its subtree. -/
  | inj (ra : Reg) (rb : Reg) (elem : BitVec 8)
  /-- RSTAT (R306): Reads one item of the core's fabric state. -/
  | rstat (rd : Reg) (ra : Reg) (rb : Reg)
  /-- TIDW (R307): Writes a tensor identifier entry from memory, or is refused with TIDWREF set. -/
  | tidw (ra : Reg) (n : BitVec 8)
  /-- TIDR (R307): Writes a tensor identifier entry to memory. -/
  | tidr (ra : Reg) (n : BitVec 8)
  /-- PART (R308): Applies a new partition word, returning 1 when it is accepted. -/
  | part (rd : Reg) (ra : Reg)
  /-- SEND (R310): Sends a 64-byte message block from memory. -/
  | send (ra : Reg)
  /-- SENDI (R310): Sends a message from eight consecutive scalars. -/
  | sendi (ra : Reg)
  /-- CSRR (R318): Reads a CSR. -/
  | csrr (rd : Reg) (csr : BitVec 12)
  /-- CSRW (R318): Writes a scalar to a CSR's writable fields. -/
  | csrw (ra : Reg) (csr : BitVec 12)
  /-- CSRS (R318): Sets CSR bits, or clears W1C bits written with 1. -/
  | csrs (ra : Reg) (csr : BitVec 12)
  /-- CSRC (R318): Clears CSR bits. -/
  | csrc (ra : Reg) (csr : BitVec 12)
  /-- TRAP (R316): Raises trap cause 0x09 with the immediate as detail. -/
  | trap (imm : BitVec 14)
  /-- NOP (R320): Does nothing. -/
  | nop
  /-- HALT (R320): Privileged; stops the context. -/
  | halt
  /-- IDLE (R320): Management sequencer only; stalls until an enabled MEVT bit is set. -/
  | idle
  /-- RFT (R315): Returns from a trap handler to TPC and clears INTRAP. -/
  | rft
  /-- BKPT (R316): Raises the breakpoint trap with detail 0xFF. -/
  | bkpt
  /-- ENTER (R321): Pushes a region id on the region stack. -/
  | enter (ra : Reg)
  /-- LEAVE (R321): Pops the region stack. -/
  | leave (ra : Reg)
  /-- CAPD (R322): Delegates a capability with reduced rights to a holder PDOM, returning a new handle or 0. -/
  | capd (rd : Reg) (ra : Reg) (rb : Reg)
  /-- CAPV (R322): Revokes a capability entry and all of its descendants. -/
  | capv (rd : Reg) (ra : Reg)
  /-- TLBI (R323): Invalidates translations of a page, a PDOM or every PDOM in every TLB and walk cache. -/
  | tlbi (ra : Reg) (rb : Reg)
  /-- PWRGD_ASSERT (R13): The module asserts PWRGD once every rail is within ±3 % of nominal, and the package starts its 2 ms reset hold. -/
  | pwrgdAssert
  /-- POWER_GOOD_HOLD_EXPIRY (R13): Once PWRGD has been high for 2 ms, the package releases every domain other than the management block from reset. -/
  | powerGoodHoldExpiry
  /-- PWRGD_DEASSERT (R13): A rail leaves its window and PWRGD falls; every domain except the management block resets within 5 µs and all memory contents become undefined. -/
  | pwrgdDeassert
  /-- RAIL_REMOVAL (R14): Rails are removed in reverse order, or all at once; all state is lost, and removing VAUX releases THERMTRIP_N. -/
  | railRemoval (allAtOnce : Bool) (vaux : Bool)
  /-- THERMTRIP_ASSERT (R15): A junction sensor reads 115 °C or more, the package asserts THERMTRIP_N, and SB.STATUS.THERM is set. -/
  | thermtripAssert
  /-- REFCLK_CORE_LOSS (R17): REFCLK_CORE is lost for more than 1 µs; the management block moves to its 25 MHz oscillator, holds the other domains in reset and sets CLKFLT. -/
  | refclkCoreLoss
  /-- REFCLK_CORE_STABLE (R17): After the reference has been stable for 10 ms, the boot restarts from its first stage. -/
  | refclkCoreStable
  /-- SERDES_REFCLK_LOSS (R17): The loss of a SerDes reference takes down the four ports it serves. -/
  | serdesRefclkLoss (k : Nat)
  /-- COLD_RESET (R18): VAUX rises from absent: every domain, the sticky bits and DOM.CFG are reset, and every frame is marked unowned. -/
  | coldReset
  /-- WARM_RESET (R18): RST_N is held low for at least 10 µs and then released; every domain resets while the sticky bits, fuses and boot count are kept, and the boot restarts from the ROM. -/
  | warmReset
  /-- BOOT_ROM_STAGE (R23): The ROM derives the device identity key, verifies and measures the management firmware, derives the layer secret and key, signs the layer certificate and hands over. -/
  | bootRomStage (readErr : Nat)
  /-- BOOT_FABRIC_FW_STAGE (R23): The management firmware verifies and measures the fabric firmware, derives and certifies the second name key, and erases the layer secret. -/
  | bootFabricFwStage (readErr : Nat)
  /-- PORTS_UP (R35): The firmware brings up the Ultra Ethernet ports and BOOTSTAGE becomes 0x03 with READY set. -/
  | portsUp
  /-- I3C_PRIVATE_WRITE (R25): A one-byte private write sets the sideband register pointer, and every further data byte is NACKed. -/
  | i3cPrivateWrite (data : List Byte)
  /-- I3C_PRIVATE_READ (R25): A private read returns 32-bit registers from the pointer onward, and the pointer advances by 4 after each register. -/
  | i3cPrivateRead (words : Nat)
  /-- SB_ENERGYLO_READ (R27): A read of SB.ENERGYLO returns the low half of the energy count and latches the high half for SB.ENERGYHI. -/
  | sbEnergyloRead
  /-- EN_ACC_LOW_READ (R228): A 32-bit read of the low half of a cluster EN.ACC latches the high half for the next read at 0x14C. -/
  | enAccLowRead (cl : Nat)
  /-- LINK_UP (R30): A port link comes up and negotiates LLR and CBFC with its peer by LLDP, setting LLROFF or CBFCOFF when the peer declines. -/
  | linkUp (port : Nat) (llr : Bool) (cbfc : Bool)
  /-- LINK_DOWN (R38): A port link goes down and its PDCs move to the remaining ports, keeping ROD order. -/
  | linkDown (port : Nat)
  /-- FMP_PACKET_RECEIVE (R34): A port checks an incoming FMP packet in order and either drops it, answers each message with an error, or delivers the messages to their inboxes in order. -/
  | fmpPacketReceive (port : Nat) (job : Nat) (via : Via) (bytes : List Byte)
  /-- REMOTE_WRITE_ARRIVE (R31): A remote plain store arrives as a UET Write on ROD and is applied in PDC order. -/
  | remoteWriteArrive (rx : Rx) (dev : Nat) (cl : Nat) (pa : Nat) (data : List Byte)
  /-- REMOTE_VERSIONED_WRITE_ARRIVE (R31): A remote versioned store arrives as a UET Write whose immediate data carries the version, and is applied under R202. -/
  | remoteVersionedWriteArrive (rx : Rx) (dev : Nat) (cl : Nat) (pa : Nat) (ver : Nat) (data : List Byte)
  /-- REMOTE_READ_ARRIVE (R31): A remote load or copy-engine read arrives as a UET Read and is served. -/
  | remoteReadArrive (rx : Rx) (dev : Nat) (cl : Nat) (pa : Nat) (len : Nat)
  /-- REMOTE_ATOMIC_ARRIVE (R31): A remote AMO, ACAS or ATN arrives as a UET Atomic and is performed at the owning memory. -/
  | remoteAtomicArrive (rx : Rx) (dev : Nat) (cl : Nat) (pa : Nat) (op : Nat) (dword : Bool) (cmp : W64) (x : W64)
  /-- COLLECTIVE_DATA_ARRIVE (R31): Collective-engine data arrives on RUDI and writes its offset of the staging buffer. -/
  | collectiveDataArrive (rx : Rx) (dev : Nat) (cl : Nat) (inbox : Nat) (pdom : Nat) (va : Nat) (desc : W64) (group : W64) (place : Nat × Nat) (data : List Byte)
  /-- HOST_UET_READ (R73): A host UET Read is translated through the port block TLB under its PDOM and served, or ends with a UET error completion. -/
  | hostUetRead (rx : Rx) (pdom : Nat) (va : Nat) (len : Nat)
  /-- HOST_UET_WRITE (R73): A host UET Write is translated through the port block TLB under its PDOM and applied on path N, or ends with a UET error completion. -/
  | hostUetWrite (rx : Rx) (pdom : Nat) (va : Nat) (ver : Option Nat) (data : List Byte)
  /-- MGMT_DEBUG_UET_ACCESS (R430): On a development part, a PDOM 0 UET access in the debug window reaches a management register directly; on any other part it ends with a cause-0x7 error. -/
  | mgmtDebugUetAccess (rx : Rx) (va : Nat) (size : Nat) (wdata : Option W64)
  /-- PDC_RETRANSMIT_EXHAUSTED (R38): Retransmission on a PDC stops after 8 attempts or 2 ms, and its outstanding remote accesses fail under R37. -/
  | pdcRetransmitExhausted (i : Nat)
  /-- PDC_CLOSED_BY_PEER (R37): The peer closes a PDC, and the remote accesses on it fail as R37 gives for their issuing agent. -/
  | pdcClosedByPeer (i : Nat)
  /-- PORT_MODE_TRACE (R43): A write of UEP.CTL.MODE = 0b01 sets the port aside for trace send-out, or is refused with MODEREF when no data port would remain. -/
  | portModeTrace (port : Nat)
  /-- PORT_MODE_DISABLE (R43): A write of UEP.CTL.MODE = 0b10 disables the port, or is refused with MODEREF when no data port would remain. -/
  | portModeDisable (port : Nat)
  /-- PORT_MODE_DATA (R43): A write of UEP.CTL.MODE = 0b00 returns the port to data service within 100 µs. -/
  | portModeData (port : Nat)
  /-- PORT_MODE_SWITCH_COMPLETE (R43): Once no open PDC remains on the port, the port switches mode and MODEACT shows the new mode. -/
  | portModeSwitchComplete (port : Nat)
  /-- TRACE_RECORD_SEND (R43): A trace port sends an Attic record as a UET Send on RUD to its collector. -/
  | traceRecordSend (port : Nat)
  /-- PACKET_BADDST_DISCARD (R45): A packet addressed to a reserved endpoint is discarded at the first switch and counted in NET.STATUS.BADDST. -/
  | packetBaddstDiscard (ep : Nat)
  /-- FLIT_CRC_REPLAY (R46): A flit that fails its CRC is resent by the link replay buffer. -/
  | flitCrcReplay (i : Nat)
  /-- LOCAL_LEAF_DELIVERY (R461): A packet whose DST equals its SRC is delivered on the leaf's own internal path, without entering the network. -/
  | localLeafDelivery (i : Nat)
  /-- MEMORY_WRITE_APPLY (R49): The owning tile or slice applies a plain or masked write request and returns a write acknowledge. -/
  | memoryWriteApply (i : Nat) (f : Found)
  /-- MEMORY_READ_SERVE (R51): The owning tile or slice serves a read request and returns read data. -/
  | memoryReadServe (i : Nat) (age : Nat) (f : Found)
  /-- VERSIONED_STORE_APPLY (R202): The owning memory applies a versioned store: it creates version v when v is above the newest version and discards the store otherwise. -/
  | versionedStoreApply (i : Nat)
  /-- VERSION_STORE_WAIT_RELEASE (R206): A versioned store that waited for a free version slot or entry proceeds once one frees. -/
  | versionStoreWaitRelease (i : Nat)
  /-- VERSION_STALL_TIMEOUT (R206): A versioned wait passes the stall limit, and the fault, deferred trap or lost reply that fits the issuing agent follows. -/
  | versionStallTimeout (i : Nat)
  /-- ATOMIC_APPLY (R215): The read-modify-write pipeline of the owning memory performs an AMO, ACAS or ATN with no write between its read and its write. -/
  | atomicApply (i : Nat)
  /-- WRITE_ACKNOWLEDGE_ARRIVE (R279): A write acknowledge returns to its issuer and completes that outstanding operation. -/
  | writeAcknowledgeArrive (i : Nat)
  /-- TLB_MISS_WALK_START (R55): An L1 and L2 TLB miss allocates or joins a miss entry and starts at most one walk per PDOM and page. -/
  | tlbMissWalkStart (i : Nat)
  /-- MISS_ENTRY_FREE (R56): A request that needed a 33rd L1 miss entry proceeds once an entry frees. -/
  | missEntryFree (i : Nat)
  /-- WALK_LEVEL_READ_RETURN (R54): A walker read returns a table entry, which is checked in cause order; the walk then descends, reaches a leaf or faults. -/
  | walkLevelReadReturn (i : Nat)
  /-- FIRST_TOUCH_ZEROING_DONE (R58): The zeroing of the frames that the walking PDOM does not own completes, the owner is written, and the walk completes and fills the TLBs. -/
  | firstTouchZeroingDone (i : Nat)
  /-- UNCORRECTABLE_RETRY_RESULT (R59): The single retry of an uncorrectable access completes; the error is classed transient or lasting. -/
  | uncorrectableRetryResult (i : Nat) (ok : Bool)
  /-- MESSAGE_INBOX_ENQUEUE (R64): A message reaches its unit's inbox and is queued, or is answered with cause 0x03 when no such unit or inbox exists. -/
  | messageInboxEnqueue (i : Nat)
  /-- INBOX_ACCEPT_AFTER_WAIT (R65): A message that waited in the network at a full inbox is accepted once the inbox has room. -/
  | inboxAcceptAfterWait (i : Nat)
  /-- UNIT_TAKE_MESSAGE (R66): A unit takes its next message, by priority inbox, and checks opcode, LEN, permission and operands in order. -/
  | unitTakeMessage (ep : Nat) (unit : Nat)
  /-- ENGINE_COMMAND_COMPLETE (R71): Once every effect of an engine command is applied and acknowledged, the unit writes its stamp or reply. -/
  | engineCommandComplete (ep : Nat) (unit : Nat) (inbox : Nat)
  /-- MG_READ (R74): The management service reads an 8-byte management register and returns its value. -/
  | mgRead
  /-- MG_WRITE (R74): The management service writes the masked bytes of a management register. -/
  | mgWrite
  /-- MG_DOMON (R75): The management service activates a protection domain with its page-table root and returns its root capability, or refuses. -/
  | mgDomon
  /-- MG_DOMOFF (R75): The management service deactivates a domain and invalidates its TLB entries, or refuses while the domain is busy or inactive. -/
  | mgDomoff
  /-- MG_DOMCFG (R35): The management service checks a signed domain-configuration command and writes DOM.CFG and the secure domain key once per boot. -/
  | mgDomcfg
  /-- MG_FWUPD (R22): The management service checks a firmware image, writes it to its flash slot, and raises the fused minimum security version. -/
  | mgFwupd
  /-- MG_ATTEST (R24): The management service returns the signed 328-byte attestation report for a nonce. -/
  | mgAttest
  /-- MG_DBGRD (R82): The management service checks a capability with the read right and reads 8 to 32 bytes of the target domain, or of its debug window. -/
  | mgDbgrd
  /-- MG_DBGWR (R82): The management service checks a capability with the write right and writes one 8-byte word of the target domain, or a debug register. -/
  | mgDbgwr
  /-- LAUNCH (R77): The launch engine assigns a launch id and writes COUNT continuation records to the task queue units of CMASK, or the message waits while the launch table is full. -/
  | launch
  /-- LAUNCH_TABLE_ENTRY_FREE (R77): A launch table entry frees, and a LAUNCH waiting at the head of its inbox proceeds. -/
  | launchTableEntryFree (lid : Nat)
  /-- SUCCESSOR_RELEASE (R94): When a launch's U count reaches 0, the launch engine joins the records of every successor launch. -/
  | successorRelease (lid : Nat)
  /-- DONEREP_REPLY (R77): When a launch's E count reaches 0, the second reply is sent for a launch with DONEREP = 1, and the entry may be freed. -/
  | donerepReply (lid : Nat)
  /-- PREEMPT (R80): The launch engine withholds the target's records, orders the halt and freeze, and translates SAVE. -/
  | preempt
  /-- PREEMPT_CORE_SAVE (R102): Once a core has halted, it writes its context blocks, pool units and fabric checkpoint to the save area, and its contexts count as idle. -/
  | preemptCoreSave (core : Nat)
  /-- RESUME (R80): The launch engine checks SAVE against the pre-emption of a launch or domain and starts restoring each saved core. -/
  | resume
  /-- RESUME_REGION (R80): RESUME with SCOPE 0b10 restarts a region frozen by a restartable address-generator translation fault. -/
  | resumeRegion
  /-- RESUME_CORE_RESTORE (R103): Once the reserved core is idle and its fabric free, it reads back its pool, configuration, barrier and requests and restarts its contexts. -/
  | resumeCoreRestore (core : Nat)
  /-- JOIN_APPLY (R87): The task queue unit's join port applies a join: it decrements JOIN, readies or withholds the record, or counts BADJOIN. -/
  | joinApply (i : Nat)
  /-- DISPATCH (R88): An idle context takes the best placeable ready record, frees its slot, loads pc and s30, and zeroes or keeps the pool. -/
  | dispatch (cl : Nat) (core : Nat) (k : Nat)
  /-- GANG_DISPATCH (R96): A gang record is placed whole on n cores with a barrier assigned, or is not placed at all. -/
  | gangDispatch (cl : Nat) (slot : Nat) (cores : List Nat)
  /-- AGE_PROMOTION (R89): A ready record that has waited 65,536 network cycles rises one priority level, up to MAXPRIO. -/
  | agePromotion (cl : Nat) (slot : Nat)
  /-- GANG_RESERVATION_START (R97): A gang that has been ready for 65,536 network cycles ages, and the chosen aged gang begins reserving cores. -/
  | gangReservationStart (cl : Nat)
  /-- MONITOR_FIRE (R92): An ARM monitor fires one join when its word holds version v or later. -/
  | monitorFire (i : Nat)
  /-- BARRIER_ARRIVE (R98): A BAR arrives at the gang barrier once the task's earlier stores, copies and messages are acknowledged. -/
  | barrierArrive (c : Nat)
  /-- BARRIER_RELEASE (R98): Once every member has arrived and the subscription updates are applied, the barrier completes each member's BAR. -/
  | barrierRelease (g : Nat)
  /-- BARRIER_BREAK (R98): A member ends without arriving, so every outstanding and later BAR of the gang completes with BROKEN set. -/
  | barrierBreak (g : Nat)
  /-- QUEUE_DRAIN_STOP_WRITE (R105): A write of QUEUE.DRAIN.STOP stops or restarts dispatch in the cluster. -/
  | queueDrainStopWrite (cl : Nat) (v : Bool)
  /-- REGISTER_WRITE (R8): A write to a register without a row of its own updates its RW fields, clears W1C bits written with 1 and ignores reserved and RO bits. -/
  | registerWrite (off : Nat) (value : W64) (mask : Nat)
  /-- CE_SLOT_WRITE (R156): A write to a CE.SLOT table takes effect at the table's next entry 0. -/
  | ceSlotWrite (cl : Nat) (e : Nat) (p : Nat) (value : W64)
  /-- LD_CTX_KILL (R417): A write of 1 to LD.CTX.KILL ends the Larder program at its next command boundary with cause 0x0B. -/
  | ldCtxKill (ld : Nat) (i : Nat)
  /-- CFG_COMPLETE (R117): The region image has been streamed in; its checks run in order, and the region is installed or the CFG fails with a fault record. -/
  | cfgComplete (core : Nat)
  /-- ALIGNED_TOKEN_ALIGN (R119): An aligned token stands on the last input that a unit reads; the unit takes them all and writes one such token to every output. -/
  | alignedTokenAlign (core : Nat) (elem : Nat) (k : Nat)
  /-- FAULT_QUIESCE_RECORD (R134): When no unit of a faulted region has fired for 16 fabric cycles, the root writes the fault record and joins the handler record. -/
  | faultQuiesceRecord (core : Nat)
  /-- COMMIT_PERIOD_INJECT (R130): At the end of every CPER-th iteration, a controller records a checkpoint and injects COMMIT into its subtree's sources. -/
  | commitPeriodInject (core : Nat) (elem : Nat)
  /-- COMMIT_PASS_TILE (R130): A memory-tile unit takes COMMIT, publishes its own logged entries in log order, copies carried state, and forwards COMMIT. -/
  | commitPassTile (core : Nat) (elem : Nat) (k : Nat)
  /-- DRAIN_PASS_TILE (R133): DRAIN passes a memory tile, which applies and releases its immediate writes. -/
  | drainPassTile (core : Nat) (elem : Nat) (k : Nat)
  /-- REGION_DONE_JOIN (R133): Once DRAIN has passed every memory tile, the fabric sends the DONE join and becomes free. -/
  | regionDoneJoin (core : Nat)
  /-- BARRIER_TOKEN_PASS (R133): A BARRIER token passes a memory tile, which releases the writes made before it. -/
  | barrierTokenPass (core : Nat) (elem : Nat) (k : Nat)
  /-- LOG_FULL_STALL_TIMEOUT (R129): A logged store blocked on a full write log for the stall limit raises the version-stall-timeout fault. -/
  | logFullStallTimeout (core : Nat) (elem : Nat) (k : Nat)
  /-- LOG_SPACE_FREE (R129): A logged store that stalled on a full log proceeds once entries free. -/
  | logSpaceFree (core : Nat) (elem : Nat) (k : Nat)
  /-- EGRESS_LATCH_RELEASE (R132): The egress latch releases a store, atomic, ring write or message two row cycles after its stage. -/
  | egressLatchRelease (core : Nat) (i : Nat)
  /-- TIMING_ERROR_REPLAY (R132): A stage that detects a timing error replays, at a cost of one row cycle. -/
  | timingErrorReplay (core : Nat) (elem : Nat) (k : Nat)
  /-- ELEMENT_WINTER_ENTRY (R220): An element of a done region enters Winter after 4,096 idle row cycles. -/
  | elementWinterEntry (core : Nat) (elem : Nat)
  /-- ELEMENT_WAKE_COMPLETE (R220): A held access or CFG continues once an element's 64-cycle or 512-cycle wake has completed. -/
  | elementWakeComplete (core : Nat) (elem : Nat)
  /-- ARRIVAL_BARRIER_COMPLETE (R145): An engine write's applied bytes bring a ring slot's arrival barrier to T, releasing the waiting ring reader. -/
  | arrivalBarrierComplete (core : Nat) (b : Nat)
  /-- FREED_SLOT_NOTICE_ARRIVE (R147): A freed-slot notice reaches the bound producer and may allow its next push to begin. -/
  | freedSlotNoticeArrive (i : Nat)
  /-- THROTTLED_NOTICE_RELEASE (R223): A freed-slot notice held for the throttle delay is released. -/
  | throttledNoticeRelease (i : Nat)
  /-- FULL_EMPTY_WAIT_RELEASE (R143): A granule's full/empty bit changes, releasing a waiting LDFE or STFE. -/
  | fullEmptyWaitRelease (core : Nat) (elem : Nat) (k : Nat)
  /-- MLDB_LOAD_COMPLETE (R382): A LOADING B latch has read all 64 columns and becomes READY. -/
  | mldbLoadComplete (core : Nat) (elem : Nat)
  /-- LOAD_RESULT_WRITE (R363): A memory-tile load's data arrives, and its result token is written in firing order. -/
  | loadResultWrite (core : Nat) (elem : Nat) (k : Nat)
  /-- LDVN_SATISFIED (R374): A waiting LDVN's word gains a version at or above the one named, and its token is written. -/
  | ldvnSatisfied (core : Nat) (elem : Nat) (k : Nat)
  /-- SBS_BATCH_SEND (R153): The hub sends a subscription's coalesced batch after 32 network cycles, at 16 pending lines, or on BAR, TRIG or END. -/
  | sbsBatchSend (i : Nat)
  /-- SBS_BATCH_APPLY (R153): The subscriber's tile applies a batch as a masked write and sets full/empty bits. -/
  | sbsBatchApply (i : Nat)
  /-- RING_HEAD_REREAD (R151): A post that waits at a full message ring re-reads HEAD every 64 network cycles. -/
  | ringHeadReread (cl : Nat) (inbox : Nat)
  /-- CPY_LIN (R419): A copy engine copies BYTES bytes from SRC to DST on path C. -/
  | cpyLin (cl : Nat) (e : Nat) (inbox : Nat)
  /-- CPY_TILE (R419): A copy engine copies ROWS rows of ROWBYTES bytes with source and destination pitches. -/
  | cpyTile (cl : Nat) (e : Nat) (inbox : Nat)
  /-- CPY_GATH (R157): A copy engine gathers table rows by an index stream and writes them to DST in index order. -/
  | cpyGath (cl : Nat) (e : Nat) (inbox : Nat)
  /-- CPY_SCAT (R419): A copy engine scatters contiguous source rows to table rows by index, so the later of two equal indices remains. -/
  | cpyScat (cl : Nat) (e : Nat) (inbox : Nat)
  /-- CPY_MCAST (R158): A copy engine writes one tile to the same offset in up to eight gang receivers, replying with cause 0x0E for failed receivers. -/
  | cpyMcast (cl : Nat) (e : Nat) (inbox : Nat) (failed : Nat)
  /-- COLL_AR (R39): The collective engine runs an all-reduce by recursive doubling over the group. -/
  | collAr (cl : Nat) (inbox : Nat)
  /-- COLL_AG (R420): The collective engine runs an all-gather, leaving every rank's SRC in DST in rank order. -/
  | collAg (cl : Nat) (inbox : Nat)
  /-- COLL_RS (R420): The collective engine runs a reduce-scatter, leaving rank k with chunk k of the all-reduce. -/
  | collRs (cl : Nat) (inbox : Nat)
  /-- COLL_BC (R420): The collective engine broadcasts the root's BUF to every member by recursive doubling. -/
  | collBc (cl : Nat) (inbox : Nat)
  /-- COLL_STEP_ADVANCE (R39): When a partner's operand for step j has arrived, the engine adds it, lower rank first, and moves to the next step. -/
  | collStepAdvance (cl : Nat) (inbox : Nat)
  /-- SBS_ON (R152): The subscription hub joins a publisher window to a subscriber window and returns a handle. -/
  | sbsOn (cl : Nat) (inbox : Nat)
  /-- SBS_OFF (R421): The hub frees a subscription after every batch already sent has been applied. -/
  | sbsOff (cl : Nat) (inbox : Nat)
  /-- SBS_FLUSH (R154): The hub copies the whole publisher window to the subscriber and returns it to ACTIVE. -/
  | sbsFlush (cl : Nat) (inbox : Nat)
  /-- RING_POST (R150): The ring network interface writes an entry into a receiver's message ring and then writes TAIL as a versioned store. -/
  | ringPost (cl : Nat) (inbox : Nat)
  /-- LARDER_LAUNCH (R411): A Larder takes a free context, copies the command-list program on path L and starts it, or waits while all 16 contexts are busy. -/
  | larderLaunch (ld : Nat)
  /-- LNOP (R413): Larder command that does nothing. -/
  | lnop (ld : Nat) (i : Nat)
  /-- LLOOP (R413): Larder command that pushes a loop frame of n iterations. -/
  | lloop (ld : Nat) (i : Nat)
  /-- LEND (R413): Larder command that decrements the loop count and either branches to the loop start or pops the frame. -/
  | lend (ld : Nat) (i : Nat)
  /-- LBASE (R413): Larder command that loads a base register with a 53-bit sign-extended immediate. -/
  | lbase (ld : Nat) (i : Nat)
  /-- LADD (R413): Larder command that adds a 30-bit signed immediate to a base register. -/
  | ladd (ld : Nat) (i : Nat)
  /-- LPUSH (R414): Larder command that pushes one padded tile into a ring slot of TCORE once R147 allows it. -/
  | lpush (ld : Nat) (i : Nat)
  /-- LPUSHM (R414): Larder command that pushes the same tile into the ring of every receiver in RMASK. -/
  | lpushm (ld : Nat) (i : Nat) (failed : Nat)
  /-- LFILL (R413): Larder command that copies 64·n bytes from its own cellar slice to a destination. -/
  | lfill (ld : Nat) (i : Nat)
  /-- LSPILL (R413): Larder command that copies 64·n bytes into its own cellar slice. -/
  | lspill (ld : Nat) (i : Nat)
  /-- LSTAMP (R415): Larder command that waits for the context's acknowledges and writes a versioned stamp, releasing those writes. -/
  | lstamp (ld : Nat) (i : Nat)
  /-- LWAITV (R415): Larder command that holds its context until a word reaches version v, with no limit. -/
  | lwaitv (ld : Nat) (i : Nat)
  /-- LBR (R413): Larder command that branches to a command index when its condition on a base register holds. -/
  | lbr (ld : Nat) (i : Nat)
  /-- LHALT (R414): Larder command that waits for every write acknowledge, writes the reply and frees the context. -/
  | lhalt (ld : Nat) (i : Nat)
  /-- LGATH (R414): Larder command that gathers rows by INT32 indices into a ring slot and advances the index pointer. -/
  | lgath (ld : Nat) (i : Nat)
  /-- LARDER_WAIT_RELEASE (R412): A Larder context waiting for a notice, data or a version becomes ready to issue again. -/
  | larderWaitRelease (ld : Nat) (i : Nat)
  /-- DAMAGE_INTEGRAL_UPDATE (R221): Every 10 µs, the management block reads each thermal region's hottest sensor, updates its integral, and withholds Summer or throttles as the integral requires. -/
  | damageIntegralUpdate (temps : List Int)
  /-- BUCKET_UPDATE (R224): Every 10 µs, the management block updates the energy bucket and decides whether Summer is in force. -/
  | bucketUpdate (mw : Nat)
  /-- CLPWR_REQ_WRITE (R225): A write of CLPWR.REQ closes or reopens the cluster's inboxes to new messages. -/
  | clpwrReqWrite (cl : Nat) (v : Bool)
  /-- CLRET_SAVE_GO (R226): A write of CLRET.SAVE.GO with ACK and IDLE set saves the cluster's register state to CLRET.BASE. -/
  | clretSaveGo (cl : Nat)
  /-- CLRET_SAVE_COMPLETE (R428): The save completes, STATE returns from SAVING to ACTIVE and DONE is set. -/
  | clretSaveComplete (cl : Nat)
  /-- CLCLK_GATE (R226): A write of CLCLK.GATE = 1 with ACK and IDLE set gates the cluster clock, discards the Attic and enters WINTER. -/
  | clclkGate (cl : Nat)
  /-- CLRAIL_RETENTION (R226): A write of CLRAIL.CTL = 0b01 in WINTER with DONE set turns off the VFAB section and puts VSRAM in retention. -/
  | clrailRetention (cl : Nat)
  /-- CLRAIL_OFF (R226): A write of CLRAIL.CTL = 0b10 in WINTER turns every section off and enters OFF. -/
  | clrailOff (cl : Nat)
  /-- CLWAKE (R226): A write of CLWAKE begins Spring from WINTER or OFF, or sets WAKEIGN in any other state. -/
  | clwake (cl : Nat)
  /-- SPRING_COMPLETE (R226): Spring ends with register state kept, restored or reset, TLBs invalidated and the cluster ACTIVE. -/
  | springComplete (cl : Nat)
  /-- ATTIC_DRAIN_SEND (R240): The Attic sends one record per network cycle to the cellar ring or to its trace port. -/
  | atticDrainSend (cl : Nat)
  /-- DBG_HALT (R234): A write of DBG.CTL.HALT stops the group: contexts halt, fabrics run to their next region edge, and blocks go to the stop area. -/
  | dbgHalt (pdom : Nat)
  /-- DBG_RUN (R234): A write of DBG.CTL.RUN reloads the stopped context blocks and runs every stopped group of the domain. -/
  | dbgRun (pdom : Nat)
  /-- FABRIC_STOP_AT_EDGE (R234): A stopping group's fabric reaches a commit completion, DONE or a fault freeze, and stops firing. -/
  | fabricStopAtEdge (core : Nat)
  /-- CAPTURE_START (R237): A write of DBG.SAMP.EN = 1 begins a capture of PC samples, snapshots or counter records. -/
  | captureStart (pdom : Nat)
  /-- CAPTURE_STOP (R237): A write of DBG.SAMP.EN = 0, or a revocation, ends the capture and writes a stop record to each Attic. -/
  | captureStop (pdom : Nat)
  /-- PC_SAMPLE (R236): Every 2^LOG2P fabric cycles, each running sampled context writes a PC-sample record, and each core writes an element snapshot when ELEM is set. -/
  | pcSample (pdom : Nat)
  /-- BREAKPOINT_HIT (R233): A pc, ENTER, LEAVE or commit breakpoint of the group matches; a hit record is written, a trap is raised or the group is stopped. -/
  | breakpointHit (c : Nat) (i : Nat)
  /-- WATCHPOINT_HIT (R233): A path S or path F access overlaps a watched range; a hit record is written, a trap is raised or the group is stopped. -/
  | watchpointHit (c : Nat) (j : Nat) (addr : Nat)
  /-- MDBG_HALT (R432): A write of MDBG.CTL.HALT halts the management sequencer at its next instruction boundary. -/
  | mdbgHalt
  /-- MDBG_RUN (R432): A write of MDBG.CTL.RUN resumes the management sequencer at MDBG.PC. -/
  | mdbgRun
  /-- MDBG_STEP (R432): A write of MDBG.CTL.STEP executes one management instruction and then halts. -/
  | mdbgStep
  /-- MDBG_BREAKPOINT_HIT (R432): The management sequencer halts before the instruction at an enabled MDBG breakpoint. -/
  | mdbgBreakpointHit (i : Nat)
  /-- SEQ_OPERATION_COMPLETE (R279): An outstanding sequencer operation completes, lowers its class count, and writes its pending scalar if it owes one. -/
  | seqOperationComplete (c : Nat) (i : Nat)
  /-- TIMECMP_MATCH (R320): In a network cycle in which TIME ≥ TIMECMP, MEVT.TIMER is set, which may end an IDLE. -/
  | timecmpMatch
  /-- VADD (R332): Node firing: elementwise add. -/
  | vadd (core : Nat) (elem : Nat) (k : Nat)
  /-- VSUB (R332): Node firing: elementwise subtract. -/
  | vsub (core : Nat) (elem : Nat) (k : Nat)
  /-- VMUL (R332): Node firing: elementwise multiply. -/
  | vmul (core : Nat) (elem : Nat) (k : Nat)
  /-- VFMA (R332): Node firing: fused multiply-add with one rounding. -/
  | vfma (core : Nat) (elem : Nat) (k : Nat)
  /-- VFMS (R332): Node firing: fused multiply-subtract with one rounding. -/
  | vfms (core : Nat) (elem : Nat) (k : Nat)
  /-- VMIN (R333): Node firing: elementwise minimum. -/
  | vmin (core : Nat) (elem : Nat) (k : Nat)
  /-- VMAX (R333): Node firing: elementwise maximum. -/
  | vmax (core : Nat) (elem : Nat) (k : Nat)
  /-- VABS (R332): Node firing: absolute value. -/
  | vabs (core : Nat) (elem : Nat) (k : Nat)
  /-- VNEG (R332): Node firing: negation. -/
  | vneg (core : Nat) (elem : Nat) (k : Nat)
  /-- VAND (R332): Node firing: bitwise AND of lanes. -/
  | vand (core : Nat) (elem : Nat) (k : Nat)
  /-- VOR (R332): Node firing: bitwise OR of lanes. -/
  | vor (core : Nat) (elem : Nat) (k : Nat)
  /-- VXOR (R332): Node firing: bitwise XOR of lanes. -/
  | vxor (core : Nat) (elem : Nat) (k : Nat)
  /-- VNOT (R332): Node firing: bitwise NOT of lanes. -/
  | vnot (core : Nat) (elem : Nat) (k : Nat)
  /-- VSHL (R332): Node firing: elementwise shift left. -/
  | vshl (core : Nat) (elem : Nat) (k : Nat)
  /-- VSHR (R332): Node firing: elementwise logical shift right. -/
  | vshr (core : Nat) (elem : Nat) (k : Nat)
  /-- VSHA (R332): Node firing: elementwise arithmetic shift right. -/
  | vsha (core : Nat) (elem : Nat) (k : Nat)
  /-- VRSHR (R334): Node firing: rounding shift right with saturation to an output range. -/
  | vrshr (core : Nat) (elem : Nat) (k : Nat)
  /-- VCMP (R335): Node firing: compare, in mask or predicate mode. -/
  | vcmp (core : Nat) (elem : Nat) (k : Nat)
  /-- VSEL (R332): Node firing: select x or y by z. -/
  | vsel (core : Nat) (elem : Nat) (k : Nat)
  /-- VCVT (R336): Node firing: type conversion. -/
  | vcvt (core : Nat) (elem : Nat) (k : Nat)
  /-- VSAT (R336): Node firing: saturate INT32 lanes to a width. -/
  | vsat (core : Nat) (elem : Nat) (k : Nat)
  /-- VEXP2 (R337): Node firing: 2^x. -/
  | vexp2 (core : Nat) (elem : Nat) (k : Nat)
  /-- VLOG2 (R337): Node firing: log2 x. -/
  | vlog2 (core : Nat) (elem : Nat) (k : Nat)
  /-- VRCP (R337): Node firing: reciprocal. -/
  | vrcp (core : Nat) (elem : Nat) (k : Nat)
  /-- VRSQ (R337): Node firing: reciprocal square root. -/
  | vrsq (core : Nat) (elem : Nat) (k : Nat)
  /-- VMAD (R332): Node firing: integer multiply-add. -/
  | vmad (core : Nat) (elem : Nat) (k : Nat)
  /-- VDOT4 (R338): Node firing: 4-way INT8 or 2-way INT16 dot product accumulated into INT32. -/
  | vdot4 (core : Nat) (elem : Nat) (k : Nat)
  /-- VRED (R339): Node firing: tree reduction of the 16 lanes. -/
  | vred (core : Nat) (elem : Nat) (k : Nat)
  /-- VSCAN (R340): Node firing: inclusive running fold along the lanes, with an optional carry. -/
  | vscan (core : Nat) (elem : Nat) (k : Nat)
  /-- VPERM (R341): Node firing: lane permutation by index, rotate, exchange or reverse. -/
  | vperm (core : Nat) (elem : Nat) (k : Nat)
  /-- VBCST (R341): Node firing: broadcast of lane k. -/
  | vbcst (core : Nat) (elem : Nat) (k : Nat)
  /-- VMOV (R341): Node firing: copy of one source. -/
  | vmov (core : Nat) (elem : Nat) (k : Nat)
  /-- VCLS (R332): Node firing: count of the leading bits that equal the sign bit. -/
  | vcls (core : Nat) (elem : Nat) (k : Nat)
  /-- PAND (R342): Node firing: predicate AND. -/
  | pand (core : Nat) (elem : Nat) (k : Nat)
  /-- POR (R342): Node firing: predicate OR. -/
  | por (core : Nat) (elem : Nat) (k : Nat)
  /-- PXOR (R342): Node firing: predicate XOR. -/
  | pxor (core : Nat) (elem : Nat) (k : Nat)
  /-- PNOT (R342): Node firing: predicate complement. -/
  | pnot (core : Nat) (elem : Nat) (k : Nat)
  /-- FILT (R344): Node firing: drops dead DATA tokens, or compacts live lanes into held tokens. -/
  | filt (core : Nat) (elem : Nat) (k : Nat)
  /-- EXPD (R345): Node firing: expands dense values under mask tokens. -/
  | expd (core : Nat) (elem : Nat) (k : Nat)
  /-- MRG (R346): Node firing: merges two streams fibre by fibre. -/
  | mrg (core : Nat) (elem : Nat) (k : Nat)
  /-- SPLT (R347): Node firing: routes fibres or tokens to o0 or o1 by a control stream. -/
  | splt (core : Nat) (elem : Nat) (k : Nat)
  /-- FORK (R343): Node firing: copies every token to every named output. -/
  | fork (core : Nat) (elem : Nat) (k : Nat)
  /-- DLY (R348): Node firing: delays DATA payloads by K tokens. -/
  | dly (core : Nat) (elem : Nat) (k : Nat)
  /-- SRC (R349): Node firing: writes constant or ramp tokens per permit. -/
  | src (core : Nat) (elem : Nat) (k : Nat)
  /-- SINK (R350): Node firing: takes and discards tokens. -/
  | sink (core : Nat) (elem : Nat) (k : Nat)
  /-- CNT (R356): Counter round: loads a held BOUND, writes TRIP index tokens, then a stop, and DONE after a LAST permit. -/
  | cnt (core : Nat) (elem : Nat) (k : Nat)
  /-- CSEQ (R122): Controller that starts its children one at a time, in order. -/
  | cseq (core : Nat) (elem : Nat) (k : Nat)
  /-- CPIPE (R122): Controller that pipelines its children's iterations up to its depth. -/
  | cpipe (core : Nat) (elem : Nat) (k : Nat)
  /-- CSTRM (R122): Controller that starts all its children at once. -/
  | cstrm (core : Nat) (elem : Nat) (k : Nat)
  /-- CONTROLLER_DONE_SIGNAL (R355): A child's done signal reaches its parent controller, which may send the next permit or report its own done. -/
  | controllerDoneSignal (core : Nat) (elem : Nat) (k : Nat)
  /-- AGEN (R365): Address generator firing: walks a tensor shape, index or ring and writes address tokens and stops. -/
  | agen (core : Nat) (elem : Nat) (k : Nat)
  /-- LDN (R370): Memory node firing: affine, indexed or linked load into DATA tokens. -/
  | ldn (core : Nat) (elem : Nat) (k : Nat)
  /-- LDCN (R370): Memory node firing: load that taints its tokens. -/
  | ldcn (core : Nat) (elem : Nat) (k : Nat)
  /-- STN (R372): Memory node firing: store, immediate or through the write log. -/
  | stn (core : Nat) (elem : Nat) (k : Nat)
  /-- LDVN (R374): Memory node firing: versioned load that waits for a version. -/
  | ldvn (core : Nat) (elem : Nat) (k : Nat)
  /-- STVN (R374): Memory node firing: logged versioned store. -/
  | stvn (core : Nat) (elem : Nat) (k : Nat)
  /-- LDFE (R375): Memory node firing: load that waits for full granules, optionally emptying them. -/
  | ldfe (core : Nat) (elem : Nat) (k : Nat)
  /-- STFE (R375): Memory node firing: store that waits for empty granules and fills them. -/
  | stfe (core : Nat) (elem : Nat) (k : Nat)
  /-- ATN (R376): Memory node firing: atomic update per live lane. -/
  | atn (core : Nat) (elem : Nat) (k : Nat)
  /-- ORDJ (R373): Node firing: joins ORDER tokens from up to three ports. -/
  | ordj (core : Nat) (elem : Nat) (k : Nat)
  /-- GTHR (R384): Matrix node firing: appends gathered row bases and prefetches the rows. -/
  | gthr (core : Nat) (elem : Nat) (k : Nat)
  /-- SCAT (R377): Memory node firing: writes data rows by index. -/
  | scat (core : Nat) (elem : Nat) (k : Nat)
  /-- RPORT (R378): Remote port firing: reads or writes a remote scratchpad window over a circuit. -/
  | rport (core : Nat) (elem : Nat) (k : Nat)
  /-- RECLN (R374): Memory node firing: logged version retirement. -/
  | recln (core : Nat) (elem : Nat) (k : Nat)
  /-- MLDB (R382): Matrix node firing: starts loading a B tile into the inactive latch. -/
  | mldb (core : Nat) (elem : Nat) (k : Nat)
  /-- MROW (R383): Matrix node firing: multiplies an A row into accumulator row p. -/
  | mrow (core : Nat) (elem : Nat) (k : Nat)
  /-- MACZ (R385): Matrix node action on a stop: zeroes the masked accumulator rows. -/
  | macz (core : Nat) (elem : Nat) (k : Nat)
  /-- MOUT (R385): Matrix node action on a stop: writes NR accumulator rows as tokens, optionally clearing them. -/
  | mout (core : Nat) (elem : Nat) (k : Nat)
  /-- MSEL (R385): Matrix node action on a stop: empties the active B latch. -/
  | msel (core : Nat) (elem : Nat) (k : Nat)
  /-- FSCAN (R391): Fibre firing: expands parent positions into child coordinate fibres in dense, compressed or singleton mode. -/
  | fscan (core : Nat) (elem : Nat) (k : Nat)
  /-- FINT (R393): Fibre firing: marks the intersection of two fibres in the predicates. -/
  | fint (core : Nat) (elem : Nat) (k : Nat)
  /-- FUNI (R394): Fibre firing: forms the union of two fibres. -/
  | funi (core : Nat) (elem : Nat) (k : Nat)
  /-- FREP (R395): Fibre firing: repeats one value across a fibre. -/
  | frep (core : Nat) (elem : Nat) (k : Nat)
  /-- FRED (R396): Fibre firing: reduces each level-0 fibre to one value. -/
  | fred (core : Nat) (elem : Nat) (k : Nat)
  /-- FDROP (R397): Fibre firing: drops dead tokens and empty fibres. -/
  | fdrop (core : Nat) (elem : Nat) (k : Nat)
  /-- ILD (R404): Vector slot firing: loads integrator state from a token. -/
  | ild (core : Nat) (elem : Nat) (k : Nat)
  /-- ISTEP (R165): Integrator element firing: one forward step of all sixteen integrators, applied whole or faulting. -/
  | istep (core : Nat) (elem : Nat) (k : Nat)
  /-- IRSTEP (R170): Integrator element firing: one reverse step that recovers the previous state. -/
  | irstep (core : Nat) (elem : Nat) (k : Nat)
  /-- ISMP (R405): Vector slot firing: samples integrator values after a step. -/
  | ismp (core : Nat) (elem : Nat) (k : Nat)
  /-- IENC (R406): Vector slot firing: encodes dense values as 4-bit increments. -/
  | ienc (core : Nat) (elem : Nat) (k : Nat)
  /-- IDEC (R407): Vector slot firing: accumulates increments into dense values. -/
  | idec (core : Nat) (elem : Nat) (k : Nat)
  deriving DecidableEq, Repr

end Sys2Proof
end

