-- ==== Sys2Proof/WellFormed.lean ====
section
/-! DEFINITION. Which terms of Instr are instructions of this machine: assigned codes for control instructions
(R257 item 3), existing cores, clusters, ports, Larders, contexts, elements and slots for events and firings. -/

namespace Sys2Proof

/-- Firing units or slots of an ELEM code (R107, R135): 6 slots in ve, 4 in mt and mn, 16 in ie, 2 in fu, 1 in ag,
cn and rp; 0 for a code that names no element. -/
def slotsOf (elem : Nat) : Nat :=
  if elem < 0x08 then 6
  else if elem < 0x10 then 4
  else if elem < 0x12 then 4
  else if 0x20 ≤ elem && elem < 0x30 then 16
  else if 0x30 ≤ elem && elem < 0x34 then 2
  else if 0x38 ≤ elem && elem < 0x3C then 1
  else if 0x40 ≤ elem && elem < 0x50 then 1
  else if 0x50 ≤ elem && elem < 0x52 then 1
  else 0

def okCore (core : Nat) : Bool := core < 256
def okCluster (cl : Nat) : Bool := cl < 8
def okPort (p : Nat) : Bool := p < 12
/-- A sequencer context: 4 * core + context, or 1024 for the management sequencer. -/
def okCtx (c : Nat) : Bool := c ≤ 1024
def okFire (core elem k : Nat) : Bool := okCore core && k < slotsOf elem
def okLarder (ld i : Nat) : Bool := ld < 40 && i < 16
def okInbox (i : Nat) : Bool := i < 8

/-- Well-formedness, constructor by constructor. -/
def wellFormed : Instr → Bool
  | .pwrgdAssert => true
  | .powerGoodHoldExpiry => true
  | .pwrgdDeassert => true
  | .railRemoval _ _ => true
  | .thermtripAssert => true
  | .refclkCoreLoss => true
  | .refclkCoreStable => true
  | .serdesRefclkLoss k => k < 3
  | .coldReset => true
  | .warmReset => true
  | .bootRomStage _ => true
  | .bootFabricFwStage _ => true
  | .portsUp => true
  | .i3cPrivateWrite _ => true
  | .i3cPrivateRead _ => true
  | .sbEnergyloRead => true
  | .enAccLowRead cl => okCluster cl
  | .linkUp port _ _ => okPort port
  | .linkDown port => okPort port
  | .fmpPacketReceive port _ _ _ => okPort port
  | .remoteWriteArrive rx dev cl _ _ => okPort rx.port && cl < 64 && dev < 1024
  | .remoteVersionedWriteArrive rx dev cl _ _ _ => okPort rx.port && cl < 64 && dev < 1024
  | .remoteReadArrive rx dev cl _ _ => okPort rx.port && cl < 64 && dev < 1024
  | .remoteAtomicArrive rx dev cl _ _ _ _ _ => okPort rx.port && cl < 64 && dev < 1024
  | .collectiveDataArrive rx dev cl inbox pdom _ _ _ _ _ => okPort rx.port && okCluster cl && okInbox inbox && dev < 1024 && pdom < 2 ^ 16
  | .hostUetRead rx pdom _ _ => okPort rx.port && pdom < 2 ^ 16
  | .hostUetWrite rx pdom _ _ _ => okPort rx.port && pdom < 2 ^ 16
  | .mgmtDebugUetAccess rx _ _ _ => okPort rx.port
  | .pdcRetransmitExhausted _ => true
  | .pdcClosedByPeer _ => true
  | .portModeTrace port => okPort port
  | .portModeDisable port => okPort port
  | .portModeData port => okPort port
  | .portModeSwitchComplete port => okPort port
  | .traceRecordSend port => okPort port
  | .packetBaddstDiscard _ => true
  | .flitCrcReplay _ => true
  | .localLeafDelivery _ => true
  | .memoryWriteApply _ _ => true
  | .memoryReadServe _ _ _ => true
  | .versionedStoreApply _ => true
  | .versionStoreWaitRelease _ => true
  | .versionStallTimeout _ => true
  | .atomicApply _ => true
  | .writeAcknowledgeArrive _ => true
  | .tlbMissWalkStart _ => true
  | .missEntryFree _ => true
  | .walkLevelReadReturn _ => true
  | .firstTouchZeroingDone _ => true
  | .uncorrectableRetryResult _ _ => true
  | .messageInboxEnqueue _ => true
  | .inboxAcceptAfterWait _ => true
  | .unitTakeMessage ep _ => ep < 64
  | .engineCommandComplete ep _ inbox => okInbox inbox && ep < 64
  | .mgRead => true
  | .mgWrite => true
  | .mgDomon => true
  | .mgDomoff => true
  | .mgDomcfg => true
  | .mgFwupd => true
  | .mgAttest => true
  | .mgDbgrd => true
  | .mgDbgwr => true
  | .launch => true
  | .launchTableEntryFree lid => lid < 2 ^ 16
  | .successorRelease lid => lid < 2 ^ 16
  | .donerepReply lid => lid < 2 ^ 16
  | .preempt => true
  | .preemptCoreSave core => okCore core
  | .resume => true
  | .resumeRegion => true
  | .resumeCoreRestore core => okCore core
  | .joinApply _ => true
  | .dispatch cl core k => okCore core && okCluster cl && k < 4
  | .gangDispatch cl slot cores => okCluster cl && cores.all okCore && slot < 2 ^ 20
  | .agePromotion cl slot => okCluster cl && slot < 2 ^ 20
  | .gangReservationStart cl => okCluster cl
  | .monitorFire _ => true
  | .barrierArrive c => okCtx c
  | .barrierRelease _ => true
  | .barrierBreak _ => true
  | .queueDrainStopWrite cl _ => okCluster cl
  | .registerWrite off _ _ => off < 2 ^ 32
  | .ceSlotWrite cl e p _ => okCluster cl && e < 2 && p < 2
  | .ldCtxKill ld i => okLarder ld i
  | .cfgComplete core => okCore core
  | .alignedTokenAlign core elem k => okFire core elem k
  | .faultQuiesceRecord core => okCore core
  | .commitPeriodInject core elem => okFire core elem 0
  | .commitPassTile core elem k => okFire core elem k
  | .drainPassTile core elem k => okFire core elem k
  | .regionDoneJoin core => okCore core
  | .barrierTokenPass core elem k => okFire core elem k
  | .logFullStallTimeout core elem k => okFire core elem k
  | .logSpaceFree core elem k => okFire core elem k
  | .egressLatchRelease core _ => okCore core
  | .timingErrorReplay core elem k => okFire core elem k
  | .elementWinterEntry core elem => okFire core elem 0
  | .elementWakeComplete core elem => okFire core elem 0
  | .arrivalBarrierComplete core b => okCore core && b < 64
  | .freedSlotNoticeArrive _ => true
  | .throttledNoticeRelease _ => true
  | .fullEmptyWaitRelease core elem k => okFire core elem k
  | .mldbLoadComplete core elem => okFire core elem 0
  | .loadResultWrite core elem k => okFire core elem k
  | .ldvnSatisfied core elem k => okFire core elem k
  | .sbsBatchSend _ => true
  | .sbsBatchApply _ => true
  | .ringHeadReread cl inbox => okCluster cl && okInbox inbox
  | .cpyLin cl e inbox => okCluster cl && okInbox inbox && e < 2
  | .cpyTile cl e inbox => okCluster cl && okInbox inbox && e < 2
  | .cpyGath cl e inbox => okCluster cl && okInbox inbox && e < 2
  | .cpyScat cl e inbox => okCluster cl && okInbox inbox && e < 2
  | .cpyMcast cl e inbox _ => okCluster cl && okInbox inbox && e < 2
  | .collAr cl inbox => okCluster cl && okInbox inbox
  | .collAg cl inbox => okCluster cl && okInbox inbox
  | .collRs cl inbox => okCluster cl && okInbox inbox
  | .collBc cl inbox => okCluster cl && okInbox inbox
  | .collStepAdvance cl inbox => okCluster cl && okInbox inbox
  | .sbsOn cl inbox => okCluster cl && okInbox inbox
  | .sbsOff cl inbox => okCluster cl && okInbox inbox
  | .sbsFlush cl inbox => okCluster cl && okInbox inbox
  | .ringPost cl inbox => okCluster cl && okInbox inbox
  | .larderLaunch ld => ld < 40
  | .lnop ld i => okLarder ld i
  | .lloop ld i => okLarder ld i
  | .lend ld i => okLarder ld i
  | .lbase ld i => okLarder ld i
  | .ladd ld i => okLarder ld i
  | .lpush ld i => okLarder ld i
  | .lpushm ld i _ => okLarder ld i
  | .lfill ld i => okLarder ld i
  | .lspill ld i => okLarder ld i
  | .lstamp ld i => okLarder ld i
  | .lwaitv ld i => okLarder ld i
  | .lbr ld i => okLarder ld i
  | .lhalt ld i => okLarder ld i
  | .lgath ld i => okLarder ld i
  | .larderWaitRelease ld i => okLarder ld i
  | .damageIntegralUpdate _ => true
  | .bucketUpdate _ => true
  | .clpwrReqWrite cl _ => okCluster cl
  | .clretSaveGo cl => okCluster cl
  | .clretSaveComplete cl => okCluster cl
  | .clclkGate cl => okCluster cl
  | .clrailRetention cl => okCluster cl
  | .clrailOff cl => okCluster cl
  | .clwake cl => okCluster cl
  | .springComplete cl => okCluster cl
  | .atticDrainSend cl => okCluster cl
  | .dbgHalt pdom => pdom < 2 ^ 16
  | .dbgRun pdom => pdom < 2 ^ 16
  | .fabricStopAtEdge core => okCore core
  | .captureStart pdom => pdom < 2 ^ 16
  | .captureStop pdom => pdom < 2 ^ 16
  | .pcSample pdom => pdom < 2 ^ 16
  | .breakpointHit c _ => okCtx c
  | .watchpointHit c _ _ => okCtx c
  | .mdbgHalt => true
  | .mdbgRun => true
  | .mdbgStep => true
  | .mdbgBreakpointHit i => i < 4
  | .timecmpMatch => true
  | .seqOperationComplete c _ => okCtx c
  | .add _ _ _ => true
  | .sub _ _ _ => true
  | .mul _ _ _ => true
  | .mulh _ _ _ _ => true
  | .div _ _ _ _ => true
  | .rem _ _ _ _ => true
  | .and _ _ _ => true
  | .or _ _ _ => true
  | .xor _ _ _ => true
  | .andn _ _ _ => true
  | .shl _ _ _ => true
  | .shr _ _ _ => true
  | .sha _ _ _ => true
  | .min _ _ _ _ => true
  | .max _ _ _ _ => true
  | .clz _ _ => true
  | .popc _ _ => true
  | .sext _ _ wd => wd.toNat < 3
  | .cmp _ _ _ cond => cond.toNat < 6
  | .sel _ _ _ => true
  | .addi _ _ _ => true
  | .andi _ _ _ => true
  | .ori _ _ _ => true
  | .xori _ _ _ => true
  | .shli _ _ _ => true
  | .shri _ _ _ => true
  | .shai _ _ _ => true
  | .cmpi _ _ cond _ => cond.toNat < 6
  | .limm _ _ => true
  | .addpc _ _ => true
  | .bCond _ _ cond _ => cond.toNat < 6
  | .biCond _ _ cond _ => cond.toNat < 6
  | .jmp _ => true
  | .jal _ => true
  | .jalr _ _ _ => true
  | .ld _ _ _ _ => true
  | .st _ _ _ _ => true
  | .ldc _ _ _ _ => true
  | .stv _ _ _ _ _ => true
  | .ldvt _ _ _ _ _ => true
  | .recl _ _ _ => true
  | .amo _ _ _ _ op => op.toNat < 9
  | .acas _ _ _ _ => true
  | .fence scope => scope.toNat < 5
  | .fencex px py scope => scope.toNat < 5 && px.toNat < 7 && py.toNat < 7
  | .waitc _ _ _ _ => true
  | .spawn _ _ _ => true
  | .join _ => true
  | .arm _ _ _ => true
  | .end_ => true
  | .trig => true
  | .gang _ => true
  | .bar => true
  | .cfg _ _ => true
  | .run _ => true
  | .bound _ _ => true
  | .inj _ _ _ => true
  | .rstat _ _ _ => true
  | .tidw _ _ => true
  | .tidr _ _ => true
  | .part _ _ => true
  | .send _ => true
  | .sendi _ => true
  | .csrr _ _ => true
  | .csrw _ _ => true
  | .csrs _ _ => true
  | .csrc _ _ => true
  | .trap _ => true
  | .nop => true
  | .halt => true
  | .idle => true
  | .rft => true
  | .bkpt => true
  | .enter _ => true
  | .leave _ => true
  | .capd _ _ _ => true
  | .capv _ _ => true
  | .tlbi _ _ => true
  | .vadd core elem k => okFire core elem k
  | .vsub core elem k => okFire core elem k
  | .vmul core elem k => okFire core elem k
  | .vfma core elem k => okFire core elem k
  | .vfms core elem k => okFire core elem k
  | .vmin core elem k => okFire core elem k
  | .vmax core elem k => okFire core elem k
  | .vabs core elem k => okFire core elem k
  | .vneg core elem k => okFire core elem k
  | .vand core elem k => okFire core elem k
  | .vor core elem k => okFire core elem k
  | .vxor core elem k => okFire core elem k
  | .vnot core elem k => okFire core elem k
  | .vshl core elem k => okFire core elem k
  | .vshr core elem k => okFire core elem k
  | .vsha core elem k => okFire core elem k
  | .vrshr core elem k => okFire core elem k
  | .vcmp core elem k => okFire core elem k
  | .vsel core elem k => okFire core elem k
  | .vcvt core elem k => okFire core elem k
  | .vsat core elem k => okFire core elem k
  | .vexp2 core elem k => okFire core elem k
  | .vlog2 core elem k => okFire core elem k
  | .vrcp core elem k => okFire core elem k
  | .vrsq core elem k => okFire core elem k
  | .vmad core elem k => okFire core elem k
  | .vdot4 core elem k => okFire core elem k
  | .vred core elem k => okFire core elem k
  | .vscan core elem k => okFire core elem k
  | .vperm core elem k => okFire core elem k
  | .vbcst core elem k => okFire core elem k
  | .vmov core elem k => okFire core elem k
  | .vcls core elem k => okFire core elem k
  | .pand core elem k => okFire core elem k
  | .por core elem k => okFire core elem k
  | .pxor core elem k => okFire core elem k
  | .pnot core elem k => okFire core elem k
  | .filt core elem k => okFire core elem k
  | .expd core elem k => okFire core elem k
  | .mrg core elem k => okFire core elem k
  | .splt core elem k => okFire core elem k
  | .fork core elem k => okFire core elem k
  | .dly core elem k => okFire core elem k
  | .src core elem k => okFire core elem k
  | .sink core elem k => okFire core elem k
  | .cnt core elem k => okFire core elem k
  | .cseq core elem k => okFire core elem k
  | .cpipe core elem k => okFire core elem k
  | .cstrm core elem k => okFire core elem k
  | .controllerDoneSignal core elem k => okFire core elem k
  | .agen core elem k => okFire core elem k
  | .ldn core elem k => okFire core elem k
  | .ldcn core elem k => okFire core elem k
  | .stn core elem k => okFire core elem k
  | .ldvn core elem k => okFire core elem k
  | .stvn core elem k => okFire core elem k
  | .ldfe core elem k => okFire core elem k
  | .stfe core elem k => okFire core elem k
  | .atn core elem k => okFire core elem k
  | .ordj core elem k => okFire core elem k
  | .gthr core elem k => okFire core elem k
  | .scat core elem k => okFire core elem k
  | .rport core elem k => okFire core elem k
  | .recln core elem k => okFire core elem k
  | .mldb core elem k => okFire core elem k
  | .mrow core elem k => okFire core elem k
  | .macz core elem k => okFire core elem k
  | .mout core elem k => okFire core elem k
  | .msel core elem k => okFire core elem k
  | .fscan core elem k => okFire core elem k
  | .fint core elem k => okFire core elem k
  | .funi core elem k => okFire core elem k
  | .frep core elem k => okFire core elem k
  | .fred core elem k => okFire core elem k
  | .fdrop core elem k => okFire core elem k
  | .ild core elem k => okFire core elem k
  | .istep core elem k => okFire core elem k
  | .irstep core elem k => okFire core elem k
  | .ismp core elem k => okFire core elem k
  | .ienc core elem k => okFire core elem k
  | .idec core elem k => okFire core elem k
  | .illegalInstructionTrap => true
  | .instructionFetchTrap cause => 1 ≤ cause && cause < 9
  | .larderUndefinedCommand ld i => okLarder ld i

end Sys2Proof
end

