-- ==== Sys2Proof/Decode.lean ====
section
/-! DEFINITION. Control words: the fields of R253, the decoder of R252 to R264 (total, every refusal by name)
and an encoder written from the same tables. Node words and Larder commands stand in Machine/NodeWord.lean and
Machine/Larder.lean. -/

namespace Sys2Proof

/-- Why a word decodes to nothing (R252, R254, R255, R257 items 2 to 4); each raises the illegal-instruction
trap with detail 0. -/
inductive Reject where
  | kind
  | pair
  | major
  | code
  | zeroField
  deriving DecidableEq, Repr

/-- The fields of a control word (R253): kind [31:30], major [29:24], d [23:19], a [18:14], low [13:0]. -/
structure Fields where
  kind : Nat
  major : Nat
  d : Nat
  a : Nat
  low : Nat
  deriving DecidableEq, Repr

def Fields.ofWord (w : Nat) : Fields :=
  ⟨w / 2 ^ 30 % 4, w / 2 ^ 24 % 64, w / 2 ^ 19 % 32, w / 2 ^ 14 % 32, w % 2 ^ 14⟩

def Fields.word (f : Fields) : Nat :=
  f.kind * 2 ^ 30 + f.major * 2 ^ 24 + f.d * 2 ^ 19 + f.a * 2 ^ 14 + f.low

def reg (n : Nat) : Reg := BitVec.ofNat 5 n

/-- Accepts when the must-be-zero fields are zero (R254). -/
def zeroed (ok : Bool) (i : Instr) : Except Reject Instr := if ok then .ok i else .error .zeroField

/-- Accepts when a code is assigned. -/
def assigned (ok : Bool) (r : Except Reject Instr) : Except Reject Instr := if ok then r else .error .code

/-- R259: the integer group. `fn` is the operation, `m` the modifier. -/
def decodeInteger (d a b : Nat) (fn m : Nat) : Except Reject Instr :=
  match fn with
  | 0 => assigned (m == 0) (.ok (.add (reg d) (reg a) (reg b)))
  | 1 => assigned (m == 0) (.ok (.sub (reg d) (reg a) (reg b)))
  | 2 => assigned (m == 0) (.ok (.mul (reg d) (reg a) (reg b)))
  | 3 => assigned (m < 2) (.ok (.mulh (reg d) (reg a) (reg b) (m == 1)))
  | 4 => assigned (m < 2) (.ok (.div (reg d) (reg a) (reg b) (m == 1)))
  | 5 => assigned (m < 2) (.ok (.rem (reg d) (reg a) (reg b) (m == 1)))
  | 6 => assigned (m == 0) (.ok (.and (reg d) (reg a) (reg b)))
  | 7 => assigned (m == 0) (.ok (.or (reg d) (reg a) (reg b)))
  | 8 => assigned (m == 0) (.ok (.xor (reg d) (reg a) (reg b)))
  | 9 => assigned (m == 0) (.ok (.andn (reg d) (reg a) (reg b)))
  | 10 => assigned (m == 0) (.ok (.shl (reg d) (reg a) (reg b)))
  | 11 => assigned (m == 0) (.ok (.shr (reg d) (reg a) (reg b)))
  | 12 => assigned (m == 0) (.ok (.sha (reg d) (reg a) (reg b)))
  | 13 => assigned (m < 2) (.ok (.min (reg d) (reg a) (reg b) (m == 1)))
  | 14 => assigned (m < 2) (.ok (.max (reg d) (reg a) (reg b) (m == 1)))
  | 15 => assigned (m == 0) (zeroed (b == 0) (.clz (reg d) (reg a)))
  | 16 => assigned (m == 0) (zeroed (b == 0) (.popc (reg d) (reg a)))
  | 17 => assigned (m < 3) (zeroed (b == 0) (.sext (reg d) (reg a) (BitVec.ofNat 2 m)))
  | 18 => assigned (m < 6) (.ok (.cmp (reg d) (reg a) (reg b) (BitVec.ofNat 3 m)))
  | 19 => assigned (m == 0) (.ok (.sel (reg d) (reg a) (reg b)))
  | _ => .error .code

/-- R264: the system group. -/
def decodeSystem (d a b fn : Nat) : Except Reject Instr :=
  match fn with
  | 0 => zeroed (d == 0 && a == 0 && b == 0) .nop
  | 1 => zeroed (d == 0 && a == 0 && b == 0) .halt
  | 2 => zeroed (d == 0 && a == 0 && b == 0) .idle
  | 3 => zeroed (d == 0 && a == 0 && b == 0) .rft
  | 4 => zeroed (d == 0 && a == 0 && b == 0) .bkpt
  | 5 => zeroed (d == 0 && b == 0) (.enter (reg a))
  | 6 => zeroed (d == 0 && b == 0) (.leave (reg a))
  | 7 => .ok (.capd (reg d) (reg a) (reg b))
  | 8 => zeroed (b == 0) (.capv (reg d) (reg a))
  | 9 => zeroed (d == 0) (.tlbi (reg a) (reg b))
  | _ => .error .code

/-- R264: the CSR group. -/
def decodeCsr (d a low : Nat) : Except Reject Instr :=
  match low / 2 ^ 12 % 4 with
  | 0 => zeroed (a == 0) (.csrr (reg d) (BitVec.ofNat 12 low))
  | 1 => zeroed (d == 0) (.csrw (reg a) (BitVec.ofNat 12 low))
  | 2 => zeroed (d == 0) (.csrs (reg a) (BitVec.ofNat 12 low))
  | _ => zeroed (d == 0) (.csrc (reg a) (BitVec.ofNat 12 low))

/-- R258: a single-word instruction, by major opcode. In BRC and the jumps the fields d and a hold other parts of
the instruction. -/
def decodeSingle (major d a low : Nat) : Except Reject Instr :=
  let b := low / 2 ^ 9 % 32
  let fn := low % 2 ^ 9
  match major with
  | 0x00 => decodeInteger d a b (fn % 64) (fn / 64)
  | 0x01 => .ok (.addi (reg d) (reg a) (BitVec.ofNat 14 low))
  | 0x02 => .ok (.andi (reg d) (reg a) (BitVec.ofNat 14 low))
  | 0x03 => .ok (.ori (reg d) (reg a) (BitVec.ofNat 14 low))
  | 0x04 => .ok (.xori (reg d) (reg a) (BitVec.ofNat 14 low))
  | 0x05 => zeroed (low / 64 == 0) (.shli (reg d) (reg a) (BitVec.ofNat 6 low))
  | 0x06 => zeroed (low / 64 == 0) (.shri (reg d) (reg a) (BitVec.ofNat 6 low))
  | 0x07 => zeroed (low / 64 == 0) (.shai (reg d) (reg a) (BitVec.ofNat 6 low))
  | 0x08 => assigned (low / 2 ^ 11 < 6)
      (.ok (.cmpi (reg d) (reg a) (BitVec.ofNat 3 (low / 2 ^ 11)) (BitVec.ofNat 11 low)))
  | 0x10 => assigned (low / 2 ^ 11 < 6)
      (.ok (.bCond (reg d) (reg a) (BitVec.ofNat 3 (low / 2 ^ 11)) (BitVec.ofNat 11 low)))
  | 0x11 => assigned (low / 2 ^ 11 < 6)
      (.ok (.biCond (reg d) (reg a) (BitVec.ofNat 3 (low / 2 ^ 11)) (BitVec.ofNat 11 low)))
  | 0x12 => .ok (.jmp (BitVec.ofNat 24 (d * 2 ^ 19 + a * 2 ^ 14 + low)))
  | 0x13 => .ok (.jal (BitVec.ofNat 24 (d * 2 ^ 19 + a * 2 ^ 14 + low)))
  | 0x14 => .ok (.jalr (reg d) (reg a) (BitVec.ofNat 14 low))
  | 0x18 => .ok (.ld (reg d) (reg a) (BitVec.ofNat 2 (low / 2 ^ 12)) (BitVec.ofNat 12 low))
  | 0x19 => .ok (.st (reg d) (reg a) (BitVec.ofNat 2 (low / 2 ^ 12)) (BitVec.ofNat 12 low))
  | 0x1A => .ok (.ldc (reg d) (reg a) (BitVec.ofNat 2 (low / 2 ^ 12)) (BitVec.ofNat 12 low))
  | 0x1B => .ok (.stv (reg d) (reg a) (reg b) (BitVec.ofNat 2 (fn / 2 ^ 7)) (BitVec.ofNat 7 fn))
  | 0x1C => .ok (.ldvt (reg d) (reg a) (reg b) (BitVec.ofNat 2 (fn / 2 ^ 7)) (BitVec.ofNat 7 fn))
  | 0x1D => assigned (fn / 2 ^ 7 == 3) (zeroed (d == 0) (.recl (reg a) (reg b) (BitVec.ofNat 7 fn)))
  | 0x1E => assigned (2 ≤ fn / 2 ^ 7 && fn % 16 < 9) (zeroed (fn / 16 % 8 == 0)
      (.amo (reg d) (reg a) (reg b) (BitVec.ofNat 1 (fn / 2 ^ 7)) (BitVec.ofNat 4 fn)))
  | 0x1F => assigned (2 ≤ fn / 2 ^ 7) (zeroed (fn % 2 ^ 7 == 0)
      (.acas (reg d) (reg a) (reg b) (BitVec.ofNat 1 (fn / 2 ^ 7))))
  | 0x20 => assigned (low % 8 < 5) (zeroed (d == 0 && a == 0 && low / 8 == 0) (.fence (BitVec.ofNat 3 low)))
  | 0x21 => assigned (low % 8 < 5 && low / 2 ^ 11 < 7 && low / 2 ^ 8 % 8 < 7)
      (zeroed (d == 0 && a == 0 && low / 8 % 32 == 0)
        (.fencex (BitVec.ofNat 3 (low / 2 ^ 11)) (BitVec.ofNat 3 (low / 2 ^ 8)) (BitVec.ofNat 3 low)))
  | 0x22 => zeroed (d == 0 && a == 0 && low / 2 ^ 12 == 0)
      (.waitc (BitVec.ofNat 3 (low / 2 ^ 9)) (BitVec.ofNat 3 (low / 2 ^ 6)) (BitVec.ofNat 3 (low / 8))
        (BitVec.ofNat 3 low))
  | 0x28 => zeroed (fn == 0) (.spawn (reg d) (reg a) (reg b))
  | 0x29 => zeroed (d == 0 && low == 0) (.join (reg a))
  | 0x2A => zeroed (fn == 0) (.arm (reg d) (reg a) (reg b))
  | 0x2B => zeroed (d == 0 && a == 0 && low == 0) .end_
  | 0x2C => zeroed (d == 0 && a == 0 && low == 0) .trig
  | 0x2D => zeroed (a == 0 && low == 0) (.gang (reg d))
  | 0x2E => zeroed (d == 0 && a == 0 && low == 0) .bar
  | 0x30 => zeroed (d == 0 && fn == 0) (.cfg (reg a) (reg b))
  | 0x31 => zeroed (d == 0 && low == 0) (.run (reg a))
  | 0x32 => zeroed (d == 0 && b == 0 && fn / 2 ^ 8 == 0) (.bound (reg a) (BitVec.ofNat 8 fn))
  | 0x33 => zeroed (d == 0 && fn / 2 ^ 8 == 0) (.inj (reg a) (reg b) (BitVec.ofNat 8 fn))
  | 0x34 => zeroed (fn == 0) (.rstat (reg d) (reg a) (reg b))
  | 0x35 => zeroed (d == 0 && low / 2 ^ 8 == 0) (.tidw (reg a) (BitVec.ofNat 8 low))
  | 0x36 => zeroed (d == 0 && low / 2 ^ 8 == 0) (.tidr (reg a) (BitVec.ofNat 8 low))
  | 0x37 => zeroed (low == 0) (.part (reg d) (reg a))
  | 0x38 => zeroed (d == 0 && low == 0) (.send (reg a))
  | 0x39 => zeroed (d == 0 && low == 0) (.sendi (reg a))
  | 0x3A => decodeCsr d a low
  | 0x3B => zeroed (d == 0 && a == 0) (.trap (BitVec.ofNat 14 low))
  | 0x3C => decodeSystem d a b fn
  | _ => .error .major

/-- R255: the two LONG forms. `lo` is imm[29:0] from the second word. -/
def decodeLong (major d a low lo : Nat) : Except Reject Instr :=
  zeroed (a == 0) (match major with
    | 0x09 => .limm (reg d) (BitVec.ofNat 44 (low * 2 ^ 30 + lo))
    | _ => .addpc (reg d) (BitVec.ofNat 44 (low * 2 ^ 30 + lo)))

/-- R252, R255: whether decoding a first word needs the word after it. -/
def isLong (w : W32) : Bool :=
  let f := Fields.ofWord w.toNat
  f.kind == 1 && (f.major == 0x09 || f.major == 0x0A)

/-- R252 to R264: the instruction in a word and the word after it (read only for a LONG form). -/
def decode (w w2 : W32) : Except Reject Instr :=
  let f := Fields.ofWord w.toNat
  match f.kind with
  | 0 => decodeSingle f.major f.d f.a f.low
  | 1 =>
    if f.major == 0x09 || f.major == 0x0A then
      if w2.toNat / 2 ^ 30 == 2 then decodeLong f.major f.d f.a f.low (w2.toNat % 2 ^ 30) else .error .pair
    else .error .pair
  | _ => .error .kind

/-- Bytes of an instruction (R252). -/
def Instr.size : Instr → Nat
  | .limm .. => 8
  | .addpc .. => 8
  | _ => 4

/-- R252: words stored little-endian, the first at the lowest address. -/
def wordBytes (w : W32) : List Byte := leBytes w.toNat 4

/-- The instruction at the head of a list of bytes, read in 4-byte words; missing bytes read 0. -/
def decodeBytes (l : List Byte) : Except Reject Instr :=
  decode (BitVec.ofNat 32 (leNat (l.take 4))) (BitVec.ofNat 32 (leNat ((l.drop 4).take 4)))

/-- The instruction in the low `nbits` bits of `w`, the first word in bits 31 to 0; higher bits are 0. -/
def decodeTableWord (nbits w : Nat) : Option Instr :=
  match decodeBytes (leBytes (w % 2 ^ nbits) 8) with
  | .ok i => some i
  | .error _ => none

/-! ### The encoder -/

/-- RRR low field: b and fn. -/
def lowB (b : Reg) (fn : Nat) : Nat := b.toNat * 2 ^ 9 + fn

/-- Fields of the first word, by R258 to R264; none for an event, which has no word. -/
def encodeFields : Instr → Option Fields
  | .add d a b => some ⟨0, 0x00, d.toNat, a.toNat, lowB b 0⟩
  | .sub d a b => some ⟨0, 0x00, d.toNat, a.toNat, lowB b 1⟩
  | .mul d a b => some ⟨0, 0x00, d.toNat, a.toNat, lowB b 2⟩
  | .mulh d a b u => some ⟨0, 0x00, d.toNat, a.toNat, lowB b ((if u then 64 else 0) + 3)⟩
  | .div d a b u => some ⟨0, 0x00, d.toNat, a.toNat, lowB b ((if u then 64 else 0) + 4)⟩
  | .rem d a b u => some ⟨0, 0x00, d.toNat, a.toNat, lowB b ((if u then 64 else 0) + 5)⟩
  | .and d a b => some ⟨0, 0x00, d.toNat, a.toNat, lowB b 6⟩
  | .or d a b => some ⟨0, 0x00, d.toNat, a.toNat, lowB b 7⟩
  | .xor d a b => some ⟨0, 0x00, d.toNat, a.toNat, lowB b 8⟩
  | .andn d a b => some ⟨0, 0x00, d.toNat, a.toNat, lowB b 9⟩
  | .shl d a b => some ⟨0, 0x00, d.toNat, a.toNat, lowB b 10⟩
  | .shr d a b => some ⟨0, 0x00, d.toNat, a.toNat, lowB b 11⟩
  | .sha d a b => some ⟨0, 0x00, d.toNat, a.toNat, lowB b 12⟩
  | .min d a b u => some ⟨0, 0x00, d.toNat, a.toNat, lowB b ((if u then 64 else 0) + 13)⟩
  | .max d a b u => some ⟨0, 0x00, d.toNat, a.toNat, lowB b ((if u then 64 else 0) + 14)⟩
  | .clz d a => some ⟨0, 0x00, d.toNat, a.toNat, 15⟩
  | .popc d a => some ⟨0, 0x00, d.toNat, a.toNat, 16⟩
  | .sext d a m => some ⟨0, 0x00, d.toNat, a.toNat, m.toNat * 64 + 17⟩
  | .cmp d a b m => some ⟨0, 0x00, d.toNat, a.toNat, lowB b (m.toNat * 64 + 18)⟩
  | .sel d a b => some ⟨0, 0x00, d.toNat, a.toNat, lowB b 19⟩
  | .addi d a i => some ⟨0, 0x01, d.toNat, a.toNat, i.toNat⟩
  | .andi d a i => some ⟨0, 0x02, d.toNat, a.toNat, i.toNat⟩
  | .ori d a i => some ⟨0, 0x03, d.toNat, a.toNat, i.toNat⟩
  | .xori d a i => some ⟨0, 0x04, d.toNat, a.toNat, i.toNat⟩
  | .shli d a i => some ⟨0, 0x05, d.toNat, a.toNat, i.toNat⟩
  | .shri d a i => some ⟨0, 0x06, d.toNat, a.toNat, i.toNat⟩
  | .shai d a i => some ⟨0, 0x07, d.toNat, a.toNat, i.toNat⟩
  | .cmpi d a c i => some ⟨0, 0x08, d.toNat, a.toNat, c.toNat * 2 ^ 11 + i.toNat⟩
  | .limm d i => some ⟨1, 0x09, d.toNat, 0, i.toNat / 2 ^ 30⟩
  | .addpc d i => some ⟨1, 0x0A, d.toNat, 0, i.toNat / 2 ^ 30⟩
  | .bCond a b c i => some ⟨0, 0x10, a.toNat, b.toNat, c.toNat * 2 ^ 11 + i.toNat⟩
  | .biCond a m c i => some ⟨0, 0x11, a.toNat, m.toNat, c.toNat * 2 ^ 11 + i.toNat⟩
  | .jmp i => some ⟨0, 0x12, i.toNat / 2 ^ 19, i.toNat / 2 ^ 14 % 32, i.toNat % 2 ^ 14⟩
  | .jal i => some ⟨0, 0x13, i.toNat / 2 ^ 19, i.toNat / 2 ^ 14 % 32, i.toNat % 2 ^ 14⟩
  | .jalr d a i => some ⟨0, 0x14, d.toNat, a.toNat, i.toNat⟩
  | .ld d a z o => some ⟨0, 0x18, d.toNat, a.toNat, z.toNat * 2 ^ 12 + o.toNat⟩
  | .st d a z o => some ⟨0, 0x19, d.toNat, a.toNat, z.toNat * 2 ^ 12 + o.toNat⟩
  | .ldc d a z o => some ⟨0, 0x1A, d.toNat, a.toNat, z.toNat * 2 ^ 12 + o.toNat⟩
  | .stv d a b z o => some ⟨0, 0x1B, d.toNat, a.toNat, lowB b (z.toNat * 2 ^ 7 + o.toNat)⟩
  | .ldvt d a b z o => some ⟨0, 0x1C, d.toNat, a.toNat, lowB b (z.toNat * 2 ^ 7 + o.toNat)⟩
  | .recl a b o => some ⟨0, 0x1D, 0, a.toNat, lowB b (3 * 2 ^ 7 + o.toNat)⟩
  | .amo d a b z p => some ⟨0, 0x1E, d.toNat, a.toNat, lowB b ((2 + z.toNat) * 2 ^ 7 + p.toNat)⟩
  | .acas d a b z => some ⟨0, 0x1F, d.toNat, a.toNat, lowB b ((2 + z.toNat) * 2 ^ 7)⟩
  | .fence sc => some ⟨0, 0x20, 0, 0, sc.toNat⟩
  | .fencex x y sc => some ⟨0, 0x21, 0, 0, x.toNat * 2 ^ 11 + y.toNat * 2 ^ 8 + sc.toNat⟩
  | .waitc l s c t => some ⟨0, 0x22, 0, 0, l.toNat * 2 ^ 9 + s.toNat * 2 ^ 6 + c.toNat * 8 + t.toNat⟩
  | .spawn d a b => some ⟨0, 0x28, d.toNat, a.toNat, lowB b 0⟩
  | .join a => some ⟨0, 0x29, 0, a.toNat, 0⟩
  | .arm d a b => some ⟨0, 0x2A, d.toNat, a.toNat, lowB b 0⟩
  | .end_ => some ⟨0, 0x2B, 0, 0, 0⟩
  | .trig => some ⟨0, 0x2C, 0, 0, 0⟩
  | .gang d => some ⟨0, 0x2D, d.toNat, 0, 0⟩
  | .bar => some ⟨0, 0x2E, 0, 0, 0⟩
  | .cfg a b => some ⟨0, 0x30, 0, a.toNat, lowB b 0⟩
  | .run a => some ⟨0, 0x31, 0, a.toNat, 0⟩
  | .bound a e => some ⟨0, 0x32, 0, a.toNat, e.toNat⟩
  | .inj a b e => some ⟨0, 0x33, 0, a.toNat, lowB b e.toNat⟩
  | .rstat d a b => some ⟨0, 0x34, d.toNat, a.toNat, lowB b 0⟩
  | .tidw a n => some ⟨0, 0x35, 0, a.toNat, n.toNat⟩
  | .tidr a n => some ⟨0, 0x36, 0, a.toNat, n.toNat⟩
  | .part d a => some ⟨0, 0x37, d.toNat, a.toNat, 0⟩
  | .send a => some ⟨0, 0x38, 0, a.toNat, 0⟩
  | .sendi a => some ⟨0, 0x39, 0, a.toNat, 0⟩
  | .csrr d r => some ⟨0, 0x3A, d.toNat, 0, r.toNat⟩
  | .csrw a r => some ⟨0, 0x3A, 0, a.toNat, 1 * 2 ^ 12 + r.toNat⟩
  | .csrs a r => some ⟨0, 0x3A, 0, a.toNat, 2 * 2 ^ 12 + r.toNat⟩
  | .csrc a r => some ⟨0, 0x3A, 0, a.toNat, 3 * 2 ^ 12 + r.toNat⟩
  | .trap i => some ⟨0, 0x3B, 0, 0, i.toNat⟩
  | .nop => some ⟨0, 0x3C, 0, 0, 0⟩
  | .halt => some ⟨0, 0x3C, 0, 0, 1⟩
  | .idle => some ⟨0, 0x3C, 0, 0, 2⟩
  | .rft => some ⟨0, 0x3C, 0, 0, 3⟩
  | .bkpt => some ⟨0, 0x3C, 0, 0, 4⟩
  | .enter a => some ⟨0, 0x3C, 0, a.toNat, 5⟩
  | .leave a => some ⟨0, 0x3C, 0, a.toNat, 6⟩
  | .capd d a b => some ⟨0, 0x3C, d.toNat, a.toNat, lowB b 7⟩
  | .capv d a => some ⟨0, 0x3C, d.toNat, a.toNat, 8⟩
  | .tlbi a b => some ⟨0, 0x3C, 0, a.toNat, lowB b 9⟩
  | _ => none

/-- imm[29:0] of a LONG form under its marker 0b10 (R253). -/
def secondWord : Instr → Nat
  | .limm _ i => 2 * 2 ^ 30 + i.toNat % 2 ^ 30
  | .addpc _ i => 2 * 2 ^ 30 + i.toNat % 2 ^ 30
  | _ => 0

/-- The words of an instruction; none for an event. -/
def encode (i : Instr) : List W32 :=
  match encodeFields i with
  | none => []
  | some f =>
    if i.size = 8 then [BitVec.ofNat 32 f.word, BitVec.ofNat 32 (secondWord i)] else [BitVec.ofNat 32 f.word]

end Sys2Proof
end

