-- ==== Sys2Proof/Config.lean ====
section
/-! DEFINITION. What is fixed for a part, and the free values: constants without a body, of which nothing can be
proved but that they are functions of their arguments. -/

namespace Sys2Proof.Config

/-- Free value (log entry 5): network cycles that pass in the step with this number. -/
opaque netCycles : Nat → Nat
/-- Free value (log entry 5): fabric cycles that pass in the step with this number. -/
opaque fabCycles : Nat → Nat
/-- Free value (log entry 12): the 36-bit CHECK drawn for a capability entry (R81, R322). -/
opaque drawCheck : Nat → BitVec 36
/-- Free value (log entry 13): a byte that a failed or overtaken store may have left (R37, R59, R158). -/
opaque looseByte : Nat → Byte

/-- Free values (log entry 66): what a byte that was written holds after a hold of R13 or R17, by the step's number, its place
and what it held, and whether its word keeps its versions. -/
opaque afterHold : Nat → Nat → Byte → Byte
opaque keepsVersions : Nat → Nat → Bool
/-- Free value (log entry 15): how many writes not yet visible to its path a read passes over (R211), by the step's
number. -/
opaque readAge : Nat → Nat
/-- Free value (log entry 16): a byte that another device returns, by the step's number and the byte's place. -/
opaque remoteByte : Nat → Nat → Byte
/-- Free value (log entry 16): what a versioned load finds at another device, modulo 3, by the step's number. -/
opaque remoteStatus : Nat → Nat

/-- Free value (log entry 23): the RESULT field of a reply whose result is data, by the step's number (R67, R74). -/
opaque dataResult : Nat → BitVec 57

/-- Free value (log entry 20): energy a cluster has used since the last update, in 10 nJ, by the step's number. -/
opaque clusterEnergy : Nat → Nat → Nat

/-- Free values (log entry 25): whether the first bytes of a domain-configuration command have the right magic and
type, and the JobID, device number, members and key that its body names (R35, R42, R74). -/
opaque domShape : List Byte → Bool
opaque domJob : List Byte → BitVec 24
opaque domDev : List Byte → BitVec 10
opaque domMembers : List Byte → List Nat
opaque domKey : List Byte → BitVec 256

/-- Free value (log entry 26): BARSTAT.EPOCH of a BAR in a task of gang size 1, which has no barrier (R98, R301). -/
opaque soloEpoch : Nat → Nat

/-- Free values (log entry 27): bytes of the save area whose layout is the implementation's own, and the length of a
fabric checkpoint there (R102). -/
opaque saveByte : Nat → Nat → BitVec 8
opaque ckptLen : Nat → Nat

/-- SHA-384, an external standard that the spec names and does not define (R19, log entry 14). -/
opaque sha384 : List Byte → BitVec 384
/-- HMAC-SHA-384 (R23): key, message (log entry 14). -/
opaque hmac384 : BitVec 384 → BitVec 384 → BitVec 384
/-- The ECDSA P-384 check of R20: x, y, r, s, signed bytes (log entry 14). -/
opaque ecdsaOk : List Byte → List Byte → List Byte → List Byte → List Byte → Bool
/-- The key pair drawn from a secret and a measurement (R23, log entry 14). -/
opaque deriveKey : BitVec 384 → BitVec 384 → BitVec 384
/-- An ECDSA P-384 signature, 96 bytes as one value: key, signed bytes (R23, R24, log entry 14). -/
opaque ecdsaSign : BitVec 384 → List Byte → BitVec 768
/-- The 256-bit unique secret fused into the package (R23), as a 384-bit key (log entry 14). -/
opaque uniqueSecret : BitVec 384
/-- The device identity key drawn from the unique secret (R23, log entry 14). -/
opaque identityKey : BitVec 384 → BitVec 384
/-- The measurement of the mask ROM (R24, log entry 14). -/
opaque romMeasurement : BitVec 384

/-- Keys of memory: HBM by its linear physical address, the cellar by its physical address, the pools above
them, the boot flash above those. One number names one byte (R51, R139, R21). -/
def poolBase : Nat := 2 ^ 44
/-- Bytes of one pool: 48 units of 64 KiB (R139). -/
def poolBytes : Nat := 3145728
def flashBase : Nat := 2 ^ 45
/-- Boot flash bytes (R21). -/
def flashBytes : Nat := 2 ^ 27

/-- What a byte reads as that nothing has written (R201, R208; log entry 2). -/
def blankByte : Byte := 0#8

end Sys2Proof.Config
end

