-- ==== Sys2Proof/Machine/State.lean ====
section
/-! DEFINITION. The state of the machine as plain data, its reasons to stop, and the state after a cold reset. -/

namespace Sys2Proof.Machine

/-- No rule of the spec stops the machine as a whole: traps, frozen regions, dropped packets and error replies
are all next states. So nobody raises a fault, which is safe: the type has no value. -/
inductive Fault where
  deriving DecidableEq, Repr

/-- Why an instruction has no meaning. -/
inductive Refusal where
  /-- Raised by `exec` for an instruction that has no meaning yet; safe, since the model stops. -/
  | notModelled (mnemonic : String)
  deriving DecidableEq, Repr

/-- Who issued an access or waits for a translation (R199, R462). -/
inductive Agent where
  /-- Sequencer context: 4 * core + context, or 1024 for the management sequencer. -/
  | seq (c : Nat)
  /-- A firing unit: core, ELEM code, slot of a memory tile or 0. -/
  | unit (core elem k : Nat)
  /-- A command of an engine: endpoint, unit, inbox. -/
  | eng (ep unit inbox : Nat)
  /-- A Larder program: Larder, context. -/
  | larder (ld i : Nat)
  /-- A host access through a port block. -/
  | port (b : Nat)
  | launchEngine
  | mgmtBlock
  /-- Another device's cluster (R32). -/
  | remote (dev cl : Nat)
  deriving DecidableEq, Repr

/-- A token (R110, R111). An increment token holds its sixteen increments sign-extended in the lanes. -/
structure Tok where
  kind : Nat := 0
  taint : Bool := false
  pred : BitVec 16 := 0#16
  lanes : List W32 := []
  deriving DecidableEq, Repr

/-! ### Package (R11 to R27) -/

structure Pkg where
  vaux : Bool := true
  /-- Every other rail within its window. -/
  rails : Bool := false
  pwrgd : Bool := false
  pwrgdAt : Nat := 0
  /-- Every domain but the management block held in reset: by R13, and by R17. -/
  hold : Bool := true
  clkHold : Bool := false
  thermtrip : Bool := false
  refLost : Bool := false
  serLost : BitVec 3 := 0#3
  bootStage : BitVec 8 := 0#8
  /-- `Clk.up` when the running boot began (R24). -/
  bootAt : Nat := 0
  failCode : BitVec 8 := 0#8
  celOff : Bool := false
  clkFlt : Bool := false
  recovery : Bool := false
  therm : Bool := false
  railFlt : Bool := false
  sbPtr : BitVec 8 := 0#8
  tempMax : W32 := 0#32
  power : W32 := 0#32
  /-- Power of the last 100 intervals of 10 µs, newest first. -/
  powers : List Nat := []
  /-- Energy accumulator in units of 10 nJ; it reads in mJ. -/
  energy : Nat := 0
  energyLatch : W32 := 0#32
  serial : BitVec 128 := 0#128
  fwSvn : W32 := 0#32
  keyHash : SMap (BitVec 384) := []
  revoked : BitVec 4 := 0#4
  minSvn : Nat := 0
  development : Bool := false
  bootCount : W32 := 0#32
  secretReadable : Bool := true
  romMeas : BitVec 384 := 0#384
  mgmtMeas : BitVec 384 := 0#384
  fabMeas : BitVec 384 := 0#384
  layerSecret : BitVec 384 := 0#384
  layerKey : BitVec 384 := 0#384
  aliasKey : BitVec 384 := 0#384
  layerCert : BitVec 768 := 0#768
  aliasCert : BitVec 768 := 0#768
  cellarChannels : Nat := 32
  cellarDensities : List Nat := [32]
  deriving DecidableEq, Repr

/-- Time: network and fabric cycles since reset, and network cycles since the model began, which no reset stops; `tick`
is the model's own step number (log entry 5). -/
structure Clk where
  up : Nat := 0
  time : Nat := 0
  fab : Nat := 0
  tick : Nat := 0
  deriving DecidableEq, Repr

/-! ### Memory (R51, R58, R59, R139 to R146, R201 to R211) -/

/-- The versions of one word: the newest number and the older live versions with their images, newest first. -/
structure WordVer where
  newest : Nat := 0
  older : List (Nat × W64) := []
  deriving DecidableEq, Repr

/-- A byte that the paths `readers` may still read as `old`, although path `writer` has replaced it (R211).
Newest first in the list that holds them. -/
structure Stale where
  writer : Nat
  by_ : Agent
  key : Nat
  old : Byte
  readers : List Nat
  deriving DecidableEq, Repr

structure FrameSt where
  owner : Option Nat := none
  retired : Bool := false
  deriving DecidableEq, Repr

/-- The stream that a ring is bound to, its pushes, its notices and the OVER flag (R145 to R147). -/
structure RingSt where
  bound : Option Agent := none
  pushes : Nat := 0
  notices : Nat := 0
  overran : Bool := false
  deriving DecidableEq, Repr

/-- A freed-slot notice under way: core, ring entry, the producer it is for, and the time before which throttling holds it
(R146, R223). -/
structure Notice where
  core : Nat
  ring : Nat
  to_ : Agent
  hold : Nat := 0
  deriving DecidableEq, Repr

/-- One atomic update (R262, R376): where, the operation code, dword, FP32, compare value if a
compare-and-swap, operand. -/
structure Atomic where
  key : Nat
  op : Nat
  dword : Bool
  fp : Bool
  cas : Option W64
  x : W64
  deriving DecidableEq, Repr

/-- What a collective packet says of itself: w6 and group word, step, byte offset (R39, R420). -/
structure CollHead where
  desc : W64
  group : W64
  stepNo : Nat
  offset : Nat
  deriving DecidableEq, Repr

inductive ReqKind where
  | read | write | atomic | vstore | vload | retire
  deriving DecidableEq, Repr

/-- A request in flight to its owning memory (R47). -/
structure Req where
  by_ : Agent
  path : Nat
  kind : ReqKind
  va : Nat := 0
  /-- Another device's, under this device number (R36). -/
  dev : Option Nat := none
  /-- Keys of the bytes to read, and bytes to write. -/
  rd : List Nat := []
  wr : List (Nat × Byte) := []
  ver : Nat := 0
  ats : List Atomic := []
  /-- A consume load; an access whose address or data is tainted (R210). -/
  consume : Bool := false
  dep : Bool := false
  /-- Sets full bits and counts in arrival barriers (R143, R145). -/
  eng : Bool := false
  /-- Over a circuit of R148: 1 counts in arrival barriers, 2 is also an STFE; 3 an STFE of the tile's own core. -/
  circ : Nat := 0
  /-- Waits at a full version slot since this time (R206). -/
  heldAt : Option Nat := none
  applied : Bool := false
  /-- A reply of R67: when it fails it is lost and counted (R70). -/
  reply : Bool := false
  /-- The circuit and the port that a request of a host or another device came in on (R68, R73). -/
  pdc : Nat := 0
  hostPort : Nat := 0
  /-- Collective data, on RUDI (R31). -/
  coll : Option CollHead := none
  /-- The write acknowledge has arrived; the issuer has taken the data. -/
  acked : Bool := false
  taken : Bool := false
  /-- Deferred fault cause found at the owning memory (R293). -/
  bad : Nat := 0
  /-- Fences that this access precedes: the number of the first request after each, and its scope (R209). -/
  fences : List (Nat × Nat) := []
  vals : List W64 := []
  bytes : List Byte := []
  status : Nat := 0
  deriving DecidableEq, Repr

structure MemSt where
  bytes : SMap Byte := []
  vers : SMap WordVer := []
  stale : List Stale := []
  full : SMap Bool := []
  arrive : SMap Nat := []
  frames : SMap FrameSt := []
  part : SMap W64 := []
  tids : SMap (List W64) := []
  rings : SMap RingSt := []
  spares : SMap Nat := []
  withdrawn : SMap Bool := []
  lastPdom : SMap (Option Nat) := []
  reqs : SMap (Option Req) := []
  nextReq : Nat := 0
  notices : List Notice := []
  errcnt : SMap W64 := []
  baddst : W32 := 0#32
  /-- By bank of a pool: one past the fabric cycle of the last access, and its row (R139; log entry 91). -/
  banks : SMap (Nat × Nat) := []
  deriving DecidableEq, Repr

/-! ### Translation (R35, R36, R52 to R58, R72) -/

structure Dom where
  root : Nat := 0
  maxPrio : Nat := 0
  debug : Bool := false
  deriving DecidableEq, Repr

/-- A translation: level 2, 3 or 4 gives the page size; rights RD, W, X; remote device. -/
structure TlbE where
  pdom : Nat
  level : Nat
  vpn : Nat
  base : Nat
  rd : Bool
  wr : Bool
  ex : Bool
  dev : Option Nat
  deriving DecidableEq, Repr

/-- A miss entry (R56): the TLB group it belongs to, its page, who waits with the right each needs
(0 read, 1 write, 2 fetch, 3 read or write), the walk's next level and table address, and the leaf found when
its frames are being zeroed. -/
structure Miss where
  group : Nat
  pdom : Nat
  va : Nat
  waiters : List (Agent × Nat)
  level : Nat := 0
  table : Nat := 0
  leaf : Option TlbE := none
  deriving DecidableEq, Repr

/-- An access that waits for a miss entry (R56). -/
structure Want where
  who : Agent
  pdom : Nat
  va : Nat
  acc : Nat
  /-- Found all 32 miss entries of its L1 in use. -/
  held : Bool := false
  deriving DecidableEq, Repr

structure XlatSt where
  doms : SMap (Option Dom) := [(0, some { maxPrio := 7 })]
  /-- TLB contents by group: 0 to 255 L1 of a core, 256 + c L2 of cluster c, 264 + b port block b,
  270 launch engine, 271 management block. -/
  tlbs : SMap (List TlbE) := []
  /-- Walk caches by walker group (0 to 7 clusters, 8 I/O): PDOM, level, address bits above it, next table. -/
  caches : SMap (List (Nat × Nat × Nat × Nat)) := []
  misses : List Miss := []
  wants : List Want := []
  /-- Faults delivered and not yet taken: agent, PDOM, page address, cause. -/
  faults : List (Agent × Nat × Nat × Nat) := []
  domValid : Bool := false
  jobid : BitVec 24 := 0#24
  devnum : BitVec 10 := 0#10
  members : List Nat := []
  domKey : BitVec 256 := 0#256
  deriving DecidableEq, Repr

/-! ### Messages and engines (R61 to R71, R149 to R158, R410 to R423) -/

/-- A message: its eight words, the issuing domain, the sending agent and request (for class CP), the device it
came from. -/
structure Msg where
  words : List W64
  pdom : Nat
  sender : Agent
  req : Option Nat := none
  host : Bool := false
  srcdev : Nat := 0
  port : Nat := 0
  /-- The circuit that it came in on (R34, R68). -/
  pdc : Nat := 0
  lid : Nat := 0
  deriving DecidableEq, Repr

/-- A message under way to its inbox (R65). -/
structure NetMsg where
  msg : Msg
  src : Nat
  waiting : Bool := false
  deriving DecidableEq, Repr

/-- A command in execution (R66, R71): the message, whether its effects are complete, its reply word and data. -/
structure Cmd where
  msg : Msg
  step : Nat := 0
  finished : Bool := false
  err : Bool := false
  cause : Nat := 0
  result : Nat := 0
  data : List Byte := []
  part_ : List W32 := []
  /-- Other devices that the command has reached (R37). -/
  devs : List Nat := []
  /-- The step at which the unit took it (R150). -/
  took : Nat := 0
  /-- CPY.GATH: packets of the rows that the group under way has read, by index and column (R157). -/
  rows : List (Int × Nat × List Byte) := []
  deriving DecidableEq, Repr

/-- Data of a collective that a partner has sent: receiving cluster and inbox, the partner's w6 and group word, step,
byte offset, bytes (R39, R420). -/
structure CollPkt where
  cl : Nat
  inbox : Nat
  desc : W64
  group : W64
  stepNo : Nat
  offset : Nat
  bytes : List Byte
  /-- Why the bytes do not reach the member's memory: cause and detail (R57). -/
  bad : Option (Nat × Nat) := none
  deriving DecidableEq, Repr

structure Sub where
  cl : Nat
  pubEntry : Nat
  pubCore : Nat
  subEntry : Nat
  subCore : Nat
  pub : Nat
  sub : Nat
  len : Nat
  pdom : Nat
  lid : Nat
  statusVa : Nat
  statusVer : Nat
  /-- 0 ACTIVE, 1 BUFFERING, 2 LAPSED, 3 FLUSHING (R154); 4 freed, with batches on their way. -/
  state : Nat := 0
  /-- The publisher's task's context (R153). -/
  pubCtx : Nat
  /-- Pending bytes of the window: offset and value. -/
  pending : SMap (Option Byte) := []
  /-- By line with pending bytes: the network cycle at which its batch is due (R153). -/
  due : SMap (Option Nat) := []
  /-- Batches sent and not yet applied, or held while BUFFERING. -/
  sent : List (List (Nat × Byte)) := []
  deriving DecidableEq, Repr

structure LCtx where
  prog : List W64 := []
  base : List W64 := []
  index : Nat := 0
  loops : List (Nat × Nat) := []
  sc : Nat := 0
  pdom : Nat := 0
  tcore : Nat := 0
  rmask : Nat := 0
  /-- R417 STATE: 0 free, 1 running, 2 notice, 3 version, 4 acknowledges, 5 ended by error. -/
  state : Nat := 0
  cause : Nat := 0
  kill : Bool := false
  written : Nat := 0
  msg : Option Msg := none
  /-- Bytes of the fill or spill under way already copied. -/
  pos : Nat := 0
  devs : List Nat := []
  /-- The failure of an access under way: cause and detail (R37, R59). -/
  lost : Option (Nat × Nat) := none
  deriving DecidableEq, Repr

structure MsgStat where
  lost : Nat := 0
  errs : Nat := 0
  peak : Nat := 0
  deriving DecidableEq, Repr

structure MsgSt where
  /-- Inboxes by 4096 * endpoint + 64 * unit + inbox. -/
  inbox : SMap (List Msg) := []
  net : List NetMsg := []
  /-- Commands in execution, by the same key. -/
  cmds : SMap (Option Cmd) := []
  /-- Unit statistics by 64 * endpoint + unit. -/
  stat : SMap MsgStat := []
  subs : List Sub := []
  larders : SMap LCtx := []
  /-- CE.SLOT tables by 4 * cluster + 2 * engine + port; a value written and the network cycle of the write. -/
  ceSlot : SMap W64 := []
  cePend : SMap (Option W64) := []
  ceAt : SMap Nat := []
  collIn : List CollPkt := []
  deriving DecidableEq, Repr

/-! ### Scheduler (R76 to R80, R83 to R106) -/

structure Launch where
  pdom : Nat
  cmask : BitVec 8
  u : Nat
  e : Nat
  pred : Option Nat := none
  donerep : Bool := false
  /-- The LAUNCH, whose reply address takes the second reply. -/
  msg : Msg
  /-- Records written, and their handles for a launch with a predecessor. -/
  written : Nat := 0
  handles : List Nat := []
  /-- The predecessor's joins have been sent. -/
  joined : Bool := false
  replied : Bool := false
  preempted : Bool := false
  deriving DecidableEq, Repr

/-- R87 states of a slot that is not FREE. -/
inductive RecSt where
  | pending | ready | withheld
  deriving DecidableEq, Repr

structure Rec where
  code : W64
  frame : W64
  join : Nat
  pdom : Nat
  lid : Nat
  prio : Nat
  maxPrio : Nat
  gang : Nat
  keep : Bool
  fab : Bool
  notrig : Bool
  st : RecSt
  seq : Nat := 0
  /-- Network cycle since which the record is ready at its priority, and since which it is ready; while it is withheld,
  the ages that it keeps (R87, R89, R97). -/
  since : Nat := 0
  readyAt : Nat := 0
  deriving DecidableEq, Repr

structure Monitor where
  cl : Nat
  key : Nat
  ver : Nat
  handle : Nat
  deriving DecidableEq, Repr

structure GangSt where
  /-- Member contexts in rank order. -/
  members : List Nat
  /-- A gang across clusters also holds a barrier of the device root. -/
  cross : Bool
  clusters : List Nat
  /-- Barrier number, in the node of the first cluster or at the root. -/
  id : Nat
  /-- The superstep's number, from 1. -/
  epoch : Nat := 1
  arrived : List Nat := []
  /-- Members that have triggered or ended, and that have ended (R94). -/
  trigs : List Nat := []
  ended : List Nat := []
  broken : Bool := false
  deriving DecidableEq, Repr

/-! ### Contexts (R277 to R320) -/

/-- R277, R320: what a context does. -/
inductive RunSt where
  | idle | running | halted | stopped
  /-- Halted by PREEMPT and not yet saved (R100). -/
  | preempted
  deriving DecidableEq, Repr

/-- The forms that start an operation (R279). -/
inductive OpForm where
  | ld | st | ldvt | amo | tidr
  | send | spawn | join | arm | capd | capv | tlbi
  | cfg | run | bound | inj | tidw | part | bar
  deriving DecidableEq, Repr

/-- An outstanding operation (R279): the classes it still counts in, its request, the scalar it owes, its
operands. -/
structure Op where
  id : Nat
  form : OpForm
  inLd : Bool := false
  inSt : Bool := false
  inCp : Bool := false
  inTl : Bool := false
  req : Option Nat := none
  dst : Option Reg := none
  taint : Bool := false
  va : Nat := 0
  /-- The unit has completed the command. -/
  done : Bool := false
  x : W64 := 0#64
  y : W64 := 0#64
  n : Nat := 0
  deriving DecidableEq, Repr

structure Csrs where
  cycleBase : Nat := 0
  tvec : W64 := 0#64
  tpc : W64 := 0#64
  tcause : BitVec 8 := 0#8
  tdetail : W64 := 0#64
  inTrap : Bool := false
  deferred : Bool := false
  trec : W64 := 0#64
  vstat : BitVec 16 := 0#16
  barEpoch : BitVec 16 := 0#16
  barPending : Bool := false
  barBroken : Bool := false
  tidwRef : Bool := false
  cfgFail : Bool := false
  discard : Bool := false
  mevt : BitVec 3 := 0#3
  mevtEn : BitVec 3 := 0#3
  timecmp : W64 := BitVec.ofNat 64 (2 ^ 64 - 1)
  deriving DecidableEq, Repr

/-- The task: its record's words and its place in launch and gang (R83, R94, R96). -/
structure Task where
  code : W64 := 0#64
  frame : W64 := 0#64
  recw3 : W64 := 0#64
  pdom : Nat := 0
  lid : Nat := 0
  fab : Bool := false
  notrig : Bool := false
  triggered : Bool := false
  gang : Option Nat := none
  rank : Nat := 0
  size : Nat := 1
  deriving DecidableEq, Repr

/-- A deferred fault (R293): cause, address, the classes of the failed access, its destination, the narrowest scope
that covers its target (R200). -/
structure Owed where
  /-- The operation's number, which gives issue order. -/
  id : Nat
  cause : Nat
  va : Nat
  inLd : Bool
  inSt : Bool
  inCp : Bool
  inTl : Bool
  dst : Option Reg
  scope : Nat
  deriving DecidableEq, Repr

structure Ctx where
  run : RunSt := .idle
  regs : SMap W64 := []
  taint : BitVec 32 := 0#32
  pc : W64 := 0#64
  /-- Operations outstanding, in issue order; the LD, ST, CP and TL counts and the pending bits are counted from
  them. -/
  ops : List Op := []
  nextOp : Nat := 0
  /-- Deferred faults owed, oldest first (R293). -/
  owed : List Owed := []
  /-- A trap that pre-emption saved, taken first on resume: cause, detail (R101, R103). -/
  pendTrap : Option (Nat × W64) := none
  csr : Csrs := {}
  task : Task := {}
  cfgSince : Bool := false
  cfgFailed : Bool := false
  ranSince : Bool := false
  stack : SMap (BitVec 16) := []
  depth : Nat := 0
  /-- R232: the lowest entries of the stack that later ones have overwritten. -/
  lost : Nat := 0
  /-- The fabric cycle at which a halt stopped the cycle counter (R234). -/
  froze : Option Nat := none
  /-- R236's stall reason; while it is 8, the pc of the instruction whose cycles run (R277). -/
  stall : Nat := 0
  slowPc : W64 := 0#64
  /-- 1 once the breakpoints at pc have been passed, 2 once those of the LEAVE or access there have (R233, R432). -/
  bpDone : Nat := 0
  endWait : Bool := false
  /-- A BAR was outstanding when PREEMPT halted the context (R101). -/
  barHeld : Bool := false
  deriving DecidableEq, Repr

/-! ### Fabric (R107 to R138, R161 to R180, R324 to R409) -/

/-- A channel word of R268 and what the channel holds. -/
structure Chan where
  pelem : Nat
  pslot : Nat
  pport : Nat
  inc : Bool
  celem : Nat
  cslot : Nat
  cport : Nat
  depth : Nat
  q : List Tok := []
  resv : Nat := 0
  deriving DecidableEq, Repr

/-- A node word of R269 with its extension word. -/
structure Node where
  opc : Nat := 0
  ty : Nat := 0
  selA : Nat := 0
  selB : Nat := 0
  selC : Nat := 0
  omask : BitVec 4 := 0#4
  pm : Nat := 0
  rm : Nat := 0
  px : Bool := false
  fn : Nat := 0
  param : Nat := 0
  ext : Nat := 0
  deriving DecidableEq, Repr

/-- A firing under way in a ve or fu unit: next slot to run, its tokens from ports a, b, c, the last result. -/
structure Fly where
  next : Nat
  a : Tok
  b : Tok
  c : Tok
  prev : Tok
  deriving DecidableEq, Repr

/-- Carried state of R352 and R398; each operation's entry says which fields it uses. -/
structure Carry where
  toks : List Tok := []
  toks2 : List Tok := []
  vals : List W32 := []
  flags : List (Bool × Bool) := []
  n : Nat := 0
  n2 : Nat := 0
  n3 : Nat := 0
  v : Option W32 := none
  on : Bool := false
  taint : Bool := false
  deriving DecidableEq, Repr

/-- Per port: tokens taken, DONE taken, top-level stop taken, level-0 fibres since the last aligned token,
whether the last token taken was a stop or nothing. -/
structure PortSt where
  taken : Nat := 0
  done : Bool := false
  closed : Bool := false
  fibres : Nat := 0
  fibres1 : Nat := 0
  open1 : Bool := false
  atEdge : Bool := true
  deriving DecidableEq, Repr

/-- A load or access of a memory-tile unit under way: its request, the address token, the output token of a
stop or DONE that passes (R363). -/
structure Pend where
  req : Option Nat
  addr : Tok
  pass : Option Tok := none
  /-- Still in the egress latch (R132). -/
  latched : Bool := false
  /-- Tokens that port a took before the one that gives the address (R135). -/
  before : Nat := 0
  deriving DecidableEq, Repr

/-- What waits in the egress latch of R132. -/
structure Egress where
  elem : Nat
  k : Nat
  req : Req
  deriving DecidableEq, Repr

structure Integ where
  y : Int := 0
  w : Nat := 0
  dl : Int := 0
  deriving DecidableEq, Repr

/-- One B latch (R380, R382): 0 EMPTY, 1 LOADING, 2 READY; its read under way; from where it loads; its 64
columns. -/
structure Latch where
  st : Nat := 0
  req : Option Nat := none
  base : Nat := 0
  stride : Int := 0
  space : Nat := 0
  /-- The base token was tainted. -/
  taint : Bool := false
  /-- Tokens that port b took before the base token (R135). -/
  before : Nat := 0
  cols : List (List Byte) := []
  deriving DecidableEq, Repr

structure Mat where
  l0 : Latch := {}
  l1 : Latch := {}
  active : Bool := false
  acc : SMap W32 := []
  p : Nat := 0
  gather : List Nat := []
  gatherFull : Bool := false
  /-- Accumulator rows that hold a tainted result, and whether the gather list does (R121). -/
  tainted : List Nat := []
  gatherTaint : Bool := false
  ovf : Bool := false
  /-- Slots below this number have acted for the stop at port a. -/
  acted : Nat := 0
  deriving DecidableEq, Repr

/-- An address generator's copied shape and its walk (R159, R365 to R368). -/
structure Gen where
  space : Nat := 0
  fmt : Nat := 0
  ndim : Nat := 0
  base : Int := 0
  ext : List Nat := []
  str : List Int := []
  /-- Ring entry: T, N, W, BB. -/
  ring : Option (Nat × Nat × Nat × Nat) := none
  round : Nat := 0
  busy : Bool := false
  idx : List Nat := []
  col : Nat := 0
  /-- Stops still to write after a row. -/
  stops : List Nat := []
  lanes : List Nat := []
  last : Bool := false
  bound : Bool := false
  /-- Translations that the unit holds (R323). -/
  pages : List TlbE := []
  deriving DecidableEq, Repr

/-- A controller or counter (R122, R353 to R357). -/
structure Ctl where
  permits : List Bool := []
  active : Bool := false
  last : Bool := false
  iter : Nat := 0
  trip : Nat := 0
  started : Nat := 0
  /-- Done signals from each child or leaf, by elem * 16 + slot. -/
  dones : SMap Nat := []
  stopOut : Bool := false
  bound : Option Nat := none
  finished : Nat := 0
  /-- LAST flag of the iterations in flight, oldest first (CPIPE). -/
  flags : List Bool := []
  /-- CPIPE: permits sent to each child; done signals sent to the parent. -/
  sent : SMap Nat := []
  reported : Nat := 0
  /-- Commits that have fallen due and are not yet injected (R130). -/
  due : Nat := 0
  /-- One past the fabric cycle of the last injection (R357). -/
  injAt : Nat := 0
  deriving DecidableEq, Repr

/-- R357: an aligned token that a source writes after so many more of its permits or rounds. -/
structure Inject where
  ahead : Nat
  tok : Tok
  /-- The token also comes to the source's ports, and aligns there (R119). -/
  port : Bool := false
  /-- It goes before the DONE of the permit that is then at hand (R453). -/
  mid : Bool := false
  deriving DecidableEq, Repr

structure Unit_ where
  stage : Nat := 0
  frozen : Bool := false
  fly : List Fly := []
  ports : List PortSt := [{}, {}, {}]
  permits : List Bool := []
  doneOwed : Nat := 0
  /-- Permits spent since the install. -/
  spentN : Nat := 0
  /-- Entries published for the COMMIT at hand (R239). -/
  published : Nat := 0
  car : Carry := {}
  scan : SMap (Option W32) := []
  res : SMap (List Int) := []
  pend : List Pend := []
  inject : List Inject := []
  f0 : W64 := 0#64
  f1 : W64 := 0#64
  counters : SMap Nat := []
  /-- Held at a full log since this time (R129), and the address in its space. -/
  stuckAt : Option (Nat × Nat) := none
  loadAt : Nat := 0
  order : Nat := 0
  ints : List Integ := []
  stepNo : Nat := 0
  ctl : Ctl := {}
  gen : Gen := {}
  mat : Mat := {}
  pos : Nat := 0
  /-- Class of the row cycle that runs, the fabric cycle at which it began, and the class of row cycles without an event
  after it (R137, R138; log entry 58). -/
  cls : Nat := 0
  seen : Nat := 0
  rest : Nat := 0
  deriving DecidableEq, Repr

/-- A write-log entry (R128, R129): the unit that logged it and its effect at publication. -/
structure LogE where
  k : Nat
  /-- 0 granule bytes, 1 versioned store, 2 retirement. -/
  kind : Nat
  wr : List (Nat × Byte)
  ver : Nat := 0
  key : Nat := 0
  /-- The word's address in its space. -/
  addr : Nat := 0
  deriving DecidableEq, Repr

inductive FabSt where
  | free | configured | running | done | frozen
  deriving DecidableEq, Repr

/-- What a checkpoint holds (R130, R131, R352, R386): the units' state and the commit number. -/
structure Snap where
  /-- No commit has completed since the install. -/
  fresh : Bool := true
  units : SMap Unit_ := []
  seqNo : Nat := 0
  deriving DecidableEq, Repr

structure Fabric where
  st : FabSt := .free
  /-- The context of the task that holds the fabric (R88). -/
  holder : Option Nat := none
  divs : List Nat := [1, 1, 1, 1]
  chans : List Chan := []
  nodes : SMap Node := []
  units : SMap Unit_ := []
  /-- Power by ELEM code: 0 on, 1 Winter, 2 Off (R220); the time since which an element of a done region
  has been idle, and of a wake in progress. -/
  power : SMap Nat := []
  idleSince : SMap Nat := []
  wakeAt : SMap (Option Nat) := []
  logs : SMap (List LogE) := []
  egress : List Egress := []
  ckpt : Snap := {}
  newCkpt : Option Snap := none
  /-- Memory-tile units that the commit under way reaches, and those that it has passed. -/
  commitNeed : List Nat := []
  commitSeen : List Nat := []
  seqNo : Nat := 0
  /-- The partition in force at CFG (R140). -/
  partWord : Nat := 0x081810
  frec : Nat := 0
  handler : Option Nat := none
  doneJoin : Option Nat := none
  pdom : Nat := 0
  lid : Nat := 0
  frameW : W64 := 0#64
  image : Nat := 0
  imageWords : List W64 := []
  faultWord : List W64 := []
  /-- The fabric cycle of the recorded fault (R135). -/
  faultAt : Nat := 0
  more : Nat := 0
  recorded : Bool := false
  quietSince : Nat := 0
  drained : List Nat := []
  draining : Bool := false
  stopAt : Bool := false
  halted : Bool := false
  /-- Its counters stand still: the clock is gated (R218). -/
  gated : Bool := false
  /-- Frozen by PREEMPT (R100); its region's DONE had reached the root before that, and the region ends (R101). -/
  held : Bool := false
  ending : Bool := false
  /-- What PREEMPT met: a region frozen by a translation fault, and loads that waited for a version, each by unit with its
  address and version (R102). -/
  wasFrozen : Bool := false
  waits : List (Nat × Nat × Nat) := []
  /-- Freed channel slots whose notices throttling holds: consumer, its port, the time before which it is held; port 8 is a
  slot of a remote port's circuit (R223). -/
  late : List (Nat × Nat × Nat × Nat) := []
  /-- A COMMIT has completed and nothing has fired since (R234). -/
  atEdge : Bool := false
  interval : Nat := 0
  interrupted : Bool := false
  /-- Region operations of tasks that have ended, oldest first (R299). -/
  orphans : List (Op × Task × Nat) := []
  deriving DecidableEq, Repr

/-! ### Pre-emption (R79, R80, R100 to R103) -/

/-- What the save area holds of one core beyond what software can read there: contexts, fabric, orphaned region
operations, saved requests, and the state of the pool that R102 gives no place. -/
structure SavedCore where
  core : Nat
  ctxs : List (Nat × Ctx)
  fab : Option Fabric
  /-- The context whose task holds the fabric. -/
  holder : Option Nat
  orphans : List (Op × Task × Nat)
  requests : List Msg
  /-- A Larder program is among the requests (R423). -/
  larder : Bool
  partWord : W64
  tids : SMap (List W64)
  full : SMap Bool
  arrive : SMap Nat
  rings : SMap RingSt
  deriving DecidableEq, Repr

/-- A pre-emption: its launches and their domain, SAVE and its physical address, the cores still to save, those saved,
and those still to restore. -/
structure Preempt where
  lids : List Nat
  pdom : Nat
  save : Nat
  base : Nat
  cores : List Nat
  saved : List SavedCore := []
  resuming : Bool := false
  deriving DecidableEq, Repr

structure SchSt where
  launches : SMap (Option Launch) := []
  nextLid : Nat := 0
  /-- Records by 2^20 * cluster + slot, and generations (R85). -/
  recs : SMap (Option Rec) := []
  gens : SMap Nat := []
  nextSeq : Nat := 0
  /-- Last PDOM served by 8 * cluster + priority (R88). -/
  rr : SMap Nat := []
  /-- Joins under way: handle, and the context and operation of the JOIN that waits for it. -/
  joins : List (Nat × Option (Nat × Nat)) := []
  monitors : List Monitor := []
  gangs : SMap (Option GangSt) := []
  nextGang : Nat := 0
  /-- Gang reservation by cluster: the cluster and slot of the gang's record, and the cores reserved so far (R97). -/
  resv : SMap (Option (Nat × Nat × List Nat)) := []
  restoring : SMap Bool := []
  stop : SMap Bool := []
  badJoin : SMap Nat := []
  preempts : List Preempt := []
  deriving DecidableEq, Repr

/-! ### Ports, power, debug -/

structure Port where
  tss : Bool := false
  rccc : Bool := false
  cbfc : Bool := true
  llr : Bool := true
  mode : Nat := 0
  modeAct : Nat := 0
  modeRef : Bool := false
  authFail : Bool := false
  cbfcOff : Bool := false
  llrOff : Bool := false
  linkUp : Bool := false
  drops : Nat := 0
  trcol : W64 := 0#64
  deriving DecidableEq, Repr

/-- The UET operations and the delivery modes of R31. -/
inductive UetOp where
  | send | write | read | atomic
  deriving DecidableEq, Repr
inductive Pds where
  | rud | rod | rudi
  deriving DecidableEq, Repr

/-- Whom a packet is for: a device of the domain, the hosts behind a port, a trace collector by its fabric address. -/
inductive Dest where
  | dev (d : Nat)
  | host (port : Nat)
  | collector (fa : Nat)
  deriving DecidableEq, Repr

/-- A delivery context that this device has opened (R32, R38): its port, mode, source (a cluster, or an endpoint of the
I/O die; 64 + port for trace), destination, and the TSS setting it was opened under (R42). -/
structure Pdc where
  port : Nat
  src : Nat
  dst : Dest
  pds : Pds := .rod
  tss : Bool := false
  deriving DecidableEq, Repr

/-- A delivery context that a peer has opened, by the number that `Via.pdc` gives it. -/
structure InPdc where
  id : Nat
  port : Nat
  tss : Bool
  deriving DecidableEq, Repr

/-- A packet as a port gets it (R31): operation, mode, JobID, and what the operation needs. Addresses are physical ones
of the destination; a collective's are those of its staging area. -/
structure Pkt where
  port : Nat := 0
  op : UetOp
  pds : Pds := .rod
  src : Nat
  dst : Dest
  job : Nat := 0
  tss : Bool := false
  wr : List (Nat × Byte) := []
  rd : List Nat := []
  /-- The version in the immediate data of a Write, or that a Read asks for. -/
  ver : Option Nat := none
  ats : List Atomic := []
  coll : Option CollHead := none
  data : List Byte := []
  /-- An answer leaves on the peer's circuit with this number, with its error if it has one. -/
  back : Option Nat := none
  err : Option Nat := none
  deriving DecidableEq, Repr

structure PortsSt where
  ports : SMap Port := []
  pdcs : List Pdc := []
  inn : List InPdc := []
  /-- Packets handed to the ports, and those that no port can carry now (R38), oldest first. -/
  tx : List Pkt := []
  wait : List Pkt := []
  /-- R33: FMP sequence number by destination device, or 2048 + port for a host. -/
  fmpSeq : SMap Nat := []
  deriving DecidableEq, Repr

/-- A cluster's power and Attic registers (R136, R223, R225, R228, R240). -/
structure Clu where
  req : Bool := false
  /-- CLPWR.STATE: 0 ACTIVE, 1 SAVING, 2 WINTER, 3 OFF, 4 SPRING. -/
  state : Nat := 0
  wakeIgn : Bool := false
  retBase : Nat := 0
  saveDone : Bool := false
  /-- What the last CLRET.SAVE saved past the end of its 64 KiB (log entry 19). -/
  saveTail : List W64 := []
  gate : Bool := false
  rail : Nat := 0
  wokeFrom : Nat := 0
  thDelay : Nat := 16
  vstall : Nat := 24
  /-- EN.ACC in units of 10 nJ; it reads in mJ. -/
  enAcc : Nat := 0
  enLatch : W32 := 0#32
  lost : Nat := 0
  attDest : Nat := 0
  attLog2 : Nat := 20
  attBase : Nat := 0
  wptr : W64 := 0#64
  seqNo : Nat := 0
  lossOwed : Nat := 0
  records : List (List W64) := []
  deriving DecidableEq, Repr

structure Dmg where
  leak : Nat := 1
  limit : Nat := 65536
  d : Nat := 0
  deriving DecidableEq, Repr

structure PowSt where
  clus : SMap Clu := []
  dmg : SMap Dmg := []
  summerReq : Bool := false
  inSummer : Bool := false
  cap : Nat := 40000
  /-- B in units of 10 nJ; it reads in mJ. -/
  level : Nat := 4000000000
  lastMw : Nat := 0
  deriving DecidableEq, Repr

structure CapE where
  live : Bool := false
  check : BitVec 36 := 0#36
  holder : Nat := 0
  rights : BitVec 6 := 0#6
  parent : Option Nat := none
  deriving DecidableEq, Repr

/-- A stopped group: LID and FRAME, none for all; offset of the register that stopped it. -/
structure StopG where
  lid : Option Nat
  frame : Option Nat
  off : Nat
  deriving DecidableEq, Repr

/-- One domain's debug window: register words by offset / 8, the capability entry that last wrote each, the
stopped groups. -/
structure Dbg where
  words : SMap W64 := []
  by_ : SMap (Option Nat) := []
  stopped : Bool := false
  stopCause : Nat := 0
  stopIndex : Nat := 0
  /-- The fabric cycle of the stop, and who made it: 8 times the core plus the context, 7 for its fabric (R235). -/
  stopAt : Nat := 0
  stopBy : Nat := 0
  saFlt : Bool := false
  groups : List StopG := []
  captureOn : Bool := false
  captureInt : Bool := false
  /-- Samples written by cluster, and the fabric cycle of the last one. -/
  samples : SMap Nat := []
  sampledAt : Nat := 0
  deriving DecidableEq, Repr

structure DbgSt where
  /-- Capability entries by 4096 * TDOM + INDEX. -/
  caps : SMap CapE := []
  doms : SMap Dbg := []
  mHit : Nat := 0
  mHalted : Bool := false
  mStep : Bool := false
  mBp : SMap W64 := []
  deriving DecidableEq, Repr

/-- What leaves the device besides packets (model's own record of outputs, log entry 1). -/
inductive Out where
  | sb (w : W32)
  | nack
  deriving DecidableEq, Repr

structure State where
  pkg : Pkg := {}
  clk : Clk := {}
  mem : MemSt := {}
  xl : XlatSt := {}
  msg : MsgSt := {}
  sch : SchSt := {}
  ctxs : SMap Ctx := []
  fabs : SMap Fabric := []
  net : PortsSt := {}
  pow : PowSt := {}
  dbg : DbgSt := {}
  out : List Out := []
  /-- Events to come, first one next; the model's own schedule (log entry 1). -/
  agenda : List Instr := []
  /-- What the access of an engine's, a Larder's or the management block's step finds, by the step's number: the model's own
  schedule too; good where nothing is listed (log entry 56). -/
  finds : SMap Found := []
  /-- The sequencer context that runs when the agenda is empty (log entry 1). -/
  cur : Nat := 1024
  deriving DecidableEq, Repr

/-- A context's state after reset: idle, but for the management sequencer, which runs (R281, log entry 9). -/
def Ctx.blank (c : Nat) : Ctx := if c = 1024 then { run := .running } else {}

/-- R18: the state after a cold reset. -/
def State.reset : State := {}

end Sys2Proof.Machine
end

