-- ==== Sys2Proof/Machine/Net.lean ====
section
/-! DEFINITION. Ports, delivery contexts and the packets that leave and arrive (R29 to R32, R35, R38, R41 to R43). -/

namespace Sys2Proof.Machine

/-- The core of a task context. -/
def coreOf (c : Nat) : Nat := c / 4
def clusterOf (core : Nat) : Nat := core / 32
/-- A key for a byte of another device's memory, apart from every local key, and the parts of such a key. -/
def remoteKey (dev pa : Nat) : Nat := 2 ^ 60 + dev * 2 ^ 44 + pa
def isLocal (key : Nat) : Bool := key < 2 ^ 60
def remoteDev (key : Nat) : Nat := (key - 2 ^ 60) / 2 ^ 44
def remotePa (key : Nat) : Nat := key % 2 ^ 44

/-! ### Ports -/

def State.port (s : State) (p : Nat) : Port := SMap.get {} s.net.ports p
def State.setPort (s : State) (p : Nat) (x : Port) : State :=
  { s with net := { s.net with ports := SMap.set {} s.net.ports p x } }
def State.updPort (s : State) (p : Nat) (f : Port → Port) : State := s.setPort p (f (s.port p))
def State.updNet (s : State) (f : PortsSt → PortsSt) : State := { s with net := f s.net }
/-- R41: DROPS saturates. -/
def State.dropPacket (s : State) (p : Nat) : State :=
  s.updPort p fun x => { x with drops := satAdd x.drops 1 (2 ^ 32 - 1) }

/-- A port whose packets pass: its link is up and it is no trace or disabled port. -/
def Port.serves (x : Port) : Bool := x.linkUp && x.modeAct == 0
/-- A port that takes new circuits: it also stays in data mode (R43). -/
def Port.carries (x : Port) : Bool := x.serves && x.mode == 0
/-- The lowest port that carries device traffic. -/
def State.dataPort (s : State) : Option Nat := (List.range 12).find? fun q => (s.port q).carries

/-! ### Packets that leave -/

/-- R32: the source of an agent's remote traffic: its cluster, or its endpoint on the I/O die. -/
def Agent.source : Agent → Nat
  | .seq c => if c = 1024 then 54 else clusterOf (coreOf c)
  | .unit core _ _ => clusterOf core
  | .eng ep _ _ => if ep < 8 then ep else if ep < 40 then (ep - 8) / 4 else if ep < 48 then ep - 40 else ep
  | .larder ld _ => if ld < 32 then ld / 4 else ld - 32
  | .port b => 48 + b
  | .launchEngine => 55
  | .mgmtBlock => 54
  | .remote _ _ => 48

/-- R45, R462: the endpoint an agent sends from. -/
def Agent.endpoint : Agent → Nat
  | .seq c => if c = 1024 then 54 else clusterOf (coreOf c)
  | .unit core _ _ => clusterOf core
  | .eng ep _ _ => ep
  | .larder ld _ => 8 + ld
  | .port b => 48 + b
  | .launchEngine => 55
  | .mgmtBlock => 54
  | .remote _ _ => 48
/-- R47: the sending unit: one for all agents of a core, one for an engine. -/
def Agent.sunit : Agent → Agent
  | .seq c => .seq (c / 4 * 4)
  | .unit core _ _ => .seq (4 * core)
  | .eng ep u _ => .eng ep u 0
  | .larder ld _ => .larder ld 0
  | a => a

def Pkt.on (k : Pkt) (c : Pdc) : Bool := c.pds == k.pds && c.src == k.src && c.dst == k.dst
def State.pdcOf (s : State) (k : Pkt) : Option Pdc := s.net.pdcs.find? k.on
/-- The circuit of a packet, opened on the lowest data port (log entry 97) under that port's TSS setting (R42). -/
def State.openPdc (s : State) (k : Pkt) : State :=
  match k.back, s.pdcOf k, s.dataPort with
  | none, none, some p => s.updNet fun n => { n with pdcs := n.pdcs ++ [⟨p, k.src, k.dst, k.pds, (s.port p).tss⟩] }
  | _, _, _ => s
/-- Port and TSS setting of the circuit that carries a packet: an answer goes on the circuit of its request (R42, R68). -/
def State.circuit (s : State) (k : Pkt) : Option (Nat × Bool) :=
  match k.back with
  | some i => (s.net.inn.find? fun c => c.id == i).map fun c => (c.port, c.tss)
  | none => (s.pdcOf k).map fun c => (c.port, c.tss)
/-- Packets of one circuit. -/
def Pkt.beside (a b : Pkt) : Bool :=
  a.back == b.back && (a.back.isSome || (a.pds == b.pds && a.src == b.src && a.dst == b.dst))
/-- R32, R38: a packet leaves on the port of its circuit, and waits while that port cannot carry it or an earlier one of the
circuit waits. An answer on a circuit that is closed is lost. -/
def State.emit (s : State) (k : Pkt) : State :=
  let s := s.openPdc k
  match s.circuit k with
  | none => if k.back.isSome then s else s.updNet fun n => { n with wait := n.wait ++ [k] }
  | some (p, tss) =>
    if (s.port p).serves && !s.net.wait.any k.beside then
      s.updNet fun n => { n with tx := n.tx ++ [{ k with port := p, tss := tss }] }
    else s.updNet fun n => { n with wait := n.wait ++ [k] }

/-- R38, R43: circuits on ports that do not carry device traffic move to one that does, keeping their order; with no such
port they stay (log entry 97). -/
def State.moveCircuits (s : State) : State :=
  match s.dataPort with
  | none => s
  | some q => s.updNet fun n => { n with
      pdcs := n.pdcs.map fun c => if (s.port c.port).carries || c.src / 64 == 1 then c else { c with port := q }
      inn := n.inn.map fun c => if (s.port c.port).carries then c else { c with port := q } }
/-- After a change of links or modes: circuits move, and what waited leaves in its order where it can. -/
def State.rehome (s : State) : State :=
  let t := s.moveCircuits
  t.net.wait.foldl State.emit (t.updNet fun n => { n with wait := [] })

/-! ### Remote requests (R31, R32) -/

/-- The bytes that a request names, each by its key; of an atomic, the first. -/
def Req.keys (r : Req) : List Nat := r.rd ++ r.wr.map Prod.fst ++ r.ats.map Atomic.key
/-- Other devices that keys belong to. -/
def devsOf (keys : List Nat) : List Nat := ((keys.filter fun k => !isLocal k).map remoteDev).dedup
/-- Physical addresses, at a device, of the keys that belong to it. -/
def farOf (d : Nat) (keys : List Nat) : List Nat :=
  (keys.filter fun k => !isLocal k && remoteDev k == d).map remotePa

/-- The packets of a request to a device. A retirement has no row in R31 and sends none. -/
def Req.packets (r : Req) (job d : Nat) : List Pkt :=
  let k : Pkt := { op := .write, src := r.by_.source, dst := .dev d, job := job }
  let far (key : Nat) : Bool := !isLocal key && remoteDev key == d
  let wr := (r.wr.filter fun e => far e.1).map fun e => (remotePa e.1, e.2)
  match r.kind with
  | .write => match r.coll with
    | none => [{ k with wr := wr }]
    | some h => [{ k with wr := wr.map fun e => (r.va + e.1, e.2), pds := .rudi, coll := some h }]
  | .vstore => [{ k with wr := wr, ver := some r.ver }]
  | .read => [{ k with op := .read, rd := farOf d r.rd }]
  | .vload => [{ k with op := .read, rd := farOf d r.rd, ver := some r.ver }]
  | .atomic => [{ k with op := .atomic, ats := (r.ats.filter fun a => far a.key).map fun a => { a with key := remotePa a.key } }]
  | .retire => []
/-- A request enters the memory system; one for another device leaves on its circuit. Its number is the count of requests
so far. -/
def State.issue (s : State) (r : Req) : State :=
  let t : State := { s with mem := { s.mem with
    reqs := SMap.set none s.mem.reqs s.mem.nextReq (some r), nextReq := s.mem.nextReq + 1 } }
  match r.dev with
  | none => t
  | some _ => (devsOf r.keys).foldl (fun t d => (r.packets s.xl.jobid.toNat d).foldl State.emit t) t
/-- An engine's read of another device's bytes leaves; the bytes are what that device returns. -/
def State.askFar (s : State) (a : Agent) (keys : List Nat) : State :=
  (devsOf keys).foldl (fun s d =>
    s.emit { op := .read, src := a.source, dst := .dev d, job := s.xl.jobid.toNat, rd := farOf d keys }) s

/-! ### Packets that arrive -/

/-- R31: an answer to a host or another device, on the circuit that its request came on. -/
def State.answerTo (s : State) (pdc : Nat) (dst : Dest) (op : UetOp) (err : Option Nat) (data : List Byte) : State :=
  s.emit { op := op, src := 48, dst := dst, job := s.xl.jobid.toNat, data := data, back := some pdc, err := err }
/-- R42: the TSS setting of the circuit that a packet comes on; none where its port opens no new one (R43): then it is
ignored (log entry 97). -/
def State.inTss (s : State) (rx : Rx) : Option Bool :=
  match s.net.inn.find? fun c => c.id == rx.via.pdc with
  | some c => some c.tss
  | none => if (s.port rx.port).mode = 0 then some (s.port rx.port).tss else none
def State.openIn (s : State) (rx : Rx) (tss : Bool) : State :=
  if s.net.inn.any fun c => c.id == rx.via.pdc then s
  else s.updNet fun n => { n with inn := n.inn ++ [⟨rx.via.pdc, rx.port, tss⟩] }
/-- R29, R35, R42: a packet at a port: authenticated, which is checked first (log entry 97), free of features that R29 leaves
out, of the domain's JobID once there is one. Otherwise it is dropped. -/
def State.receive (s : State) (rx : Rx) (k : State → State) : State :=
  if !(s.port rx.port).serves then s
  else match s.inTss rx with
    | none => s
    | some tss =>
      if tss && !rx.via.auth then s.updPort rx.port fun x => { x with authFail := true }
      else if !rx.via.known || (s.xl.domValid && rx.job != s.xl.jobid.toNat) then s.dropPacket rx.port
      else k (s.openIn rx tss)

end Sys2Proof.Machine
end

