-- ==== Sys2Proof/Machine/Mem.lean ====
section
/-! DEFINITION. Memory: keys of bytes, reads past writes that are not yet visible, writes with their side effects,
versions, atomics, requests and their order. -/

namespace Sys2Proof.Machine

abbrev Result := Host.Outcome State Fault Refusal

/-! ### Homes of state -/

def State.ctx (s : State) (c : Nat) : Ctx := SMap.get (Ctx.blank c) s.ctxs c
def State.setCtx (s : State) (c : Nat) (x : Ctx) : State :=
  { s with ctxs := SMap.set (Ctx.blank c) s.ctxs c x }
def State.updCtx (s : State) (c : Nat) (f : Ctx → Ctx) : State := s.setCtx c (f (s.ctx c))
def State.fab (s : State) (core : Nat) : Fabric := SMap.get {} s.fabs core
def State.setFab (s : State) (core : Nat) (x : Fabric) : State := { s with fabs := SMap.set {} s.fabs core x }
def State.updFab (s : State) (core : Nat) (f : Fabric → Fabric) : State := s.setFab core (f (s.fab core))
/-- A firing unit or slot: core, ELEM code, slot. -/
def unitKey (elem k : Nat) : Nat := elem * 16 + k
def isMt (e : Nat) : Bool := 8 ≤ e && e < 16
/-- The slot that names a firing unit: in a memory tile each slot is one (R268, R360). -/
def unitSlot (e k : Nat) : Nat := if isMt e then k else 0
def Fabric.node (f : Fabric) (e k : Nat) : Node := SMap.get {} f.nodes (unitKey e k)
def Fabric.unit (f : Fabric) (elem k : Nat) : Unit_ := SMap.get {} f.units (unitKey elem k)
def Fabric.setUnit (f : Fabric) (elem k : Nat) (u : Unit_) : Fabric :=
  { f with units := SMap.set {} f.units (unitKey elem k) u }
def State.updMem (s : State) (f : MemSt → MemSt) : State := { s with mem := f s.mem }
def State.updMsg (s : State) (f : MsgSt → MsgSt) : State := { s with msg := f s.msg }
def State.updSch (s : State) (f : SchSt → SchSt) : State := { s with sch := f s.sch }
def State.updXl (s : State) (f : XlatSt → XlatSt) : State := { s with xl := f s.xl }
def State.updPkg (s : State) (f : Pkg → Pkg) : State := { s with pkg := f s.pkg }
def State.updPow (s : State) (f : PowSt → PowSt) : State := { s with pow := f s.pow }
def State.updDbg (s : State) (f : DbgSt → DbgSt) : State := { s with dbg := f s.dbg }

/-! ### Keys -/

/-- R140 reset value of a partition word: CB 16, SP 24, AC 8. -/
def partReset : W64 := 0x081810#64
def State.part (s : State) (core : Nat) : Nat := (SMap.get partReset s.mem.part core).toNat
def partCB (w : Nat) : Nat := bits w 0 6
def partSP (w : Nat) : Nat := bits w 8 6
def partAC (w : Nat) : Nat := bits w 16 6

/-- R11: bytes of the fitted cellar; nothing when channels differ or are absent, or CELOFF is set. -/
def State.cellarBytes (s : State) : Nat :=
  if s.pkg.celOff then 0 else
  match s.pkg.cellarDensities with
  | [g] => if s.pkg.cellarChannels = 32 then 32 * g * 2 ^ 30 else 0
  | _ => 0

/-- First key of the cellar; slice `k` holds 2^37 keys. -/
def cellarBase : Nat := 2 ^ 40

/-- R51: the byte that a physical address names; none where memory does not exist. -/
def State.physKey (s : State) (pa : Nat) : Option Nat :=
  if pa < 2 ^ 39 then some pa
  else if pa < 2 ^ 40 then
    let q := pa - 2 ^ 39
    some (bits q 12 5 * 2 ^ 34 + q / 2 ^ 17 * 2 ^ 12 + q % 2 ^ 12)
  else if pa < 2 ^ 41 then
    let q := pa - 2 ^ 40
    if q < s.cellarBytes then some (cellarBase + bits q 12 3 * 2 ^ 37 + q / 2 ^ 15 * 2 ^ 12 + q % 2 ^ 12) else none
  else none

/-- The endpoint that owns a byte (R45, R51); a pool belongs to its cluster. -/
def ownerOf (key : Nat) : Nat :=
  if key < cellarBase then 8 + key / 2 ^ 34
  else if key < Config.poolBase then 40 + (key - cellarBase) / 2 ^ 37
  else clusterOf ((key - Config.poolBase) / Config.poolBytes)

def isPool (key : Nat) : Bool := Config.poolBase ≤ key && key < Config.flashBase
def poolCore (key : Nat) : Nat := (key - Config.poolBase) / Config.poolBytes
/-- R139: pool byte and memory tile of a key. -/
def poolByte (key : Nat) : Nat := (key - Config.poolBase) % Config.poolBytes
def tileOf (key : Nat) : Nat := poolByte key / 393216
def poolKey (core p : Nat) : Nat := Config.poolBase + core * Config.poolBytes + p

/-- R141: a scratchpad offset of a core under a partition word. -/
def spIn (w core o : Nat) : Option Nat :=
  if o < 65536 * partSP w then some (poolKey core (65536 * partCB w + o)) else none
/-- R141: an accumulator-store offset. -/
def acIn (w core o : Nat) : Option Nat :=
  if o < 65536 * partAC w then some (poolKey core (65536 * (partCB w + partSP w) + o)) else none
def State.spKey (s : State) (core o : Nat) : Option Nat := spIn (s.part core) core o
def State.acKey (s : State) (core o : Nat) : Option Nat := acIn (s.part core) core o
/-- The scratchpad offset of a pool key, when it lies in scratchpad units. -/
def State.spOffset (s : State) (key : Nat) : Option Nat :=
  let w := s.part (poolCore key)
  let p := poolByte key
  if isPool key && 65536 * partCB w ≤ p && p < 65536 * (partCB w + partSP w) then some (p - 65536 * partCB w) else none

/-- R13, R17: every domain but the management block is held in reset. -/
def State.held (s : State) : Bool := s.pkg.hold || s.pkg.clkHold
/-- What reaches a domain that is held in reset waits (log entry 66). -/
def State.whenUp (s t : State) : State := if s.held then s else t
/-- What the access of this step finds (R37, R59; log entry 56). -/
def State.found (s : State) : Found := SMap.get .good s.finds s.clk.tick

/-! ### Rows (R3, R108) -/

def rowOf (e : Nat) : Nat :=
  if e < 16 then e % 8 / 2
  else if e < 0x20 then (if e = 0x10 then 1 else 2)
  else if e < 0x30 then (e - 0x20) / 4
  else if e < 0x38 then e - 0x30
  else if e < 0x40 then e - 0x38
  else if e < 0x50 then (e - 0x40) / 4
  else if e = 0x50 then 0 else 3
/-- Fabric cycles of one row cycle of an element. -/
def Fabric.divOf (f : Fabric) (e : Nat) : Nat := nth 1 f.divs (rowOf e)

/-! ### Bytes -/

def State.byte (s : State) (key : Nat) : Byte := SMap.get Config.blankByte s.mem.bytes key

/-- R211: what a read on `path` returns that passes over at most `age` writes not yet visible to the path. -/
def State.readByte (s : State) (path age key : Nat) : Byte :=
  match s.mem.stale.filter fun e => e.key == key && e.readers.contains path with
  | [] => s.byte key
  | l => nth (s.byte key) (s.byte key :: l.map Stale.old) (Nat.min age l.length)

def State.readBytes (s : State) (path age : Nat) (keys : List Nat) : List Byte := keys.map (s.readByte path age)

/-- The bytes of a read; those of another device are what it returns (log entry 16). -/
def State.readKeys (s : State) (path age : Nat) (keys : List Nat) : List Byte :=
  (keys.zip (List.range keys.length)).map fun e =>
    if isLocal e.1 then s.readByte path age e.1 else Config.remoteByte s.clk.tick e.2

def keyRange (key n : Nat) : List Nat := (List.range n).map (key + ·)

/-- Ends the staleness of the entries that `hit` picks, and of older ones of the same byte, for the paths that
`rd` picks. -/
def dropReaders (rd : Nat → Bool) (hit : Stale → Bool) : List Nat → List Stale → List Stale
  | _, [] => []
  | seen, e :: t =>
    if hit e || seen.contains e.key then
      let r := e.readers.filter fun p => !rd p
      (if r.isEmpty then [] else [{ e with readers := r }]) ++ dropReaders rd hit (e.key :: seen) t
    else e :: dropReaders rd hit seen t

/-- R217: the writes that `hit` picks become visible to the paths that `rd` picks. -/
def State.release (s : State) (rd : Nat → Bool) (hit : Stale → Bool) : State :=
  s.updMem fun m => { m with stale := dropReaders rd hit [] m.stale }

/-- Releases to every path the writes of the agents that `who` picks. -/
def State.releaseAll (s : State) (who : Agent → Bool) : State := s.release (fun _ => true) fun e => who e.by_

/-- The writes of one agent count from now on as another's. -/
def State.handOver (s : State) (a b : Agent) : State :=
  s.updMem fun m => { m with stale := m.stale.map fun e => if e.by_ = a then { e with by_ := b } else e }

/-- R211, R212: after a fresh read of a byte its path does not read an older value again. -/
def State.readFresh (s : State) (path : Nat) (keys : List Nat) : State :=
  s.release (· == path) fun e => keys.contains e.key

/-- The access paths of R199. -/
def paths : List Nat := [0, 1, 2, 3, 4, 5, 6]

/-- One byte written: other paths may still read what it replaces (R211). -/
def putByte (path : Nat) (a : Agent) (m : MemSt) (e : Nat × Byte) : MemSt :=
  let old := SMap.get Config.blankByte m.bytes e.1
  { m with
    bytes := SMap.set Config.blankByte m.bytes e.1 e.2
    stale := ⟨path, a, e.1, old, paths.filter (· != path)⟩ ::
      dropReaders (· == path) (fun x => x.key == e.1) [] m.stale }

/-- R152, R153: the updates that a write to a publisher window produces. -/
def subUpdate (now core o : Nat) (b : Byte) (x : Sub) : Sub :=
  if x.pubCore = core ∧ x.pub ≤ o ∧ o < x.pub + x.len ∧ x.state ≠ 2 ∧ x.state ≠ 4 then
    let l := (o - x.pub) / 64
    { x with
      pending := SMap.set none x.pending (o - x.pub) (some b)
      due := SMap.set none x.due l (some ((SMap.get none x.due l).getD (now + 32))) }
  else x

/-- One applied byte, seen by every subscription. -/
def State.publish (s : State) (subs : List Sub) (e : Nat × Byte) : List Sub :=
  match s.spOffset e.1 with
  | some o => subs.map (subUpdate s.clk.time (poolCore e.1) o e.2)
  | none => subs

/-! ### Banks (R139) -/

/-- The bank of a pool byte: core, tile, bank (R139). -/
def bankOf (key : Nat) : Nat := poolCore key * 32 + tileOf key * 4 + poolByte key % 393216 / 16 % 4
def poolRow (key : Nat) : Nat := poolByte key % 393216 / 64
/-- Whether a bank that holds one of the bytes serves another row in this row cycle of its tile. -/
def State.bankBusy (s : State) (keys : List Nat) : Bool :=
  keys.any fun k => isPool k &&
    let x := SMap.get (0, 0) s.mem.banks (bankOf k)
    x.1 != 0 && s.clk.fab + 1 < x.1 + (s.fab (poolCore k)).divOf (8 + tileOf k) && x.2 != poolRow k
def State.useBanks (s : State) (keys : List Nat) : State :=
  s.updMem fun m => { m with banks := keys.foldl (fun b k =>
    if isPool k then SMap.set (0, 0) b (bankOf k) (s.clk.fab + 1, poolRow k) else b) m.banks }
/-- A firing unit of a core. -/
def Agent.unitOf (core : Nat) : Agent → Bool
  | .unit c _ _ => c == core
  | _ => false
/-- Bytes of pools that a request reaches from elsewhere: a unit's accesses to its own tile took the bank at the firing. -/
def Req.banked (r : Req) : List Nat := r.keys.filter fun k => isPool k && !r.by_.unitOf (poolCore k)

/-- The shape of a ring entry (R144, R159): T, N, W, BB, BASE; none when the entry is no ring. -/
def ringShape (ws : List W64) : Option (Nat × Nat × Nat × Nat × Nat) :=
  let w0 := (nth 0#64 ws 0).toNat
  let w3 := (nth 0#64 ws 3).toNat
  if bits w0 56 4 = 15 then some (bits w3 40 24, bits w3 32 8, bits w3 24 8, bits w3 16 8, (nth 0#64 ws 1).toNat)
  else none

def State.tid (s : State) (core n : Nat) : List W64 := SMap.get (List.replicate 8 0#64) s.mem.tids (core * 256 + n)

/-- The ring entries of a core. -/
def State.ringsOf (s : State) (core : Nat) : List (Nat × Nat × Nat × Nat × Nat × Nat) :=
  s.mem.tids.filterMap fun e =>
    if e.1 / 256 = core then (ringShape e.2).map fun r => (e.1 % 256, r) else none

/-- R145: one applied byte counts in the arrival barrier of the slot that holds it. -/
def countByte (s : State) (core o : Nat) : State :=
  (s.ringsOf core).foldl (fun s r =>
    let (n, T, N, _, BB, BASE) := r
    if BASE ≤ o ∧ o < BASE + N * T ∧ 0 < T then
      let k := core * 64 + BB + (o - BASE) / T
      let v := (SMap.get 0 s.mem.arrive k + 1) % 2 ^ 32
      s.updMem fun m => { m with
        arrive := SMap.set 0 m.arrive k v
        rings := if T < v then
            SMap.set {} m.rings (core * 256 + n) { SMap.get {} m.rings (core * 256 + n) with overran := true }
          else m.rings }
    else s) s

/-- R143, R145: an engine's byte in scratchpad sets its granule full and counts. -/
def engineByte (s : State) (key : Nat) : State :=
  match s.spOffset key with
  | none => s
  | some o => countByte (s.updMem fun m => { m with full := SMap.set false m.full (key / 16) true }) (poolCore key) o

/-- Bytes applied at their owning memory: values, staleness, subscription updates; for an engine's write also full
bits and arrival counts. -/
def State.write (s : State) (path : Nat) (a : Agent) (eng : Bool) (l : List (Nat × Byte)) : State :=
  let s := { s with mem := l.foldl (putByte path a) s.mem }
  let s := s.updMsg fun g => { g with subs := l.foldl (State.publish s) g.subs }
  if eng then (l.foldl (fun s e => engineByte s e.1) s).useBanks (l.map Prod.fst) else s

/-- Bytes at consecutive keys. -/
def bytesAt (key : Nat) (l : List Byte) : List (Nat × Byte) := (keyRange key l.length).zip l

/-! ### Versions (R201 to R207) -/

def State.wordVer (s : State) (key : Nat) : WordVer := SMap.get {} s.mem.vers (key / 8)
def State.image (s : State) (key : Nat) : W64 :=
  BitVec.ofNat 64 (leNat ((keyRange (key / 8 * 8) 8).map s.byte))

/-- R206: version entries in use at the tile or slice that owns a byte. -/
def versionHome (key : Nat) : Nat :=
  if isPool key then 1000 + poolCore key * 8 + tileOf key
  else if key < cellarBase then key / 2 ^ 34 else 4 * ((key - cellarBase) / 2 ^ 37)
def State.versionsUsed (s : State) (home : Nat) : Nat :=
  s.mem.vers.foldl (fun n e => if versionHome (e.1 * 8) = home then n + e.2.older.length else n) 0
/-- R206: no room for one more live version of the word. -/
def State.versionFull (s : State) (key : Nat) : Bool :=
  3 ≤ (s.wordVer key).older.length ||
    (if isPool key then 2048 else 2 ^ 20) ≤ s.versionsUsed (versionHome key)

/-- R202: a versioned store at its owning memory; a version at or below the newest is discarded. -/
def State.storeVersion (s : State) (path : Nat) (a : Agent) (eng : Bool) (v : Nat) (l : List (Nat × Byte)) : State :=
  match l with
  | [] => s
  | (k, _) :: _ =>
    let w := s.wordVer k
    if v ≤ w.newest then s
    else (s.updMem fun m => { m with
      vers := SMap.set {} m.vers (k / 8) ⟨v, (w.newest, s.image k) :: w.older⟩ }).write path a eng l

/-- R203: the image of the smallest live version at or above `v`; none while the newest is below `v`. -/
def State.loadVersion (s : State) (key v : Nat) : Option (Nat × W64) :=
  let w := s.wordVer key
  if w.newest < v then none
  else
    match (w.older.filter fun e => v ≤ e.1).getLast? with
    | some e => some e
    | none => some (w.newest, s.image key)

/-- R207: every live version at or below `v` retires, the newest excepted. -/
def State.retireVersions (s : State) (key v : Nat) : State :=
  let w := s.wordVer key
  s.updMem fun m => { m with
    vers := SMap.set {} m.vers (key / 8) { w with older := w.older.filter fun e => v < e.1 } }

/-- R58, R142: bytes zeroed, their versions 0, as if never stored. -/
def State.zeroRange (s : State) (lo n : Nat) : State :=
  s.updMem fun m => { m with
    bytes := SMap.eraseRange m.bytes lo n
    vers := SMap.eraseRange m.vers (lo / 8) (n / 8)
    stale := m.stale.filter fun e => e.key < lo || lo + n ≤ e.key }

/-! ### Atomics (R215, R262, R376) -/

/-- R262, R292: the new value of an update on `n`-bit integers. -/
def amoOp (op n old x : Nat) : Nat :=
  let so := sextNat old n
  let sx := sextNat x n
  match op with
  | 0 => (old + x) % 2 ^ n
  | 1 => Nat.land old x
  | 2 => Nat.lor old x
  | 3 => Nat.xor old x
  | 4 => if sx < so then x else old
  | 5 => if so < sx then x else old
  | 6 => if x < old then x else old
  | 7 => if old < x then x else old
  | _ => x

/-! ### Requests (R47, R209, R210) -/

def State.req (s : State) (i : Nat) : Option Req := SMap.get none s.mem.reqs i
def State.setReq (s : State) (i : Nat) (r : Option Req) : State :=
  s.updMem fun m => { m with reqs := SMap.set none m.reqs i r }

/-- R209, R210: pairs of one agent that keep their order: the same word, a versioned store after any access, any access
after a versioned load, a tainted access after a consume load. -/
def sameAgent (a b : Req) : Bool :=
  a.by_ == b.by_ &&
    (a.keys.any (fun x => b.keys.any fun y => x / 8 == y / 8) ||
     b.kind == .vstore || a.kind == .vload || (a.consume && b.dep))
/-- R49: a request with ORD = 1: not the data of a copy engine or a Larder. -/
def Req.ordered (r : Req) : Bool := r.dev.isNone && r.coll.isNone && ((r.path != 2 && r.path != 4) || r.kind == .vstore)
/-- R49, R461: requests of one sending unit to one endpoint with equal PA[11:6]. One that waits at its memory has
arrived. -/
def sameRoute (a b : Req) : Bool :=
  a.ordered && b.ordered && a.heldAt.isNone && a.by_.endpoint == b.by_.endpoint && a.by_.sunit == b.by_.sunit &&
    a.keys.any fun x => b.keys.any fun y => ownerOf x == ownerOf y && x / 64 % 64 == y / 64 % 64
/-- R32: accesses of one source to one device, and accesses of one source of another device. A load that waits at its
memory has arrived. -/
def sameCircuit (a b : Req) : Bool :=
  (a.dev.isSome && b.dev.isSome && (devsOf a.keys).any (devsOf b.keys).contains && a.coll.isNone && b.coll.isNone && a.by_.source == b.by_.source && a.heldAt.isNone) ||
  (a.by_ == b.by_ && match a.by_ with
    | .remote _ _ => true
    | _ => false)
/-- Whether `a`, issued earlier, must be applied before `b`. -/
def mustPrecede (a b : Req) : Bool := !a.applied && (sameAgent a b || sameRoute a b || sameCircuit a b)

/-- R200: the narrowest scope that covers a byte, for a context's core: 0 its pool, 2 a pool of its cluster, 3 other
memory of the device, 4 another device's. -/
def scopeOf (c key : Nat) : Nat :=
  if 2 ^ 60 ≤ key then 4
  else if isPool key then
    if poolCore key = coreOf c then 0 else if clusterOf (poolCore key) = clusterOf (coreOf c) then 2 else 3
  else 3
/-- The narrowest scope that covers a request's target. -/
def Req.scope (r : Req) : Nat :=
  match r.by_ with
  | .seq c => scopeOf c (nth 0 r.keys 0)
  | _ => 3
/-- R209: a fence whose scope covers both stands between access `a` and request `i`. -/
def fencedOff (a b : Req) (i : Nat) : Bool :=
  a.by_ == b.by_ && !a.applied && a.fences.any fun f => f.1 ≤ i && a.scope ≤ f.2 && b.scope ≤ f.2

/-- Whether request `i` may be applied or served now. -/
def State.mayApply (s : State) (i : Nat) : Bool :=
  match s.req i with
  | none => false
  | some b => !b.applied && s.mem.reqs.all fun e =>
      match e.2 with
      | some a => !(e.1 < i && (mustPrecede a b || fencedOff a b i))
      | none => true

/-- Bytes of a word as a number. -/
def wordOf (l : List Byte) : W64 := BitVec.ofNat 64 (leNat l)

/-- Words of bytes, as numbers. -/
def wordsOf (l : List Byte) (n : Nat) : List Nat := (List.range n).map fun i => leNat ((l.drop (8 * i)).take 8)

/-- The bytes of a scalar store. -/
def scalarBytes (x : W64) (n : Nat) : List Byte := leBytes x.toNat n

/-! ### Error counts (R59, R60) -/

/-- The ERRCNT that counts for a byte: a slice's by its number, a core's above 64. -/
def errHome (key : Nat) : Nat := if isPool key then 64 + poolCore key else ownerOf key - 8
/-- Adds one to a field of ERRCNT: LASTING [63:48], TRANSIENT [47:32], CORRECTED [31:0], each saturating. -/
def countError (lo n : Nat) (w : W64) : W64 :=
  let v := bits w.toNat lo n
  if v = 2 ^ n - 1 then w else w + BitVec.ofNat 64 (2 ^ lo)
def State.countErr (s : State) (key lo n : Nat) : State :=
  s.updMem fun m => { m with
    errcnt := SMap.set 0#64 m.errcnt (errHome key) (countError lo n (SMap.get 0#64 m.errcnt (errHome key))) }

/-- R59, R90: a DRAM frame is retired; an SRAM row is mapped to a spare row, or the core withdrawn with none left. -/
def State.retireMemory (s : State) (key : Nat) : State :=
  s.updMem fun m =>
    if isPool key then
      let n := SMap.get 0 m.spares (bankOf key)
      if n < 8 then { m with spares := SMap.set 0 m.spares (bankOf key) (n + 1) }
      else { m with withdrawn := SMap.set false m.withdrawn (poolCore key) true }
    else
      let f := key / 65536
      { m with frames := SMap.set {} m.frames f { SMap.get {} m.frames f with retired := true } }

/-- Free values in place of bytes that an error or a failed store leaves open (log entry 13). -/
def State.loosen (s : State) (keys : List Nat) : State :=
  s.updMem fun m => { m with
    bytes := (keys.zip (List.range keys.length)).foldl (fun b e =>
      SMap.set Config.blankByte b e.1 (Config.looseByte (s.clk.tick * 2 ^ 24 + e.2))) m.bytes
    stale := m.stale.filter fun e => !keys.contains e.key }

/-- R158: any subset of a write's bytes is applied, and the bytes applied count in arrival barriers (log entry 13). -/
def State.writeSome (s : State) (path : Nat) (a : Agent) (l : List (Nat × Byte)) : State :=
  s.write path a true (((l.zip (List.range l.length)).filter fun e =>
    (Config.looseByte (s.clk.tick * 2 ^ 24 + e.2)).getLsbD 0).map Prod.fst)

/-- R59: the bytes that one code word covers with a byte. -/
def eccWord (k : Nat) : Nat := if isPool k then 8 else 64
/-- R37, R59: what an access to bytes finds: a corrected or transient error is counted; a lasting one is counted, retires
the memory and loses what its code covers; another device may refuse. A failure is a cause of R69 with its detail; `va` is
the address that names a byte of the list. -/
def State.meets (s : State) (f : Found) (va : Nat → Nat) (keys : List Nat) : State × Option (Nat × Nat) :=
  let near := keys.filter isLocal
  match f with
  | .good => (s, none)
  | .corrected n => (match near[n]? with | some k => s.countErr k 0 32 | none => s, none)
  | .transient n => (match near[n]? with | some k => s.countErr k 32 16 | none => s, none)
  | .lasting n => match near[n]? with
    | some k => (((s.countErr k 48 16).retireMemory k).loosen (near.filter fun j => j / eccWord k == k / eccWord k), some (0x1A, va n))
    | none => (s, none)
  | .refused => match keys.find? fun k => !isLocal k with
    | some k => (s, some (0xD, remoteDev k))
    | none => (s, none)

/-- What is found from byte `k` on. -/
def foundPast (k : Nat) : Found → Found
  | .corrected n => if n < k then .good else .corrected (n - k)
  | .transient n => if n < k then .good else .transient (n - k)
  | .lasting n => if n < k then .good else .lasting (n - k)
  | f => f

end Sys2Proof.Machine
end

