-- ==== Sys2Proof/Machine/Xlate.lean ====
section
/-! DEFINITION. Translation: page-table entries, walks, TLBs, miss entries, first-touch zeroing, TLBI. -/

namespace Sys2Proof.Machine

/-- R52: bits [63:57] equal bit [56]. -/
def canonical (a : W64) : Bool := bits a.toNat 56 8 == 0 || bits a.toNat 56 8 == 255
/-- The 57 bits of a virtual address. -/
def va57 (a : W64) : Nat := a.toNat % 2 ^ 57

/-- R72: the management domain and 1 to 0xFFFE become active. -/
def State.dom (s : State) (pdom : Nat) : Option Dom := SMap.get none s.xl.doms pdom
def State.domActive (s : State) (pdom : Nat) : Bool := (s.dom pdom).isSome

/-- R36: a device of the load-store domain. -/
def State.inDomain (s : State) (dev : Nat) : Bool := s.xl.domValid && s.xl.members.contains dev
def State.ownDev (s : State) (dev : Nat) : Bool := dev == s.xl.devnum.toNat

/-- R52: index bits of a level, page bits of a leaf at a level. -/
def idxOf (va : Nat) : Nat → Nat
  | 0 => bits va 48 9
  | 1 => bits va 39 9
  | 2 => bits va 30 9
  | 3 => bits va 21 9
  | _ => bits va 16 5
def pageBits : Nat → Nat
  | 2 => 30
  | 3 => 21
  | _ => 16

/-- Whether a physical range exists (R51); a range is within one aligned page or table. -/
def State.rangeExists (s : State) (pa n : Nat) : Bool :=
  pa + n ≤ 2 ^ 40 || (2 ^ 40 ≤ pa && pa + n ≤ 2 ^ 40 + s.cellarBytes)

/-- R58: the frames that hold a byte of a page; a frame's number is its first key over 65,536. -/
def framesOf (base size : Nat) : List Nat :=
  if base < 2 ^ 39 then (List.range (size / 65536)).map (base / 65536 + ·)
  else if base < 2 ^ 40 then
    let q := base - 2 ^ 39
    if size ≤ 65536 then (List.range 16).map fun i => (bits q 12 5 + i) % 32 * 2 ^ 18 + q / 2 ^ 21
    else (List.range (size / 2 ^ 21)).flatMap fun r => (List.range 32).map fun k => k * 2 ^ 18 + (q / 2 ^ 21 + r)
  else
    let q := base - 2 ^ 40
    if size ≤ 65536 then (List.range 8).map fun k => 2 ^ 24 + k * 2 ^ 21 + q / 2 ^ 19
    else (List.range (size / 2 ^ 19)).flatMap fun r => (List.range 8).map fun k => 2 ^ 24 + k * 2 ^ 21 + (q / 2 ^ 19 + r)

def State.frame (s : State) (f : Nat) : FrameSt := SMap.get {} s.mem.frames f

/-- Whether an entry has the right an access needs: 0 read, 1 write, versioned store or atomic, 2 fetch, 3 either read
or write (R369). -/
def rightOk (acc : Nat) (e : TlbE) : Bool :=
  match acc with
  | 0 => e.rd
  | 1 => e.wr
  | 2 => e.ex
  | _ => e.rd || e.wr

inductive WalkStep where
  | leaf (e : TlbE)
  | down (table : Nat)
  | fault (cause : Nat)
  deriving DecidableEq, Repr

/-- R53, R54: one entry at one level, its checks in cause order; a leaf with TLO not 0 is a bad entry (log entry 89). -/
def State.checkEntry (s : State) (pdom va level acc : Nat) (w : Nat) : WalkStep :=
  let leaf := bits w 1 1 == 1
  let rem := bits w 5 1 == 1
  let dev := bits w 44 10
  let next := bits w 8 36 * 256
  let base := bits w 16 28 * 65536
  let size := 2 ^ pageBits level
  let e : TlbE :=
    ⟨pdom, level, va / size, base, bits w 2 1 == 1, bits w 3 1 == 1, bits w 4 1 == 1,
      if rem && !s.ownDev dev then some dev else none⟩
  let here := !rem || s.ownDev dev
  let bad := bits w 54 10 != 0 || bits w 6 2 != 0 ||
    (!leaf && dev != 0) || (leaf && !rem && dev != 0) || (leaf && level < 2) || (!leaf && level == 4) ||
    (leaf && bits w 8 8 != 0) || (!leaf && level < 3 && bits w 8 8 != 0)
  if bits w 0 1 = 0 then .fault 2
  else if bad then .fault 3
  else if leaf && base % size != 0 then .fault 4
  else if leaf && here && !s.rangeExists base size then .fault 5
  else if !leaf && !s.rangeExists next (if level == 3 then 256 else 4096) then .fault 5
  else if !leaf then .down next
  else if rem && !s.ownDev dev && !s.inDomain dev then .fault 6
  else if !rightOk acc e then .fault 7
  else if here && (framesOf base size).any fun f => (s.frame f).retired then .fault 8
  else .leaf e

/-- A walker's read of one table entry (path 7). -/
def State.entryAt (s : State) (table idx : Nat) : Nat :=
  match s.physKey (table + 8 * idx) with
  | some k => (s.image k).toNat
  | none => 0

/-! ### TLBs and walk caches (R55, R462) -/

/-- The TLB group an agent translates through. -/
def tlbGroup : Agent → Nat
  | .seq c => c / 4
  | .unit core _ _ => core
  | .eng ep _ _ => if ep < 8 then 256 + ep else if ep < 40 then 256 + (ep - 8) / 4 else if ep < 48 then 256 + (ep - 40)
    else if ep = 55 then 270 else 271
  | .larder ld _ => if ld < 32 then 256 + ld / 4 else 256 + (ld - 32)
  | .port b => 264 + b
  | .launchEngine => 270
  | .mgmtBlock => 271
  | .remote _ _ => 264
/-- The second-level group behind a group, which owns the walkers. -/
def l2Group (g : Nat) : Nat := if g < 256 then 256 + g / 32 else g
def walkers (g : Nat) : Nat := if l2Group g < 264 then l2Group g - 256 else 8
/-- R55, R462: an L2 has eight ways in 1,024 sets, picked by the page number's low bits; the others are fully associative
(log entry 54). -/
def tlbWays (g : Nat) : Nat := if g < 256 then 128 else if g < 264 then 8 else 64
def tlbSet (g : Nat) (e : TlbE) : Nat := if 256 ≤ g && g < 264 then e.vpn % 1024 else 0

def tlbHit (pdom va : Nat) (e : TlbE) : Bool := e.pdom == pdom && e.vpn == va / 2 ^ pageBits e.level

def State.tlb (s : State) (g : Nat) : List TlbE := SMap.get [] s.xl.tlbs g
def State.tlbLookup (s : State) (g pdom va : Nat) : Option TlbE :=
  match (s.tlb g).find? (tlbHit pdom va) with
  | some e => some e
  | none => (s.tlb (l2Group g)).find? (tlbHit pdom va)

/-- A fill replaces the oldest entry of a set that is full. -/
def fillTlb (g : Nat) (e : TlbE) (x : XlatSt) : XlatSt :=
  let l := e :: (SMap.get [] x.tlbs g).filter (· != e)
  let out := (l.filter fun t => tlbSet g t == tlbSet g e).drop (tlbWays g)
  { x with tlbs := SMap.set [] x.tlbs g (l.filter fun t => !out.contains t) }
/-- R55: a fill of the L2 and the L1. -/
def State.fill (s : State) (g : Nat) (e : TlbE) : State := s.updXl fun x => fillTlb g e (fillTlb (l2Group g) e x)

/-- Address bits above the table of a level. -/
def prefixOf (va : Nat) (level : Nat) : Nat := va / 2 ^ (57 - 9 * level)
/-- Where a walk begins: the deepest level whose table the walk cache holds. -/
def State.walkFrom (s : State) (g pdom va root : Nat) : Nat × Nat :=
  let c := SMap.get [] s.xl.caches (walkers g)
  [4, 3, 2, 1].foldr (fun l acc =>
    match c.find? fun e => e.1 == pdom && e.2.1 == l && e.2.2.1 == prefixOf va l with
    | some e => (l, e.2.2.2)
    | none => acc) (0, root)
def State.cacheWalk (s : State) (g pdom va level table : Nat) : State :=
  s.updXl fun x =>
    let c := SMap.get [] x.caches (walkers g)
    let e := (pdom, level, prefixOf va level, table)
    let c := (e :: c.filter (· != e)).take (if walkers g < 8 then 256 else 64)
    { x with caches := SMap.set [] x.caches (walkers g) c }

inductive XOut where
  | ok (pa : Nat) (dev : Option Nat)
  | fault (cause : Nat)
  | miss
  deriving DecidableEq, Repr

/-- R52, R54: a translation from the TLBs alone. No agent reaches the debug window (R231). -/
def State.xlate (s : State) (g pdom : Nat) (a : W64) (acc : Nat) : XOut :=
  if !canonical a then .fault 1
  else if 0xFFFFFFFFFFFF0000 ≤ a.toNat then .fault 7
  else if !s.domActive pdom then .fault 2
  else
    let va := va57 a
    match s.tlbLookup g pdom va with
    | some e => if rightOk acc e then .ok (e.base + va % 2 ^ pageBits e.level) e.dev else .fault 7
    | none => .miss

/-! ### First-touch zeroing (R58) -/

def State.zeroFrame (s : State) (pdom f : Nat) : State :=
  if (s.frame f).owner = some pdom then s
  else (s.zeroRange (f * 65536) 65536).updMem fun m => { m with
    frames := SMap.set {} m.frames f { SMap.get {} m.frames f with owner := some pdom } }

/-- Whether a local leaf still has frames that the walking domain does not own. -/
def State.needsZero (s : State) (e : TlbE) : Bool :=
  e.dev.isNone && (framesOf e.base (2 ^ pageBits e.level)).any fun f => (s.frame f).owner != some e.pdom
def State.ownFrames (s : State) (e : TlbE) : State :=
  if e.dev.isSome then s else (framesOf e.base (2 ^ pageBits e.level)).foldl (fun s f => s.zeroFrame e.pdom f) s

/-! ### A walk in one piece, for agents whose waiting no rule of the model shows -/

/-- R54: the levels from `level` on; fuel is the number of levels left. -/
def State.walk (s : State) (g pdom va acc : Nat) : Nat → Nat → Nat → State × Except Nat TlbE
  | 0, _, _ => (s, .error 3)
  | fuel + 1, level, table =>
    match s.checkEntry pdom va level acc (s.entryAt table (idxOf va level)) with
    | .fault c => (s, .error c)
    | .leaf e => (s, .ok e)
    | .down t => (s.cacheWalk g pdom va (level + 1) t).walk g pdom va acc fuel (level + 1) t

/-! ### Miss entries (R55, R56) -/

def Agent.core : Agent → Option Nat
  | .seq c => some (c / 4)
  | .unit core _ _ => some core
  | _ => none

def missOf (g pdom va : Nat) (m : Miss) : Bool := m.group == g && m.pdom == pdom && m.va == va
/-- R56: L1 miss entries of a core in use. -/
def State.l1Misses (s : State) (core : Nat) : Nat :=
  (s.xl.misses.filter fun m => m.waiters.any fun w => w.1.core == some core).length

def State.l1Full (s : State) (who : Agent) : Bool :=
  match who.core with
  | some c => 32 ≤ s.l1Misses c
  | none => false

/-- Joins or allocates the miss entry of a want; none while its L1 or its L2 has no entry for one more page. An entry names 64
KiB of virtual addresses, before the size of the leaf is known (log entry 55). -/
def State.allocMiss (s : State) (w : Want) : Option State :=
  let g := l2Group (tlbGroup w.who)
  let page := w.va / 65536 * 65536
  let mine (m : Miss) : Bool := missOf g w.pdom page m && m.waiters.any fun x => x.1.core == w.who.core
  if s.xl.misses.any mine || (s.xl.misses.any (missOf g w.pdom page) && !s.l1Full w.who) then
    let join (m : Miss) : Miss :=
      if missOf g w.pdom page m then { m with waiters := m.waiters ++ [(w.who, w.acc)] } else m
    some (s.updXl fun x => { x with misses := x.misses.map join })
  else if s.xl.misses.any (missOf g w.pdom page) || s.l1Full w.who || 1024 ≤ (s.xl.misses.filter fun m => m.group == g).length then none
  else
    let root := match s.dom w.pdom with | some d => d.root | none => 0
    let (l, t) := s.walkFrom g w.pdom w.va root
    some (s.updXl fun x => { x with misses := x.misses ++ [⟨g, w.pdom, page, [(w.who, w.acc)], l, t, none⟩] })

def State.dropMiss (s : State) (i : Nat) : State := s.updXl fun x => { x with misses := dropNth x.misses i }

/-- R56: a fault ends every request chained on the entry with the same cause. -/
def State.missFault (s : State) (i : Nat) (m : Miss) (cause : Nat) : State :=
  (s.dropMiss i).updXl fun x => { x with faults := x.faults ++ m.waiters.map fun w => (w.1, m.pdom, m.va, cause) }

/-- R55: a walk that succeeds fills the L2 and the L1 of each core that waits. -/
def State.missDone (s : State) (i : Nat) (m : Miss) (e : TlbE) : State :=
  m.waiters.foldl (fun s w => s.fill (tlbGroup w.1) e) ((s.dropMiss i).fill m.group e)

def Miss.acc (m : Miss) : Nat := match m.waiters with
  | w :: _ => w.2
  | [] => 0
/-- A miss entry's one walk carried to its end, for an agent that waits for it: the outcome reaches every request chained on
it. -/
def State.finishMiss (s : State) (i : Nat) (m : Miss) : State × Except Nat TlbE :=
  match m.leaf with
  | some e => ((s.ownFrames e).missDone i m e, .ok e)
  | none => match s.walk m.group m.pdom m.va m.acc 5 m.level m.table with
    | (t, .error c) => (t.missFault i m c, .error c)
    | (t, .ok e) => ((t.ownFrames e).missDone i m e, .ok e)
/-- A translation that walks at once when no TLB holds the page; a page whose walk is under way is not walked again
(R56). -/
def State.xlateNow (s : State) (g pdom : Nat) (a : W64) (acc : Nat) : State × Except Nat (Nat × Option Nat) :=
  match s.xlate g pdom a acc with
  | .ok pa dev => (s, .ok (pa, dev))
  | .fault c => (s, .error c)
  | .miss =>
    let va := va57 a
    let at_ (e : TlbE) : Nat := e.base + va % 2 ^ pageBits e.level
    match s.dom pdom with
    | none => (s, .error 2)
    | some d =>
      let i := s.xl.misses.findIdx fun m => missOf (l2Group g) pdom (va / 65536 * 65536) m
      match s.xl.misses[i]? with
      | some m => match s.finishMiss i m with
        | (s, .error c) => (s, .error c)
        | (s, .ok e) => if rightOk acc e then (s.fill g e, .ok (at_ e, e.dev)) else (s, .error 7)
      | none =>
        let (l, t) := s.walkFrom g pdom va d.root
        match s.walk g pdom va acc 5 l t with
        | (s, .error c) => (s, .error c)
        | (s, .ok e) => ((s.ownFrames e).fill g e, .ok (at_ e, e.dev))

/-- The fault that a walk delivered to an agent for a page. -/
def State.faultFor (s : State) (who : Agent) (pdom : Nat) (a : W64) : Option Nat :=
  (s.xl.faults.find? fun f => f.1 == who && f.2.1 == pdom && f.2.2.1 == va57 a / 65536 * 65536).map (·.2.2.2)
def State.clearFaults (s : State) (who : Agent) : State :=
  s.updXl fun x => { x with faults := x.faults.filter fun f => f.1 != who }
/-- The faults that firing units of a core have met are over. -/
def State.clearUnitFaults (s : State) (core : Nat) : State :=
  s.updXl fun x => { x with faults := x.faults.filter fun f => match f.1 with
    | .unit c _ _ => c != core
    | _ => true }
/-- A translation asked for and not in the TLBs. -/
def State.want (s : State) (who : Agent) (pdom : Nat) (a : W64) (acc : Nat) : State :=
  let page := va57 a / 65536 * 65536
  if s.xl.wants.any (fun w => w.who == who && w.pdom == pdom && w.va == page) ||
     s.xl.misses.any (fun m => m.pdom == pdom && m.va == page && m.waiters.any fun w => w.1 == who) then s
  else s.updXl fun x => { x with wants := x.wants ++ [⟨who, pdom, page, acc, false⟩] }

/-! ### TLBI (R323) -/

/-- Whether TLBI in a mode names a translation: 0 the page of an address, 1 the domain, 2 every one. -/
def tlbiNames (mode pdom va : Nat) (e : TlbE) : Bool :=
  match mode with
  | 0 => tlbHit pdom va e
  | 1 => e.pdom == pdom
  | _ => true
/-- A walk under way begins again, so that no entry read before a TLBI is used after it. -/
def Miss.again (root : Nat) (m : Miss) : Miss := { m with level := 0, table := root, leaf := none }
def State.rootOf (s : State) (pdom : Nat) : Nat := match s.dom pdom with | some d => d.root | none => 0
def State.tlbiNow (s : State) (mode pdom va : Nat) : State :=
  let keep (c : Nat × Nat × Nat × Nat) : Bool :=
    !(mode == 2 || (c.1 == pdom && (mode == 1 || prefixOf va c.2.1 == c.2.2.1)))
  s.updXl fun x => { x with
    tlbs := (x.tlbs.map fun e => (e.1, e.2.filter fun t => !tlbiNames mode pdom va t)).filter fun e => !e.2.isEmpty
    caches := (x.caches.map fun e => (e.1, e.2.filter keep)).filter fun e => !e.2.isEmpty
    misses := x.misses.map fun m => if mode == 2 || m.pdom == pdom then m.again (s.rootOf m.pdom) else m }

end Sys2Proof.Machine
end

