-- ==== Sys2Proof/Machine/Attic.lean ====
section
/-! DEFINITION. Trace records, the Attics that take them, and the groups that debug registers name (R231, R238 to
R240). -/

namespace Sys2Proof.Machine

def State.clu (s : State) (cl : Nat) : Clu := SMap.get {} s.pow.clus cl
def State.setClu (s : State) (cl : Nat) (x : Clu) : State :=
  s.updPow fun p => { p with clus := SMap.set {} p.clus cl x }
def State.updClu (s : State) (cl : Nat) (f : Clu → Clu) : State := s.setClu cl (f (s.clu cl))

/-- A word from fields: value, lowest bit. -/
def pack (l : List (Nat × Nat)) : W64 := BitVec.ofNat 64 (l.foldl (fun n e => n + e.1 * 2 ^ e.2) 0)
def w64 (n : Nat) : W64 := BitVec.ofNat 64 n

/-- Records held: 64-byte units, a LONG record two (R240). -/
def Clu.level (x : Clu) : Nat := x.records.foldl (fun n r => n + r.length / 8) 0

/-- Appends one record with its SEQ; no check of space. -/
def Clu.push (x : Clu) (r : List W64) : Clu :=
  let w1 := w64 (bits (nth 0#64 r 1).toNat 32 32 * 2 ^ 32 + x.seqNo % 2 ^ 32)
  { x with records := x.records ++ [setNth r 1 w1], seqNo := (x.seqNo + 1) % 2 ^ 32 }

/-- Words 0 and 1 of a record, without SEQ (R238). -/
def recHead (type long cl core src time pdom lid : Nat) : List W64 :=
  [pack [(type, 58), (long, 57), (cl % 8, 54), (core % 32, 49), (src % 256, 41), (time % 2 ^ 41, 0)],
   pack [(pdom, 48), (lid, 32)]]

/-- Pads a record to 8 or 16 words. -/
def recPad (n : Nat) (l : List W64) : List W64 := (l ++ List.replicate n 0#64).take n

/-- R227, R240: a record enters the cluster's Attic, after a loss record when records were lost; a full Attic drops it and
counts it, and so does one that is gated or wakes. -/
def State.record (s : State) (cl : Nat) (r : List W64) : State :=
  s.updClu cl fun x =>
    let need := r.length / 8 + (if x.lossOwed = 0 then 0 else 1)
    if 2 ≤ x.state ∨ 32768 < x.level + need then
      { x with lost := satAdd x.lost 1 (2 ^ 32 - 1), lossOwed := satAdd x.lossOwed 1 (2 ^ 32 - 1) }
    else
      let x := if x.lossOwed = 0 then x else
        { x.push (recPad 8 (recHead 0x3E 0 cl 0 0 s.clk.time 0 0 ++ [w64 x.lossOwed])) with lossOwed := 0 }
      x.push r

/-- A short record of a core. -/
def State.note (s : State) (type core src pdom lid : Nat) (body : List W64) : State :=
  s.record (clusterOf core) (recPad 8 (recHead type 0 (clusterOf core) core src s.clk.time pdom lid ++ body))

/-! ### Groups (R231) -/

def State.dbgOf (s : State) (pdom : Nat) : Dbg := SMap.get {} s.dbg.doms pdom
def State.setDbg (s : State) (pdom : Nat) (d : Dbg) : State :=
  s.updDbg fun g => { g with doms := SMap.set {} g.doms pdom d }
/-- Reset values of the debug registers: LOG2P 16, LOG2 3. -/
def dbgReset (off : Nat) : W64 :=
  if off = 0x18 then 0x20#64
  else if off = 0x200 ∨ off = 0x220 ∨ off = 0x240 ∨ off = 0x260 then 0x1800#64 else 0#64
def Dbg.word (d : Dbg) (off : Nat) : Nat := (SMap.get (dbgReset off) d.words (off / 8)).toNat
def Dbg.setWord (d : Dbg) (off : Nat) (x : W64) : Dbg :=
  { d with words := SMap.set (dbgReset off) d.words (off / 8) x }

/-- Whether a register with this LID, ALLLID and FRAMEV names a task. -/
def groupHas (lid : Nat) (all framev : Bool) (frame : Nat) (t : Task) : Bool :=
  (all || t.lid == lid) && (!framev || t.frame.toNat == frame)

/-- R239: whether a record class is traced for a launch of a domain. -/
def State.traced (s : State) (pdom lid cls : Nat) : Bool :=
  let w := (s.dbgOf pdom).word 0x20
  bits w cls 1 == 1 && (bits w 10 1 == 1 || bits w 48 16 == lid)

/-- A record that is written only for a traced class. -/
def State.noteIf (s : State) (cls type core src pdom lid : Nat) (body : List W64) : State :=
  if s.traced pdom lid cls then s.note type core src pdom lid body else s

/-- R232, R239: the top three ids of a region stack, 0xFFFF for an absent or overwritten one. -/
def Ctx.topIds (x : Ctx) : List Nat :=
  (List.range 3).map fun i =>
    if i + x.lost < x.depth then (SMap.get 0#16 x.stack ((x.depth - 1 - i) % 16)).toNat else 0xFFFF

end Sys2Proof.Machine
end

