-- ==== Sys2Proof/Machine/PortMode.lean ====
section
/-! DEFINITION. Ultra Ethernet ports: links, modes and the trace ports (R21, R28, R30, R35, R40, R43, R44). -/

namespace Sys2Proof.Machine

/-- R21, R35: the ports are up: the boot is over and no domain is held in reset. -/
def State.portsMayRun (s : State) : Bool := s.pkg.bootStage == 3#8 && !s.pkg.hold && !s.pkg.clkHold
/-- R30: LLR and CBFC take effect only when both ends enable them; the port runs without one the peer declines. A link
that comes up has its reference again. A disabled port has no link (R43). -/
def State.linkUp (s : State) (p : Nat) (llr cbfc : Bool) : State :=
  if s.portsMayRun = false ∨ ((s.port p).modeAct = 2 ∧ (s.port p).mode = 2) then s
  else (({ s with pkg := { s.pkg with serLost := s.pkg.serLost &&& ~~~(1#3 <<< (p / 4)) } }).updPort p fun x =>
    { x with linkUp := true, llrOff := x.llr && !llr, cbfcOff := x.cbfc && !cbfc }).rehome
def State.linkDown (s : State) (p : Nat) : State := (s.updPort p fun x => { x with linkUp := false }).rehome

/-- R43: a write of MODE 0b01 or 0b10, refused when it would leave no port in data mode. -/
def State.setPortMode (s : State) (p m : Nat) : State :=
  if (List.range 12).any fun q => q != p && (s.port q).mode == 0 then
    (s.updPort p fun x => { x with mode := m }).rehome
  else s.updPort p fun x => { x with modeRef := true }
def State.setPortData (s : State) (p : Nat) : State := (s.updPort p fun x => { x with mode := 0 }).rehome

/-- An open circuit for device traffic on a port. -/
def State.circuitOn (s : State) (p : Nat) : Bool :=
  s.net.pdcs.any (fun c => c.port == p && c.src / 64 != 1) || s.net.inn.any fun c => c.port == p
/-- R43: the switch, once no open circuit remains on the port; a disabled port has no link, and needs one to serve
data again. A port that leaves trace mode closes its circuits to collectors. -/
def State.switchPort (s : State) (p : Nat) : State :=
  let x := s.port p
  if x.modeAct = x.mode then s
  else if x.mode ≠ 0 ∧ s.circuitOn p = true then s
  else if x.mode = 0 ∧ x.modeAct = 2 ∧ !x.linkUp then s
  else ((s.updPort p fun x => { x with modeAct := x.mode, linkUp := x.linkUp && x.mode != 2 }).updNet fun n => { n with
    pdcs := n.pdcs.filter fun c => !(c.src == 64 + p) }).rehome

/-- R43: the ports that send trace, in ascending number. -/
def State.tracePorts (s : State) : List Nat :=
  (List.range 12).filter fun p => (s.port p).modeAct == 1 && bits (s.port p).trcol.toNat 63 1 == 1
/-- R43: the port that cluster c's Attic sends on. -/
def State.tracePortOf (s : State) (cl : Nat) : Option Nat :=
  let l := s.tracePorts
  if l.isEmpty then none else some (nth 0 l (cl % l.length))

/-- R31, R43, R44: a record leaves a trace port as a Send on RUD, under TRCOL's JobID, to its collector. -/
def State.sendTrace (s : State) (p : Nat) (data : List Byte) : State :=
  let t := (s.port p).trcol.toNat
  let k : Pkt := { port := p, op := .send, pds := .rud, src := 64 + p, dst := .collector (bits t 0 32), job := bits t 32 24, data := data }
  let s : State := match s.pdcOf k with
    | some _ => s
    | none => s.updNet fun n => { n with pdcs := n.pdcs ++ [{ port := p, src := k.src, dst := k.dst, pds := k.pds, tss := (s.port p).tss }] }
  s.updNet fun n => { n with tx := n.tx ++ [{ k with tss := ((s.pdcOf k).map Pdc.tss).getD false }] }

def recBytes (r : List W64) : List Byte := r.flatMap fun w => leBytes w.toNat 8

def execLinkUp (port : Nat) (llr cbfc : Bool) (s : State) : Result := .next (s.linkUp port llr cbfc)
def execLinkDown (port : Nat) (s : State) : Result := .next (s.linkDown port)
def execPortModeTrace (port : Nat) (s : State) : Result := .next (s.whenUp (s.setPortMode port 1))
def execPortModeDisable (port : Nat) (s : State) : Result := .next (s.whenUp (s.setPortMode port 2))
def execPortModeData (port : Nat) (s : State) : Result := .next (s.whenUp (s.setPortData port))
def execPortModeSwitchComplete (port : Nat) (s : State) : Result := .next (s.switchPort port)

/-- R43: the first record of the lowest cluster whose Attic drains to this port goes to its collector. -/
def execTraceRecordSend (port : Nat) (s : State) : Result :=
  .next (match (List.range 8).find? fun cl =>
      (s.port port).linkUp && (s.clu cl).attDest == 2 && s.tracePortOf cl == some port && !(s.clu cl).records.isEmpty with
    | none => s
    | some cl =>
      match (s.clu cl).records with
      | [] => s
      | r :: t => (s.updClu cl fun x => { x with records := t }).sendTrace port (recBytes r))

end Sys2Proof.Machine
end

