-- ==== Sys2Proof/Machine/Flags.lean ====
section
/-! DEFINITION. Conditions and status fields that control instructions compute: R260 conditions, R280 taint,
R279 counts, R319 VSTAT, and the CSR words read from them. -/

namespace Sys2Proof.Machine

/-- R260: conditions on 64-bit values; codes 6 and 7 never reach execution. -/
def condHolds (c : BitVec 3) (a b : W64) : Bool :=
  match c.toNat with
  | 0 => a == b
  | 1 => a != b
  | 2 => a.slt b
  | 3 => !a.slt b
  | 4 => a.ult b
  | _ => !a.ult b

/-- R280: the taint bit of a scalar; s0 carries none. -/
def Ctx.taintOf (x : Ctx) (r : Reg) : Bool := r != 0#5 && x.taint.getLsbD r.toNat
def Ctx.setTaint (x : Ctx) (r : Reg) (t : Bool) : Ctx :=
  if r = 0#5 then x
  else { x with taint := if t then x.taint ||| (1#32 <<< r.toNat) else x.taint &&& ~~~(1#32 <<< r.toNat) }

/-- R279: outstanding operations by class. -/
def Ctx.nLd (x : Ctx) : Nat := (x.ops.filter Op.inLd).length
def Ctx.nSt (x : Ctx) : Nat := (x.ops.filter Op.inSt).length
def Ctx.nCp (x : Ctx) : Nat := (x.ops.filter Op.inCp).length
def Ctx.nTl (x : Ctx) : Nat := (x.ops.filter Op.inTl).length
/-- R318 CNTS. -/
def Ctx.cnts (x : Ctx) : Nat := x.nLd * 2 ^ 24 + x.nSt * 2 ^ 16 + x.nCp * 2 ^ 8 + x.nTl

/-- R277: a scalar that an outstanding operation still owes. -/
def Op.owes (o : Op) (r : Reg) : Bool :=
  o.dst == some r && (o.inLd || o.inCp || o.form == .part)
def Ctx.pending (x : Ctx) (r : Reg) : Bool := r != 0#5 && x.ops.any fun o => o.owes r

/-- R319: the statuses of the last eight LDVTs. -/
def pushVstat (v : BitVec 16) (status : Nat) : BitVec 16 := (v <<< 2) ||| BitVec.ofNat 16 (status % 4)

/-- R319 TSTATUS. -/
def Csrs.tstatus (r : Csrs) : Nat := r.inTrap.toNat + 2 * r.deferred.toNat
/-- R301 BARSTAT. -/
def Csrs.barstat (r : Csrs) : Nat := r.barEpoch.toNat * 2 ^ 32 + 2 * r.barPending.toNat + r.barBroken.toNat
/-- R309 RSTS. -/
def Csrs.rsts (r : Csrs) : Nat := r.tidwRef.toNat + 2 * r.cfgFail.toNat + 4 * r.discard.toNat

end Sys2Proof.Machine
end

