-- ==== Sys2Proof/Machine/Operands.lean ====
section
/-! DEFINITION. Operand forms of control instructions: scalars, immediates, addresses, and what an address reaches
(R253, R261, R277, R278). -/

namespace Sys2Proof.Machine

/-- R277: s0 reads 0. -/
def Ctx.reg (x : Ctx) (r : Reg) : W64 := if r = 0#5 then 0#64 else SMap.get 0#64 x.regs r.toNat
/-- R277: a write to s0 is discarded. -/
def Ctx.setReg (x : Ctx) (r : Reg) (v : W64) (t : Bool) : Ctx :=
  if r = 0#5 then x else { (x.setTaint r t) with regs := SMap.set 0#64 x.regs r.toNat v }

/-- R253: sign-extended immediates. -/
def sx {n : Nat} (i : BitVec n) : W64 := i.signExtend 64
/-- R261: bytes of a size code. -/
def sizeOf2 (z : BitVec 2) : Nat := 2 ^ z.toNat
/-- R262: bytes of an atomic's size. -/
def sizeOf1 (z : BitVec 1) : Nat := if z = 0#1 then 4 else 8
/-- R286, R287: branch targets count 4-byte words. -/
def branchTo {n : Nat} (pc : W64) (d : BitVec n) : W64 := pc + 4#64 * sx d

def aligned (a : W64) (n : Nat) : Bool := a.toNat % n == 0

/-- What an address reaches (R278). -/
inductive Place where
  | mem (key : Nat)
  | remote (dev pa : Nat)
  | mreg (off : Nat)
  | fault (cause : Nat)
  | miss
  deriving DecidableEq, Repr

def isMgmt (c : Nat) : Bool := c == 1024
/-- R281: a privileged context. -/
def State.privileged (s : State) (c : Nat) : Bool := isMgmt c || (s.ctx c).task.pdom == 0

/-- R278: windows in order, then translation; `acc` is 0 read, 1 write, 2 fetch. -/
def State.resolve (s : State) (c : Nat) (a : W64) (acc : Nat) : Place :=
  let n := a.toNat
  if !canonical a then .fault 1
  else if 0xFFFFFFFFFFFF0000 ≤ n then .fault 7
  else if 0xFFFFFF0000000000 ≤ n && n < 0xFFFFFF0100000000 then
    if isMgmt c then .fault 5
    else match s.spKey (coreOf c) (n - 0xFFFFFF0000000000) with
      | some k => .mem k
      | none => .fault 5
  else if 0xFFFFFF0100000000 ≤ n && n < 0xFFFFFF0200000000 then
    if isMgmt c then .fault 5
    else match s.acKey (coreOf c) (n - 0xFFFFFF0100000000) with
      | some k => .mem k
      | none => .fault 5
  else if 0xFFFFFFFE00000000 ≤ n && n < 0xFFFFFFFF00000000 then
    if isMgmt c && acc != 2 then .mreg (n - 0xFFFFFFFE00000000) else .fault 7
  else if isMgmt c then
    if 2 ^ 44 ≤ n then .fault 5
    else match s.physKey n with
      | some k => .mem k
      | none => .fault 5
  else
    match s.faultFor (.seq c) (s.ctx c).task.pdom a with
    | some f => .fault f
    | none =>
      match s.xlate (coreOf c) (s.ctx c).task.pdom a acc with
      | .fault f => .fault f
      | .miss => .miss
      | .ok pa (some d) => .remote d pa
      | .ok pa none =>
        match s.physKey pa with
        | some k => .mem k
        | none => .fault 5

/-- The same with the walk done at once, for checks that do not wait (R256 at dispatch, R313). -/
def State.resolveNow (s : State) (c : Nat) (a : W64) (acc : Nat) : State × Place :=
  match s.resolve c a acc with
  | .miss =>
    let r := s.xlateNow (coreOf c) (s.ctx c).task.pdom a acc
    (r.1, match r.2 with
      | .error f => .fault f
      | .ok (pa, some d) => .remote d pa
      | .ok (pa, none) => match r.1.physKey pa with
        | some k => .mem k
        | none => .fault 5)
  | p => (s, p)

/-- The word of code at a place. -/
def State.codeWord (s : State) (p : Place) : W32 :=
  match p with
  | .mem k => BitVec.ofNat 32 (leNat ((keyRange k 4).map s.byte))
  | .remote _ pa => BitVec.ofNat 32 (leNat ((keyRange pa 4).map (Config.remoteByte s.clk.tick)))
  | _ => 0#32

end Sys2Proof.Machine
end

