-- ==== Sys2Proof/Machine/Sched.lean ====
section
/-! DEFINITION. Launches, records and the end of a task (R77, R83 to R95, R299). -/

namespace Sys2Proof.Machine

def State.launchOf (s : State) (lid : Nat) : Option Launch := SMap.get none s.sch.launches lid
def State.setLaunch (s : State) (lid : Nat) (l : Option Launch) : State :=
  s.updSch fun q => { q with launches := SMap.set none q.launches lid l }
def State.updLaunch (s : State) (lid : Nat) (f : Launch → Launch) : State :=
  match s.launchOf lid with
  | some l => s.setLaunch lid (some (f l))
  | none => s

/-- A record's key: cluster and slot (R85, R86). -/
def recKey (cl slot : Nat) : Nat := cl * 2 ^ 20 + slot
def State.recAt (s : State) (cl slot : Nat) : Option Rec := SMap.get none s.sch.recs (recKey cl slot)
def State.setRec (s : State) (cl slot : Nat) (r : Option Rec) : State :=
  s.updSch fun q => { q with recs := SMap.set none q.recs (recKey cl slot) r }
/-- R85: generation of a slot, 1 after reset. -/
def State.gen (s : State) (cl slot : Nat) : Nat := SMap.get 1 s.sch.gens (recKey cl slot)
def handleOf (cl gen slot : Nat) : Nat := cl * 2 ^ 28 + gen * 2 ^ 20 + slot
/-- R85, R87: a slot freed; its generation goes from 255 back to 1. -/
def State.freeSlot (s : State) (cl slot : Nat) : State :=
  let g := s.gen cl slot
  (s.setRec cl slot none).updSch fun q =>
    { q with gens := SMap.set 1 q.gens (recKey cl slot) (if g = 255 then 1 else g + 1) }

/-- The lowest key of a cluster's store that holds no record. -/
def freeSlotFrom (recs : SMap (Option Rec)) : Nat → Nat → Option Nat
  | 0, _ => none
  | fuel + 1, k => if (SMap.get none recs k).isNone then some k else freeSlotFrom recs fuel (k + 1)
/-- A free slot of a cluster, none when all 2^20 hold records (R86). -/
def State.findSlot (s : State) (cl : Nat) : Option Nat :=
  let used := (s.sch.recs.filter fun e => e.1 / 2 ^ 20 == cl).length
  (freeSlotFrom s.sch.recs (Nat.min (used + 1) (2 ^ 20)) (recKey cl 0)).map (· % 2 ^ 20)

/-- R84: cores of a gang code, none for an invalid one. -/
def gangCores (g : Nat) : Option Nat :=
  if g = 0 then some 1
  else if 2 ≤ g ∧ g ≤ 32 then some g
  else if 33 ≤ g ∧ g ≤ 39 then some (32 * (g - 31))
  else none

/-- R87: a record enters its queue. -/
def State.enqueue (s : State) (cl slot : Nat) (r : Rec) : State :=
  (s.setRec cl slot (some { r with st := .ready, seq := s.sch.nextSeq, since := s.clk.time, readyAt := s.clk.time })).updSch fun q =>
    { q with nextSeq := q.nextSeq + 1 }

/-- R87: a record written to a free slot: PENDING, or READY when JOIN is 0. -/
def State.writeRec (s : State) (cl slot : Nat) (r : Rec) : State :=
  if r.join = 0 then s.enqueue cl slot r else s.setRec cl slot (some { r with st := .pending })

def State.preempted (s : State) (lid : Nat) : Bool :=
  match s.launchOf lid with
  | some l => l.preempted
  | none => false

/-- R106: a join without effect. -/
def State.badJoin (s : State) (cl : Nat) : State :=
  s.updSch fun q => { q with badJoin := SMap.set 0 q.badJoin cl (satAdd (SMap.get 0 q.badJoin cl) 1 0xFFFF) }

/-- R87: one join to the record a handle names. -/
def State.joinNow (s : State) (h : Nat) : State :=
  let cl := bits h 28 3
  let slot := bits h 0 20
  match s.recAt cl slot with
  | none => s.badJoin cl
  | some r =>
    if s.gen cl slot ≠ bits h 20 8 ∨ bits h 31 1 = 1 then s.badJoin cl
    else match r.st with
      | .ready => s.badJoin cl
      | .withheld =>
        if r.join = 0 then s.badJoin cl else s.setRec cl slot (some { r with join := r.join - 1 })
      | .pending =>
        if 1 < r.join then s.setRec cl slot (some { r with join := r.join - 1 })
        else if s.preempted r.lid then
          s.setRec cl slot (some { r with join := 0, st := .withheld, seq := s.sch.nextSeq, since := 0, readyAt := 0 })
        else s.enqueue cl slot { r with join := 0 }

/-- A join sent to a task queue unit's join port (R91); `who` is the context and operation of a JOIN. -/
def State.sendJoin (s : State) (h : Nat) (who : Option (Nat × Nat)) : State :=
  s.updSch fun q => { q with joins := q.joins ++ [(h, who)] }

/-- R94: a task that has triggered, or stands outside the count, does not lower U again. -/
def Task.counted (t : Task) : Bool := !t.notrig && !t.triggered

def State.gangOf (s : State) (g : Nat) : Option GangSt := SMap.get none s.sch.gangs g
def State.setGang (s : State) (g : Nat) (x : Option GangSt) : State :=
  s.updSch fun q => { q with gangs := SMap.set none q.gangs g x }

/-- R94: U and E count records: a gang's record has triggered, or ended, with the last of its members. `l` are the members
before `c`. -/
def State.wholeRec (s : State) (c : Nat) (t : Task) (l : GangSt → List Nat) : Bool :=
  match t.gang.bind s.gangOf with
  | none => true
  | some g => g.members.all fun m => m == c || (l g).contains m
def State.countTrig (s : State) (c : Nat) (t : Task) : State :=
  if !t.counted then s
  else
    let q := match t.gang, t.gang.bind s.gangOf with
      | some i, some g => s.setGang i (some { g with trigs := g.trigs ++ [c] })
      | _, _ => s
    if s.wholeRec c t GangSt.trigs then q.updLaunch t.lid fun l => { l with u := l.u - 1 } else q
def State.countEnd (s : State) (c : Nat) (t : Task) : State :=
  if s.wholeRec c t GangSt.ended then (s.countTrig c t).updLaunch t.lid fun l => { l with e := l.e - 1 }
  else s.countTrig c t

/-- R239: a barrier record in the Attic of a member's cluster. -/
def State.barNote (s : State) (core : Nat) (g : GangSt) (t : Task) (release broken : Bool) : State :=
  s.noteIf 3 0x0B core 0x74 t.pdom t.lid [pack [(broken.toNat, 25), (release.toNat, 24), (g.epoch % 65536, 8), (g.id, 0)]]
def Ctx.hasBar (x : Ctx) : Bool := x.ops.any fun o => o.form == .bar
/-- What the BAR's task issued before it, of the kinds that `p` picks, is acknowledged. -/
def Ctx.barReady (x : Ctx) (p : Op → Bool) : Bool :=
  match x.ops.find? fun o => o.form == .bar with
  | none => false
  | some b => x.ops.all fun o => b.id ≤ o.id || !p o

/-- R98: a member's BAR arrives at a barrier that stands, once what its task issued before it is acknowledged. -/
def State.barArrive (s : State) (c : Nat) : State :=
  let x := s.ctx c
  match x.task.gang.bind s.gangOf with
  | none => s
  | some g =>
    if g.broken || !x.barReady (fun o => o.inSt || o.inCp) || g.arrived.contains c then s
    else (s.setGang (x.task.gang.getD 0) (some { g with arrived := g.arrived ++ [c] })).barNote (coreOf c) g x.task false false

/-- R98: a member has ended; the barrier is freed with the last one. -/
def State.gangEnd (s : State) (c : Nat) (t : Task) : State :=
  match t.gang with
  | none => s
  | some g =>
    match s.gangOf g with
    | none => s
    | some x =>
      let x := { x with ended := x.ended ++ [c] }
      s.setGang g (if x.members.all x.ended.contains then none else some x)

/-- Everything pending, as one batch. -/
def Sub.batch (x : Sub) : List (Nat × Byte) := x.pending.filterMap fun e => e.2.map fun b => (e.1, b)
def batchLines (l : List (Nat × Byte)) : List Nat := (l.map fun e => e.1 / 64).dedup
/-- R239: the record of a batch. -/
def State.batchNote (s : State) (x : Sub) (l : List (Nat × Byte)) : State :=
  let lines := batchLines l
  s.noteIf 2 0x0A (32 * x.cl) 0x73 x.pdom x.lid
    [pack [(lines.length % 256, 8), (x.subEntry, 0)], w64 (x.pub + 64 * nth 0 lines 0)]
/-- R153, R154: a freed entry keeps the batches that have been sent; what an ACTIVE one still holds is sent. -/
def Sub.freed (x : Sub) : List Sub :=
  let last := x.batch
  let sent := if x.state = 0 ∨ x.state = 3 then x.sent ++ (if last.isEmpty then [] else [last])
    else if x.state = 4 then x.sent else []
  if sent.isEmpty then [] else [{ x with state := 4, pending := [], due := [], sent := sent }]
/-- R154: a task's end frees the subscriptions of its core that its gang made. -/
def State.subsEnd (s : State) (core : Nat) (t : Task) : State :=
  let hit (x : Sub) : Bool := (x.pubCore == core || x.subCore == core) && x.pdom == t.pdom && x.lid == t.lid
  (s.msg.subs.foldl (fun s x =>
    if hit x && (x.state == 0 || x.state == 3) && !x.batch.isEmpty then s.batchNote x x.batch else s) s).updMsg fun g =>
      { g with subs := g.subs.flatMap fun x => if hit x then x.freed else [x] }
/-- R153: BAR, TRIG or END of the publisher's task makes every pending line due. -/
def State.urge (s : State) (c : Nat) : State :=
  s.updMsg fun g => { g with subs := g.subs.map fun x =>
    if x.pubCtx = c then { x with due := x.due.map fun e => (e.1, some 0) } else x }

/-- R217, R299: what END leaves: the task's writes released, LD operations dropped, TL operations going on without the task, counts, gang,
subscriptions, the fabric's hold and the context idle. A BAR whose condition of R98 holds has arrived. -/
def State.endTask (s : State) (c : Nat) : State :=
  let x := s.ctx c
  let t := x.task
  let core := coreOf c
  let left := x.ops.filter fun o => o.inTl && o.form != .bar
  let s := ((((s.countEnd c t).barArrive c).gangEnd c t).subsEnd core t).releaseAll (· == .seq c)
  let s := s.updFab core fun f => { f with
    orphans := f.orphans ++ left.map fun o => (o, t, c)
    holder := if f.holder == some c then none else f.holder }
  s.setCtx c {}

/-- R95: stores, copies and messages all acknowledged. -/
def Ctx.quiet (x : Ctx) : Bool := x.nSt == 0 && x.nCp == 0

end Sys2Proof.Machine
end

