-- ==== Sys2Proof/Machine/Ops.lean ====
section
/-! DEFINITION. The named operations of a sequencer context: pc, stalls, outstanding operations, and taking a trap
and returning from one (R256, R279, R293, R313 to R315). -/

namespace Sys2Proof.Machine

/-- pc past an instruction; it issued, so its stall reason is 0 (R236). -/
def State.advance (s : State) (c n : Nat) : State :=
  s.updCtx c fun x => { x with pc := x.pc + w64 n, stall := 0, bpDone := 0 }
/-- The instruction waits: nothing but the stall reason changes (R93, R236). -/
def State.stallFor (s : State) (c reason : Nat) : State := s.updCtx c fun x => { x with stall := reason }
def State.setReg (s : State) (c : Nat) (r : Reg) (v : W64) (t : Bool) : State :=
  s.updCtx c fun x => x.setReg r v t
/-- Writes d and goes on. -/
def State.finish (s : State) (c : Nat) (r : Reg) (v : W64) (t : Bool) : State := (s.setReg c r v t).advance c 4
/-- R277: the cycles of a multi-cycle instruction run until the context's next one. -/
def State.slow (s : State) (c : Nat) (pc : W64) : State := s.updCtx c fun x => { x with stall := 8, slowPc := pc }
/-- Writes d and goes on after a multi-cycle instruction. -/
def State.finishSlow (s : State) (c : Nat) (r : Reg) (v : W64) (t : Bool) : State :=
  (s.finish c r v t).slow c (s.ctx c).pc

/-- R279: starts an operation that has no request. -/
def State.addOp (s : State) (c : Nat) (o : Op) : State :=
  s.updCtx c fun x => { x with ops := x.ops ++ [{ o with id := x.nextOp }], nextOp := x.nextOp + 1 }
/-- R279: starts an operation on a request to memory. -/
def State.startOp (s : State) (c : Nat) (o : Op) (r : Req) : State :=
  (s.issue r).addOp c { o with req := some s.mem.nextReq }

/-! ### Control transfers (R256) -/

/-- The first check a target fails, as trap cause and detail. `p` is what the target resolves to. -/
def State.targetTrap (s : State) (a : W64) (p : Place) : Option (Nat × W64) :=
  if !aligned a 4 then some (4, a)
  else match p with
    | .fault f => some (0x10 + f, a)
    | .miss => none
    | .mreg _ => some (0x17, a)
    | p => if 2 ≤ (s.codeWord p).toNat / 2 ^ 30 then some (2, a) else none

/-! ### Places -/

/-- The keys of `n` bytes at a place, and the device when it is another one's. -/
def Place.keys (p : Place) (n : Nat) : List Nat :=
  match p with
  | .mem k => keyRange k n
  | .remote d pa => keyRange (remoteKey d pa) n
  | _ => []
def Place.dev : Place → Option Nat
  | .remote d _ => some d
  | _ => none

/-! ### Traps (R312 to R315) -/

/-- R314: the trap record, stored with plain stores on path S; a store that fails is lost. -/
def State.trapRecord (s : State) (c cause : Nat) (detail pc : W64) : State :=
  let x := s.ctx c
  if x.csr.trec = 0#64 then s else
  let r := s.resolveNow c x.csr.trec 1
  let keys := r.2.keys 64
  if keys.isEmpty then r.1 else
    let ws : List W64 := [w64 cause, detail, pc,
      pack [(x.task.pdom, 48), (x.task.lid, 32), (coreOf c, 0)], 0#64, 0#64, 0#64, 0#64]
    let data := ws.flatMap fun w => leBytes w.toNat 8
    r.1.startOp c { id := 0, form := .st, inSt := true, va := x.csr.trec.toNat }
      { by_ := .seq c, path := 0, kind := .write, va := x.csr.trec.toNat, wr := keys.zip data, dev := r.2.dev }

/-- R299, R95: the end of a task, once everything it waits for is acknowledged. -/
def State.tryEnd (s : State) (c : Nat) : State :=
  if (s.ctx c).quiet then s.endTask c else s.updCtx c fun x => { x with endWait := true, stall := 5 }

/-- R314: a task ends by trap; the management sequencer halts. -/
def State.endByTrap (s : State) (c cause : Nat) (detail pc : W64) : State :=
  if isMgmt c then s.updCtx c fun x => { x with run := .halted }
  else
    let t := (s.ctx c).task
    let s := s.trapRecord c cause detail pc
    (s.noteIf 6 0x0E (coreOf c) (0x60 + c % 4) t.pdom t.lid [pc, w64 cause, detail]).tryEnd c

/-- R313: a trap is taken. `next` is the pc that TPC saves. -/
def State.takeTrap (s : State) (c cause : Nat) (detail next : W64) (deferred : Bool) : State :=
  let x := s.ctx c
  let s := s.clearFaults (.seq c)
  if x.csr.tvec = 0#64 ∨ x.csr.inTrap = true then s.endByTrap c cause detail x.pc
  else
    let csr := { x.csr with
      tpc := next, tcause := BitVec.ofNat 8 cause, tdetail := detail, inTrap := true, deferred := deferred }
    let s := s.setCtx c { x with csr := csr, pc := x.csr.tvec, stall := 0, bpDone := 0 }
    let r := s.resolveNow c x.csr.tvec 2
    match r.1.targetTrap x.csr.tvec r.2 with
    | none => r.1
    | some _ => r.1.endByTrap c cause detail x.pc

/-- A trap at the instruction being executed. -/
def State.trap (s : State) (c cause : Nat) (detail : W64) : State :=
  s.takeTrap c cause detail (s.ctx c).pc false
/-- TRAP and BKPT save the pc after them. -/
def State.trapPast (s : State) (c cause : Nat) (detail : W64) : State :=
  s.takeTrap c cause detail ((s.ctx c).pc + 4#64) false

/-- R293: the oldest deferred fault is taken, the others are discarded. -/
def State.takeOwed (s : State) (c : Nat) : State :=
  match (s.ctx c).owed with
  | [] => s
  | o :: _ =>
    (s.updCtx c fun x => { x with owed := [] }).takeTrap c (0x10 + o.cause) (w64 o.va) (s.ctx c).pc true

/-- Whether a deferred fault is owed by a load into one of the scalars. -/
def Ctx.owedIn (x : Ctx) (rs : List Reg) : Bool :=
  x.owed.any fun o => match o.dst with
    | some r => rs.contains r
    | none => false

/-- R279, R293, R317: an instruction that names scalars takes a deferred fault of one of them, waits for a pending
one, or goes on. -/
def State.withRegs (s : State) (c : Nat) (rs : List Reg) (k : State) : State :=
  let x := s.ctx c
  if x.owedIn rs then s.takeOwed c
  else if rs.any x.pending then s.stallFor c 1
  else k

/-- R293: TRIG, END, JOIN and BAR take any deferred fault first. -/
def State.withOwed (s : State) (c : Nat) (k : State) : State :=
  if (s.ctx c).owed.isEmpty then k else s.takeOwed c

/-- Any of the owed faults that a wait names. -/
def State.withOwedIf (s : State) (c : Nat) (p : Owed → Bool) (k : State) : State :=
  if (s.ctx c).owed.any p then s.takeOwed c else k

/-- R315: the return from a trap: pc from TPC under R256, INTRAP 0. -/
def State.returnFromTrap (s : State) (c : Nat) : State :=
  let x := s.ctx c
  if !x.csr.inTrap then s.trap c 1 0#64
  else if !aligned x.csr.tpc 4 then s.trap c 4 x.csr.tpc
  else
    match s.resolve c x.csr.tpc 2 with
    | .miss => (s.want (.seq c) x.task.pdom x.csr.tpc 2).stallFor c 6
    | p => match s.targetTrap x.csr.tpc p with
      | some (cause, d) => s.trap c cause d
      | none => s.setCtx c { x with
          pc := x.csr.tpc, stall := 0, bpDone := 0, csr := { x.csr with inTrap := false } }

/-- A branch to `a`, with `link` applied only when every check passes (R256, R287). -/
def State.transfer (s : State) (c : Nat) (a : W64) (link : Ctx → Ctx) : State :=
  let x := s.ctx c
  if !aligned a 4 then s.trap c 4 a else
  match s.resolve c a 2 with
  | .miss => (s.want (.seq c) x.task.pdom a 2).stallFor c 6
  | p => match s.targetTrap a p with
    | some (cause, d) => s.trap c cause d
    | none => s.setCtx c { link x with pc := a, stall := 0, bpDone := 0 }

/-- R279: the number of a class may not pass 64. -/
def Ctx.full (n : Nat) : Bool := 64 ≤ n

end Sys2Proof.Machine
end

