-- ==== Sys2Proof/Machine/MgmtDebug.lean ====
section
/-! DEFINITION. The management debug unit (R431, R432). -/

namespace Sys2Proof.Machine

def State.mdbg (s : State) (hit : Nat) : State := { s with dbg := { s.dbg with mHit := hit, mHalted := true, mStep := false } }

/-- A sequencer that a HALT instruction stopped is not halted by this unit. -/
def State.mgmtRuns (s : State) : Bool := (s.ctx 1024).run == .running

/-- R432: halted at the next instruction boundary; HIT 0xF. -/
def execMdbgHalt (s : State) : Result := .next (if s.mgmtRuns then s.mdbg 15 else s)
/-- R432: resumes at MDBG.PC; the breakpoint at that pc does not hit again first. -/
def execMdbgRun (s : State) : Result :=
  .next (if s.mgmtRuns && s.dbg.mHalted then
      { s with dbg := { s.dbg with mHalted := false, mStep := false } }.updCtx 1024 fun x => { x with bpDone := 1 }
    else s)
/-- R431: one instruction, and then halted. -/
def execMdbgStep (s : State) : Result :=
  .next (if s.mgmtRuns then { s with dbg := { s.dbg with mStep := true, mHalted := false } } else s)
/-- R432: MDBG breakpoint `i` is enabled and holds a pc. -/
def State.mdbgAt (s : State) (i : Nat) (pc : W64) : Bool :=
  let w := (SMap.get 0#64 s.dbg.mBp i).toNat
  bits w 0 1 == 1 && w / 4 * 4 == pc.toNat
def State.mdbgBreak (s : State) (pc : W64) : Option Nat := (List.range 4).find? (s.mdbgAt · pc)
/-- R432: halted before the instruction at the pc of an enabled breakpoint. -/
def execMdbgBreakpointHit (i : Nat) (s : State) : Result :=
  let x := s.ctx 1024
  .next (if s.mgmtRuns && !s.dbg.mHalted && x.bpDone == 0 && i < 4 && s.mdbgAt i x.pc then s.mdbg i else s)

/-- R431 MDBG.CTL. -/
def State.mdbgCtl (s : State) : Nat :=
  s.dbg.mHit * 2 ^ 12 + (s.dbg.mHalted && s.mgmtRuns).toNat * 2 ^ 8

end Sys2Proof.Machine
end

