-- ==== Sys2Proof/Machine/Fetch.lean ====
section
/-! DEFINITION. What a sequencer context does next: an end or trap it owes, a breakpoint at its pc, or the
instruction fetched there (R233, R252 to R257, R314, R432). Instructions to place in memory for a step. -/

namespace Sys2Proof.Machine

/-- One step of time: a free number of network and fabric cycles passes (log entry 5). -/
def State.pass (s : State) : State :=
  { s with clk := {
      up := s.clk.up + Config.netCycles s.clk.tick
      time := s.clk.time + Config.netCycles s.clk.tick
      fab := s.clk.fab + Config.fabCycles s.clk.tick
      tick := s.clk.tick + 1 } }

/-- R231, R233: the breakpoints of a KIND that name a value for a context, lowest index first: a pc, or an id in [15:0]. -/
def State.breakpointsFor (s : State) (c kind value : Nat) : List Nat :=
  let t := (s.ctx c).task
  let d := s.dbgOf t.pdom
  if isMgmt c then [] else
  (List.range 8).filter fun i =>
    let w := d.word (0x100 + 0x20 * i)
    let v := d.word (0x108 + 0x20 * i)
    bits w 0 1 == 1 && bits w 4 3 == kind && (if kind = 0 then v else v % 2 ^ 16) == value &&
      groupHas (bits w 48 16) (bits w 10 1 == 1) (bits w 9 1 == 1) (d.word (0x110 + 0x20 * i)) t

/-- R252, R255, R257: the instruction at a pc; a fault or a word that is none gives the event for it; a
translation that is missing makes the context wait. -/
def State.fetch (s : State) (c : Nat) : Except State Instr :=
  let x := s.ctx c
  match s.resolve c x.pc 2 with
  | .miss => .error ((s.want (.seq c) x.task.pdom x.pc 2).stallFor c 7)
  | .fault f => .ok (.instructionFetchTrap f)
  | .mreg _ => .ok (.instructionFetchTrap 7)
  | p =>
    let w := s.codeWord p
    if isLong w then
      match s.resolve c (x.pc + 4#64) 2 with
      | .miss => .error ((s.want (.seq c) x.task.pdom (x.pc + 4#64) 2).stallFor c 7)
      | .fault f => .ok (.instructionFetchTrap f)
      | .mreg _ => .ok (.instructionFetchTrap 7)
      | p2 => match decode w (s.codeWord p2) with
        | .ok i => .ok i
        | .error _ => .ok .illegalInstructionTrap
    else match decode w 0#32 with
      | .ok i => .ok i
      | .error _ => .ok .illegalInstructionTrap

/-- What the current context does next; `.error` is a state in which it only waited or settled what it owed. -/
def State.nextInstr (s : State) : Except State Instr :=
  let c := s.cur
  let x := s.ctx c
  if x.run ≠ .running then .error s
  else if isMgmt c && s.dbg.mHalted && !s.dbg.mStep then .error s
  else if x.endWait then .error (s.tryEnd c)
  else match x.pendTrap with
    | some (cause, d) => .error ((s.updCtx c fun x => { x with pendTrap := none }).takeTrap c cause d x.pc true)
    | none =>
      if isMgmt c && x.bpDone == 0 && !s.dbg.mStep && (s.mdbgBreak x.pc).isSome then
        .ok (.mdbgBreakpointHit ((s.mdbgBreak x.pc).getD 0))
      else if x.bpDone ≠ 0 then s.fetch c
      else match s.breakpointsFor c 0 x.pc.toNat with
        | i :: _ => .ok (.breakpointHit c i)
        | [] => s.fetch c

/-- The read of the block of the SEND at which a context stands. -/
def Ctx.sendRead (x : Ctx) : Option Op := x.ops.find? fun o => o.form == .send && !o.inCp && o.x == x.pc
/-- R432: once the one instruction of MDBG.CTL.STEP has issued, the management sequencer is halted, HIT 0xE. -/
def State.settle (s : State) : State :=
  let x := s.ctx 1024
  if s.cur == 1024 && s.dbg.mStep && (x.run != .running || (x.stall == 0 && x.sendRead.isNone) || x.stall == 8) then s.mdbg 14 else s

/-- Four bytes of code put where a context would fetch them at an address. -/
def State.placeWord (s : State) (c : Nat) (a : W64) (w : Nat) : State :=
  match s.resolve c a 2 with
  | .mem k => s.updMem fun m => { m with
      bytes := (bytesAt k (leBytes w 4)).foldl (fun b e => SMap.set Config.blankByte b e.1 e.2) m.bytes }
  | _ => s

/-- The current context made ready to fetch: running, nothing owed, no breakpoint in the way. -/
def State.readyToFetch (s : State) : State :=
  let s := { s with agenda := [] }
  let ok := !isMgmt s.cur && (match s.resolve s.cur (s.ctx s.cur).pc 2, s.resolve s.cur ((s.ctx s.cur).pc + 4#64) 2 with
    | .mem _, .mem _ => true
    | _, _ => false)
  let s := if ok then s else { s with cur := 1024 }
  let s := s.updCtx s.cur fun x => { x with run := .running, endWait := false, pendTrap := none, bpDone := 1 }
  let s := { s with dbg := { s.dbg with mHalted := false } }
  match s.resolve s.cur (s.ctx s.cur).pc 2, s.resolve s.cur ((s.ctx s.cur).pc + 4#64) 2 with
  | .mem _, .mem _ => s
  | _, _ => s.updCtx s.cur fun x => { x with pc := 0#64 }

end Sys2Proof.Machine
end

