-- ==== Sys2Proof/Machine/Power.lean ====
section
/-! DEFINITION. Thermal and power control: damage integrals, energy bucket, cluster Winter and Off (R218 to R228,
R428). -/

namespace Sys2Proof.Machine

/-- R320, R428: a change of any cluster's CLPWR.STATE sets MEVT.CLPWR. -/
def State.setClState (s : State) (cl st : Nat) : State :=
  (s.updClu cl fun x => { x with state := st }).updCtx 1024 fun x =>
    { x with csr := { x.csr with mevt := x.csr.mevt ||| 4#3 } }
def State.clActive (s : State) (cl : Nat) : Bool := (s.clu cl).state == 0

/-- Whether an inbox key belongs to an engine of a cluster. -/
def ofCluster (cl key : Nat) : Bool := key / 4096 == cl

/-- R225: every engine of the cluster idle: nothing in execution and nothing left in an inbox. -/
def State.enginesIdle (s : State) (cl : Nat) : Bool :=
  s.msg.cmds.all (fun e => !ofCluster cl e.1) && s.msg.inbox.all fun e => !ofCluster cl e.1
/-- R225 CLPWR.ACK. -/
def State.clAck (s : State) (cl : Nat) : Bool := (s.clu cl).req && s.enginesIdle cl

/-- R88: no running task holds the fabric and no region runs on it; one whose DONE has reached its root still drains. -/
def Fabric.isFree (f : Fabric) : Bool := f.holder.isNone && f.st != .running

/-- R105: running contexts and busy fabrics of a cluster. -/
def State.runCtx (s : State) (cl : Nat) : Nat :=
  (s.ctxs.filter fun e => e.1 < 1024 && e.1 / 128 == cl && e.2.run != .idle).length
def State.fabBusy (s : State) (cl : Nat) : Nat :=
  (s.fabs.filter fun e => e.1 / 32 == cl && !e.2.isFree).length
def State.drainStop (s : State) (cl : Nat) : Bool := SMap.get false s.sch.stop cl
def State.queueIdle (s : State) (cl : Nat) : Bool := s.drainStop cl && s.runCtx cl == 0 && s.fabBusy cl == 0

/-- R226: the save and the gate need ACK and IDLE. -/
def State.quiesced (s : State) (cl : Nat) : Bool := s.clActive cl && s.clAck cl && s.queueIdle cl

/-! ### CLRET.SAVE -/

def ceSlotReset : W64 := 0xFAC688FAC688#64
/-- R156: the table in force. A port takes one entry a network cycle, so entry 0 comes every 16 cycles; the model puts
it at TIME mod 16 = 0 (log entry 24). -/
def State.ceSlot (s : State) (cl i : Nat) : W64 :=
  let old := SMap.get ceSlotReset s.msg.ceSlot (4 * cl + i)
  if SMap.get 0 s.msg.ceAt (4 * cl + i) / 16 < s.clk.time / 16 then
    (SMap.get none s.msg.cePend (4 * cl + i)).getD old
  else old
/-- A write waits for the table's next entry 0. -/
def State.ceWrite (s : State) (cl i : Nat) (v : W64) : State :=
  s.updMsg fun g => { g with
    ceSlot := SMap.set ceSlotReset g.ceSlot (4 * cl + i) (s.ceSlot cl i)
    cePend := SMap.set none g.cePend (4 * cl + i) (some v)
    ceAt := SMap.set 0 g.ceAt (4 * cl + i) s.clk.time }
/-- Every table of a cluster set at once. -/
def State.ceLoad (s : State) (cl : Nat) (f : Nat → W64) : State :=
  s.updMsg fun g => { g with
    ceSlot := (List.range 4).foldl (fun m i => SMap.set ceSlotReset m (4 * cl + i) (f i)) g.ceSlot
    cePend := SMap.eraseRange g.cePend (4 * cl) 4
    ceAt := SMap.eraseRange g.ceAt (4 * cl) 4 }

/-! ### Row cycles and their counters (R137, R138) -/

/-- R138: the counter of a class: FIRED 0, CFGLOAD 1, IDLE 2, then the classes' own numbers. -/
def counterOf (cls : Nat) : Nat := if cls = 1 then 0 else if cls = 2 then 1 else if cls = 0 then 2 else cls
def Unit_.count (u : Unit_) (i n : Nat) : Unit_ :=
  { u with counters := SMap.set 0 u.counters i (satAdd (SMap.get 0 u.counters i) n (2 ^ 40 - 1)) }
/-- The row cycles of a unit that have ended are counted: the one that ran in its class, those after it in `rest`. -/
def Unit_.upTo (x : Unit_) (now div : Nat) : Unit_ :=
  let n := (now - x.seen) / div
  if n = 0 then x
  else { (x.count (counterOf x.cls) 1).count (counterOf x.rest) (n - 1) with seen := x.seen + n * div, cls := x.rest }
/-- The counters of every unit brought up to a time; pre-emption, a stop (R234) and a gated clock stop them. -/
def Fabric.counted (f : Fabric) (now : Nat) : Fabric :=
  if f.held || f.halted || f.gated then f else { f with units := f.units.map fun e => (e.1, e.2.upTo now (f.divOf (e.1 / 16))) }
/-- The counters go on from a time. -/
def Fabric.countFrom (f : Fabric) (now : Nat) : Fabric :=
  { f with units := f.units.map fun e => (e.1, { e.2 with seen := now }) }
/-- The same when the region stops: its units are idle from now on. -/
def Fabric.idled (f : Fabric) (now : Nat) : Fabric :=
  let f := f.counted now
  { f with units := f.units.map fun e => (e.1, { e.2 with cls := 0, rest := 0 }) }

/-! ### The register state of a cluster as words (R225; log entry 19) -/

/-- The fault registers and counters of one firing unit: core, unit, IEF0, IEF1, counters. -/
structure KeptUnit where
  core : Nat
  key : Nat
  f0 : W64
  f1 : W64
  counters : SMap Nat
  deriving DecidableEq, Repr
def KeptUnit.words (k : KeptUnit) : List W64 :=
  pack [(k.core, 32), (k.key, 0)] :: k.f0 :: k.f1 :: (List.range 12).map fun i => w64 (SMap.get 0 k.counters i)
def KeptUnit.of (l : List W64) : KeptUnit where
  core := bits (nth 0#64 l 0).toNat 32 32
  key := bits (nth 0#64 l 0).toNat 0 32
  f0 := nth 0#64 l 1
  f1 := nth 0#64 l 2
  counters := (List.range 12).foldl (fun m i => SMap.set 0 m i (nth 0#64 l (3 + i)).toNat) []
/-- A barrier of the cluster's node: gang, superstep, broken, the members that have arrived. -/
structure KeptBar where
  gang : Nat
  epoch : Nat
  broken : Bool
  arrived : List Nat
  deriving DecidableEq, Repr
def KeptBar.words (k : KeptBar) : List W64 :=
  w64 k.gang :: w64 k.epoch :: pack [(k.broken.toNat, 32), (k.arrived.length, 0)] :: k.arrived.map w64
/-- The first `n` barriers of a list of words. -/
def readBars : Nat → List W64 → List KeptBar
  | 0, _ => []
  | n + 1, l =>
    let m := bits (nth 0#64 l 2).toNat 0 32
    ⟨(nth 0#64 l 0).toNat, (nth 0#64 l 1).toNat, bits (nth 0#64 l 2).toNat 32 1 == 1, ((l.drop 3).take m).map BitVec.toNat⟩ ::
      readBars n (l.drop (3 + m))

/-- The elements' fault registers and counters, and the barriers of the cluster's node. -/
def State.keptUnits (s : State) (cl : Nat) : List KeptUnit :=
  (s.fabs.filter fun e => e.1 / 32 == cl).flatMap fun e =>
    (e.2.counted s.clk.fab).units.map fun u => ⟨e.1, u.1, u.2.f0, u.2.f1, u.2.counters⟩
def State.keptBars (s : State) (cl : Nat) : List KeptBar :=
  s.sch.gangs.filterMap fun e => e.2.bind fun g =>
    if g.clusters.head? = some cl then some ⟨e.1, g.epoch, g.broken, g.arrived⟩ else none
/-- CE.SLOT, FAB.VSTALL, TH.DELAY, how many units and barriers follow, then these. -/
def State.clSaveWords (s : State) (cl : Nat) : List W64 :=
  (List.range 4).map (s.ceSlot cl) ++
    [w64 (s.clu cl).vstall, w64 (s.clu cl).thDelay, w64 (s.keptUnits cl).length, w64 (s.keptBars cl).length] ++
    (s.keptUnits cl).flatMap KeptUnit.words ++ (s.keptBars cl).flatMap KeptBar.words

/-- Words of the 64 KiB save area. -/
def saveWords : Nat := 8192
def State.clSave (s : State) (cl : Nat) : State :=
  if s.quiesced cl then
    let ws := s.clSaveWords cl
    let s := (s.updClu cl fun x => { x with saveDone := false, saveTail := ws.drop saveWords }).setClState cl 1
    match s.physKey ((s.clu cl).retBase * 65536) with
    | some k => s.write 6 .mgmtBlock false (bytesAt k ((ws.take saveWords).flatMap fun w => leBytes w.toNat 8))
    | none => s
  else s

def State.clSaveDone (s : State) (cl : Nat) : State :=
  if (s.clu cl).state = 1 then (s.updClu cl fun x => { x with saveDone := true }).setClState cl 0 else s

/-! ### Gate, rails, wake -/

/-- R226, R227: the clock gated; records the Attic holds are lost and owed as one loss record. -/
def State.clGate (s : State) (cl : Nat) : State :=
  if s.quiesced cl then
    (State.updClu (cl := cl) { s with fabs := s.fabs.map fun e =>
        if e.1 / 32 = cl then (e.1, { e.2.counted s.clk.fab with gated := true }) else e } fun x => { x with
      gate := true, rail := 0, lossOwed := satAdd x.lossOwed x.records.length (2 ^ 32 - 1), records := [] }).setClState cl 2
  else s

def State.clRetention (s : State) (cl : Nat) : State :=
  if (s.clu cl).state = 2 ∧ (s.clu cl).saveDone = true then s.updClu cl fun x => { x with rail := 1 } else s
def State.clOff (s : State) (cl : Nat) : State :=
  if (s.clu cl).state = 2 then (s.updClu cl fun x => { x with rail := 2 }).setClState cl 3 else s

/-- R226: Spring begins from WINTER or OFF; any other state sets WAKEIGN. `wokeFrom` keeps 0 for a Winter with its
rails on, 1 for retention, 2 for Off. -/
def State.clWake (s : State) (cl : Nat) : State :=
  let x := s.clu cl
  if x.state = 2 ∨ x.state = 3 then
    (s.updClu cl fun x => { x with
      wokeFrom := if x.state = 3 then 2 else x.rail, saveDone := false, gate := false, rail := 0 }).setClState cl 4
  else s.updClu cl fun x => { x with wakeIgn := true }

/-- R142: the pool of a core zeroed, with its partition, full bits, arrival counts and tensor entries. -/
def State.zeroPool (s : State) (core : Nat) : State :=
  (s.zeroRange (poolKey core 0) Config.poolBytes).updMem fun m => { m with
    part := SMap.erase m.part core
    full := SMap.eraseRange m.full (poolKey core 0 / 16) (Config.poolBytes / 16)
    arrive := SMap.eraseRange m.arrive (core * 64) 64
    tids := SMap.eraseRange m.tids (core * 256) 256
    rings := SMap.eraseRange m.rings (core * 256) 256 }

def cores (cl : Nat) : List Nat := (List.range 32).map (32 * cl + ·)

/-- The fault registers and counters of a cluster's elements set by core and unit. -/
def State.setKept (s : State) (cl : Nat) (f : Nat → Nat → KeptUnit) : State :=
  { s with fabs := s.fabs.map fun e =>
      if e.1 / 32 = cl then (e.1, { e.2 with units := e.2.units.map fun u =>
        let k := f e.1 u.1
        (u.1, { u.2 with f0 := k.f0, f1 := k.f1, counters := k.counters }) })
      else e }
/-- The barriers of a cluster's node set: those that `f` names, the others reset. -/
def State.setBars (s : State) (cl : Nat) (f : Nat → Option KeptBar) : State :=
  s.updSch fun q => { q with gangs := q.gangs.map fun e => (e.1, e.2.map fun g =>
    if g.clusters.head? = some cl then match f e.1 with
      | some b => { g with epoch := b.epoch, arrived := b.arrived, broken := b.broken }
      | none => { g with epoch := 1, arrived := [], broken := false }
    else g) }
/-- R226: the register state that a wake gives: kept, read back from CLRET.BASE, or reset with the pools. -/
def State.clRestore (s : State) (cl : Nat) : State :=
  let x := s.clu cl
  if x.wokeFrom = 0 then s
  else if x.wokeFrom = 1 then
    match s.physKey (x.retBase * 65536) with
    | none => s
    | some k =>
      let ws := (List.range saveWords).map (fun i => s.image (k + 8 * i)) ++ x.saveTail
      let rd (i : Nat) : W64 := nth 0#64 ws i
      let s := s.ceLoad cl rd
      let s := s.updClu cl fun x => { x with vstall := (rd 4).toNat % 64, thDelay := (rd 5).toNat % 256 }
      let units := (List.range (rd 6).toNat).map fun i => KeptUnit.of (ws.drop (8 + 15 * i))
      let bars := readBars (rd 7).toNat (ws.drop (8 + 15 * (rd 6).toNat))
      let unit (core key : Nat) : KeptUnit :=
        (units.find? fun u => u.core == core && u.key == key).getD ⟨core, key, 0#64, 0#64, []⟩
      (s.setKept cl unit).setBars cl fun i => bars.find? fun b => b.gang == i
  else
    let s := s.ceLoad cl fun _ => ceSlotReset
    let s := s.updClu cl fun x => { x with vstall := 24, thDelay := 16 }
    let s := { s.setBars cl fun _ => none with fabs := SMap.eraseRange s.fabs (32 * cl) 32 }
    (cores cl).foldl State.zeroPool s

/-- R226: the TLBs and walk cache of a cluster invalidated. -/
def State.clDropTlbs (s : State) (cl : Nat) : State :=
  s.updXl fun x => { x with
    tlbs := SMap.erase (SMap.eraseRange x.tlbs (32 * cl) 32) (256 + cl)
    caches := SMap.erase x.caches cl }

/-- R227: the loss record that the Attic writes first on a wake. -/
def State.clLossRecord (s : State) (cl : Nat) : State :=
  s.updClu cl fun x =>
    if x.lossOwed = 0 then x
    else { x.push (recPad 8 (recHead 0x3E 0 cl 0 0 s.clk.time 0 0 ++ [w64 x.lossOwed])) with lossOwed := 0 }

/-- The clock runs again: the counters go on from now. -/
def State.clUngate (s : State) (cl : Nat) : State :=
  { s with fabs := s.fabs.map fun e =>
      if e.1 / 32 = cl then (e.1, { e.2.countFrom s.clk.fab with gated := false }) else e }
def State.springDone (s : State) (cl : Nat) : State :=
  if (s.clu cl).state = 4 then ((((s.clRestore cl).clUngate cl).clDropTlbs cl).clLossRecord cl).setClState cl 0 else s

/-! ### Damage integral, bucket, Summer -/

def State.dmg (s : State) (k : Nat) : Dmg := SMap.get {} s.pow.dmg k

/-- R221: what a region at T degrees adds. -/
def dmgAdd (t : Nat) : Nat := if t < 85 then 0 else 2 ^ Nat.min ((t - 85) / 5) 5
/-- R221: a reading in units of 0.125 °C in whole °C; below 0 nothing depends on it. -/
def wholeDegrees (t : Int) : Nat := (t / 8).toNat
def Dmg.update (g : Dmg) (t : Nat) : Dmg := { g with d := Nat.min (g.d + dmgAdd t - g.leak) (2 ^ 32 - 1) }
/-- R221: LIMIT is held in units of 256. -/
def Dmg.bound (g : Dmg) : Nat := g.limit * 256
/-- R221: at D ≥ LIMIT/2 Summer is withheld from the whole device; region 16 throttled withholds it too. -/
def State.summerWithheld (s : State) : Bool :=
  (List.range 17).any fun k => let g := s.dmg k; g.bound ≤ 2 * g.d

/-- R221, R223: extra row cycles of a throttled region; 0 when it is not throttled. -/
def State.throttleOf (s : State) (k cl : Nat) : Nat :=
  let g := s.dmg k
  if g.bound ≤ g.d then 255 else if 3 * g.bound ≤ 4 * g.d then (s.clu cl).thDelay else 0

/-- R224: Summer in force exactly when all four conditions hold. -/
def State.setSummer (s : State) : State :=
  s.updPow fun p => { p with
    inSummer := p.summerReq && 0 < p.level && !s.summerWithheld && p.lastMw ≤ 2300000 }

/-- R15: THERMTRIP_N once a sensor has read 115 °C or more. -/
def Pkg.trip (p : Pkg) : Pkg := if 920 ≤ p.tempMax.toInt then { p with thermtrip := true, therm := true } else p
/-- R25: SB.TEMPMAX from the regions' hottest sensors, in units of 0.125 °C. -/
def Pkg.setTemp (p : Pkg) (temps : List Int) : Pkg :=
  match temps.take 17 with
  | [] => p
  | t :: l => { p with tempMax := BitVec.ofInt 32 (l.foldl max t) }
/-- R25: SB.POWER averaged over 1 ms, and the energy counted. -/
def Pkg.addPower (p : Pkg) (mw : Nat) : Pkg :=
  let l := (mw :: p.powers).take 100
  { p with
    powers := l
    power := BitVec.ofNat 32 (l.foldl (· + ·) 0 / l.length)
    energy := p.energy + mw }

def execDamageIntegralUpdate (temps : List Int) (s : State) : Result :=
  let s := s.updPkg fun p => (p.setTemp temps).trip
  let s := (List.range 17).foldl (fun s k => s.updPow fun p =>
    { p with dmg := SMap.set {} p.dmg k ((SMap.get {} p.dmg k).update (wholeDegrees (nth 0 temps k))) }) s
  .next s.setSummer

/-- R224, R228: B gains (1,800 W − P) over 10 µs, in units of 10 nJ; the accumulators count. -/
def execBucketUpdate (mw : Nat) (s : State) : Result :=
  let cap := s.pow.cap * 100000
  let s := { s with
    pow := { s.pow with level := Nat.min cap (s.pow.level + 1800000 - mw), lastMw := mw }
    pkg := s.pkg.addPower mw }
  let s := (List.range 8).foldl (fun s cl => s.updClu cl fun x =>
    { x with enAcc := x.enAcc + Config.clusterEnergy s.clk.tick cl }) s
  .next s.setSummer

def execClpwrReqWrite (cl : Nat) (v : Bool) (s : State) : Result :=
  .next (s.whenUp (s.updClu cl fun x => { x with req := v }))
def execClretSaveGo (cl : Nat) (s : State) : Result := .next (s.whenUp (s.clSave cl))
def execClretSaveComplete (cl : Nat) (s : State) : Result := .next (s.clSaveDone cl)
def execClclkGate (cl : Nat) (s : State) : Result := .next (s.whenUp (s.clGate cl))
def execClrailRetention (cl : Nat) (s : State) : Result := .next (s.whenUp (s.clRetention cl))
def execClrailOff (cl : Nat) (s : State) : Result := .next (s.whenUp (s.clOff cl))
def execClwake (cl : Nat) (s : State) : Result := .next (s.whenUp (s.clWake cl))
def execSpringComplete (cl : Nat) (s : State) : Result := .next (s.springDone cl)

/-- R320: MEVT.TIMER in a network cycle in which TIME ≥ TIMECMP. -/
def execTimecmpMatch (s : State) : Result :=
  let x := s.ctx 1024
  .next (if x.csr.timecmp.toNat ≤ s.clk.time % 2 ^ 64 then
      s.setCtx 1024 { x with csr := { x.csr with mevt := x.csr.mevt ||| 2#3 } }
    else s)

end Sys2Proof.Machine
end

