-- ==== Sys2Proof/Machine/RegSpace.lean ====
section
/-! DEFINITION. The management register space: which register an offset names, its reads, its writes, and the events
that write registers (R8, R35, R40 to R44, R60, R70, R105, R106, R136, R156, R222 to R228, R240, R417, R427, R431). -/

namespace Sys2Proof.Machine

/-- The registers of the space. -/
inductive MReg where
  | queueDrain (cl : Nat) | tqStat (cl : Nat)
  | vstall (cl : Nat) | ceSlot (cl i : Nat)
  | clReq (cl : Nat) | clAck (cl : Nat) | clState (cl : Nat) | clBase (cl : Nat) | clSave (cl : Nat)
  | clGate (cl : Nat) | clRail (cl : Nat) | clWake (cl : Nat) | thDelay (cl : Nat) | enAcc (cl : Nat)
  | atticLevel (cl : Nat) | atticCtl (cl : Nat) | atticWptr (cl : Nat)
  | uepCtl (p : Nat) | uepStatus (p : Nat) | uepTrcol (p : Nat)
  | baddst | domCfg
  | errSlice (k : Nat) | errCore (n : Nat)
  | msgStat (ep u : Nat)
  | pwrCtl | pwrBucket | pwrDmg (k : Nat)
  | ldCtx (ld i : Nat)
  | mdbgCtl | mdbgBp (i : Nat) | mdbgPc | mdbgS (n : Nat)
  | none
  deriving DecidableEq, Repr

/-- R64: units of an endpoint that have inboxes, and how many inboxes each has. -/
def unitsOf (ep : Nat) : Nat := if ep < 8 then 5 else if ep < 48 then 1 else if ep = 54 ∨ ep = 55 then 1 else 0
def inboxesOf (ep unit : Nat) : Nat := if unitsOf ep ≤ unit then 0 else if ep = 54 then 1 else 8

/-- The cluster control block of a cluster (R136, R156, R223, R225, R228, R240). -/
def clBlock (cl o : Nat) : MReg :=
  match o with
  | 0x40 => .vstall cl
  | 0x80 => .ceSlot cl 0
  | 0x88 => .ceSlot cl 1
  | 0x90 => .ceSlot cl 2
  | 0x98 => .ceSlot cl 3
  | 0x100 => .clReq cl
  | 0x108 => .clAck cl
  | 0x110 => .clState cl
  | 0x118 => .clBase cl
  | 0x120 => .clSave cl
  | 0x128 => .clGate cl
  | 0x130 => .clRail cl
  | 0x138 => .clWake cl
  | 0x140 => .thDelay cl
  | 0x148 => .enAcc cl
  | 0x180 => .atticLevel cl
  | 0x188 => .atticCtl cl
  | 0x190 => .atticWptr cl
  | _ => .none

/-- The register at a multiple of 8 of the space. -/
def mregAt (off : Nat) : MReg :=
  let hi := off / 2 ^ 16
  let o := off % 2 ^ 16
  if 0x300 ≤ hi ∧ hi < 0x308 then
    if o = 0 then .queueDrain (hi - 0x300) else if o = 8 then .tqStat (hi - 0x300) else .none
  else if 0x320 ≤ hi ∧ hi < 0x328 then clBlock (hi - 0x320) o
  else if 0x400 ≤ hi ∧ hi < 0x40C then
    let p := hi - 0x400
    if o = 0 then .uepCtl p else if o = 8 then .uepStatus p else if o = 0x10 then .uepTrcol p else .none
  else if hi = 0x410 then if o = 0 then .baddst else if o = 8 then .domCfg else .none
  else if hi = 0x420 then if o % 0x100 = 0 ∧ o / 0x100 < 40 then .errSlice (o / 0x100) else .none
  else if hi = 0x430 then if o % 0x100 = 0 then .errCore (o / 0x100) else .none
  else if 0x440 ≤ hi ∧ hi < 0x444 then
    let ep := (off - 0x4400000) / 0x1000
    let u := off % 0x1000 / 0x100
    if off % 0x100 = 0 ∧ u < unitsOf ep then .msgStat ep u else .none
  else if hi = 0x500 then
    if o = 0 then .pwrCtl else if o = 8 then .pwrBucket
    else if 0x100 ≤ o ∧ o < 0x188 then .pwrDmg ((o - 0x100) / 8) else .none
  else if 0x600 ≤ hi ∧ hi < 0x628 then if o < 128 then .ldCtx (hi - 0x600) (o / 8) else .none
  else if hi = 0x700 then
    if o = 0 then .mdbgCtl else if o < 0x28 then .mdbgBp ((o - 8) / 8) else if o = 0x40 then .mdbgPc
    else if 0x100 ≤ o ∧ o < 0x200 then .mdbgS ((o - 0x100) / 8) else .none
  else .none

/-- R106: gang records of a cluster that its cores, less the withdrawn ones, can no longer place. -/
def State.stuck (s : State) (cl : Nat) : Nat :=
  (s.sch.recs.filter fun e => e.1 / 2 ^ 20 == cl && match e.2 with
    | some r => r.st == .ready && (match gangCores r.gang with
      | some n =>
        let cls := if r.gang ≤ 32 then [cl] else (List.range (r.gang - 31)).map fun i => (cl + i) % 8
        let ok := cls.flatMap fun c => (cores c).filter fun k => !SMap.get false s.mem.withdrawn k
        decide (1 < n) && decide (ok.length < n)
      | none => false)
    | none => false).length

def State.ldCtx (s : State) (ld i : Nat) : LCtx := SMap.get {} s.msg.larders (ld * 16 + i)
def State.setLdCtx (s : State) (ld i : Nat) (x : LCtx) : State :=
  s.updMsg fun g => { g with larders := SMap.set {} g.larders (ld * 16 + i) x }
def State.msgStat (s : State) (ep u : Nat) : MsgStat := SMap.get {} s.msg.stat (64 * ep + u)
def State.updMsgStat (s : State) (ep u : Nat) (f : MsgStat → MsgStat) : State :=
  s.updMsg fun g => { g with stat := SMap.set {} g.stat (64 * ep + u) (f (SMap.get {} g.stat (64 * ep + u))) }

/-- The 64 bits a register reads as. -/
def State.mregRead (s : State) : MReg → W64
  | .queueDrain cl => pack [(s.fabBusy cl, 32), (s.runCtx cl, 16), ((s.queueIdle cl).toNat, 1), ((s.drainStop cl).toNat, 0)]
  | .tqStat cl => pack [((s.sch.recs.filter fun e => e.1 / 2 ^ 20 == cl).length, 43),
      (SMap.get 0 s.sch.badJoin cl, 16), (Nat.min (s.stuck cl) 255, 8),
      ((SMap.get none s.sch.resv cl).isSome.toNat, 0)]
  | .vstall cl => w64 (s.clu cl).vstall
  | .ceSlot cl i => s.ceSlot cl i
  | .clReq cl => w64 (s.clu cl).req.toNat
  | .clAck cl => w64 (s.clAck cl).toNat
  | .clState cl => w64 ((s.clu cl).state + 8 * (s.clu cl).wakeIgn.toNat)
  | .clBase cl => w64 ((s.clu cl).retBase * 2 ^ 16)
  | .clSave cl => w64 (2 * (s.clu cl).saveDone.toNat)
  | .clGate cl => w64 (s.clu cl).gate.toNat
  | .clRail cl => w64 (s.clu cl).rail
  | .clWake _ => 0#64
  | .thDelay cl => w64 (s.clu cl).thDelay
  | .enAcc cl => w64 ((s.clu cl).enAcc / 100000)
  | .atticLevel cl => pack [((s.clu cl).lost, 32), ((s.clu cl).level, 0)]
  | .atticCtl cl => pack [((s.clu cl).attBase, 16), ((s.clu cl).attLog2, 5), ((s.clu cl).attDest, 0)]
  | .atticWptr cl => (s.clu cl).wptr
  | .uepCtl p => let x := s.port p
      pack [(x.tss.toNat, 7), (x.rccc.toNat, 6), (x.cbfc.toNat, 5), (x.llr.toNat, 4), (x.mode, 0)]
  | .uepStatus p => let x := s.port p
      pack [(x.drops, 32), (x.modeAct, 10), (x.modeRef.toNat, 9), (x.authFail.toNat, 8), (x.cbfcOff.toNat, 7),
        (x.llrOff.toNat, 6), (x.linkUp.toNat, 0)]
  | .uepTrcol p => (s.port p).trcol
  | .baddst => w64 s.mem.baddst.toNat
  | .domCfg => pack [(s.xl.domValid.toNat, 63), (s.xl.jobid.toNat, 11), (s.xl.devnum.toNat, 0)]
  | .errSlice k => SMap.get 0#64 s.mem.errcnt k
  | .errCore n => SMap.get 0#64 s.mem.errcnt (64 + n)
  | .msgStat ep u => let x := s.msgStat ep u; pack [(x.lost, 32), (x.errs, 8), (x.peak, 0)]
  | .pwrCtl => w64 (s.pow.summerReq.toNat + 2 * s.pow.inSummer.toNat)
  | .pwrBucket => pack [(s.pow.cap, 32), (s.pow.level / 100000, 0)]
  | .pwrDmg k => let g := s.dmg k; pack [(g.leak, 56), (g.limit, 32), (g.d, 0)]
  | .ldCtx ld i => let x := s.ldCtx ld i
      pack [(x.pdom, 48), (x.tcore, 40), (x.index, 30), (x.state, 24), (x.cause, 16)]
  | .mdbgCtl => w64 s.mdbgCtl
  | .mdbgBp i => SMap.get 0#64 s.dbg.mBp i
  | .mdbgPc => (s.ctx 1024).pc
  | .mdbgS n => (s.ctx 1024).reg (BitVec.ofNat 5 n)
  | .none => 0#64

/-- Bits that a byte mask selects. -/
def maskBits (mask : Nat) : W64 :=
  w64 ((List.range 8).foldl (fun n i => if bits mask i 1 = 1 then n + 255 * 2 ^ (8 * i) else n) 0)
/-- A write of masked bytes over what a register reads as. -/
def merged (old value : W64) (mask : Nat) : W64 := (old &&& ~~~(maskBits mask)) ||| (value &&& maskBits mask)

/-- R427: CLPWR.REQ is what a store leaves; each action of R226 is taken up or refused as the value is written.
`v` is the merged value, `ones` the ones written. -/
def State.mregPut (s : State) (r : MReg) (v ones : Nat) : State :=
  match r with
  | .queueDrain cl => s.updSch fun q => { q with stop := SMap.set false q.stop cl (bits v 0 1 == 1) }
  | .tqStat cl => s.updSch fun q => { q with badJoin := SMap.set 0 q.badJoin cl (bits v 16 16) }
  | .vstall cl =>
    let n := bits v 0 6
    if 10 ≤ n ∧ n ≤ 30 then s.updClu cl fun x => { x with vstall := n } else s
  | .ceSlot cl i => s.ceWrite cl i (w64 (bits v 0 48))
  | .clReq cl => s.updClu cl fun x => { x with req := bits v 0 1 == 1 }
  | .clState cl => if bits ones 3 1 = 1 then s.updClu cl fun x => { x with wakeIgn := false } else s
  | .clBase cl => s.updClu cl fun x => { x with retBase := bits v 16 28 }
  | .clSave cl => if bits ones 0 1 = 1 then s.clSave cl else s
  | .clGate cl => if bits ones 0 1 = 1 then s.clGate cl else s
  | .clRail cl =>
    if bits v 0 2 = (s.clu cl).rail then s
    else if bits v 0 2 = 1 then s.clRetention cl else if bits v 0 2 = 2 then s.clOff cl else s
  | .clWake cl => if bits ones 0 1 = 1 then s.clWake cl else s
  | .thDelay cl => s.updClu cl fun x => { x with thDelay := bits v 0 8 }
  | .atticLevel cl => s.updClu cl fun x => { x with lost := bits v 32 32 }
  | .atticCtl cl => s.updClu cl fun x => { x with
      attBase := bits v 16 28
      attLog2 := if 16 ≤ bits v 5 5 ∧ bits v 5 5 ≤ 34 then bits v 5 5 else x.attLog2
      attDest := if bits v 0 2 = 3 then x.attDest else bits v 0 2 }
  | .uepCtl p =>
    let s := s.updPort p fun x => { x with
      tss := bits v 7 1 == 1, rccc := bits v 6 1 == 1, cbfc := bits v 5 1 == 1, llr := bits v 4 1 == 1 }
    if bits v 0 2 = (s.port p).mode ∨ bits v 0 2 = 3 then s
    else if bits v 0 2 = 0 then s.setPortData p else s.setPortMode p (bits v 0 2)
  | .uepStatus p => s.updPort p fun x => { x with
      modeRef := x.modeRef && bits ones 9 1 == 0, authFail := x.authFail && bits ones 8 1 == 0 }
  | .uepTrcol p => s.updPort p fun x => { x with trcol := pack [(bits v 63 1, 63), (bits v 0 56, 0)] }
  | .baddst => s.updMem fun m => { m with baddst := BitVec.ofNat 32 v }
  | .errSlice k => s.updMem fun m => { m with errcnt := SMap.set 0#64 m.errcnt k (w64 v) }
  | .errCore n => s.updMem fun m => { m with errcnt := SMap.set 0#64 m.errcnt (64 + n) (w64 v) }
  | .msgStat ep u => s.updMsgStat ep u fun _ => ⟨bits v 32 32, bits v 8 24, bits v 0 7⟩
  | .pwrCtl => (s.updPow fun p => { p with summerReq := bits v 0 1 == 1 }).setSummer
  | .pwrBucket => s.updPow fun p => { p with cap := bits v 32 32 }
  | .pwrDmg k => (s.updPow fun p => { p with
      dmg := SMap.set {} p.dmg k { SMap.get {} p.dmg k with leak := bits v 56 8, limit := bits v 32 24 } }).setSummer
  | .ldCtx ld i => if bits ones 0 1 = 1 then s.setLdCtx ld i { s.ldCtx ld i with kill := true } else s
  | .mdbgCtl =>
    match (if bits ones 0 1 = 1 then execMdbgHalt s else if bits ones 1 1 = 1 then execMdbgRun s
      else if bits ones 2 1 = 1 then execMdbgStep s else .next s) with
    | .next t => t
    | _ => s
  | .mdbgBp i => s.updDbg fun d => { d with mBp := SMap.set 0#64 d.mBp i (w64 v &&& ~~~2#64) }
  | .mdbgPc => if s.dbg.mHalted then s.updCtx 1024 fun x => { x with pc := w64 v } else s
  | .mdbgS n => if s.dbg.mHalted then s.setReg 1024 (BitVec.ofNat 5 n) (w64 v) false else s
  | .clAck _ | .enAcc _ | .atticWptr _ | .domCfg | .none => s

/-- A register of the management block, which no hold of R13 or R17 resets. -/
def MReg.ofMgmt : MReg → Bool
  | .pwrCtl | .pwrBucket | .pwrDmg _ | .mdbgCtl | .mdbgBp _ | .mdbgPc | .mdbgS _ | .none => true
  | .msgStat ep _ => ep == 54
  | _ => false
/-- R13, R17: the register at an offset belongs to a domain that is held in reset; an access to it waits (log entry 66). -/
def State.regHeld (s : State) (off : Nat) : Bool := s.held && !(mregAt (off / 8 * 8)).ofMgmt
/-- R8: a write of the masked bytes of the register at an offset; RO registers and fields ignore it. -/
def State.regWrite (s : State) (off : Nat) (value : W64) (mask : Nat) : State :=
  let r := mregAt (off / 8 * 8)
  if s.regHeld off then s else s.mregPut r (merged (s.mregRead r) value mask).toNat (value &&& maskBits mask).toNat

/-- An 8-byte read. -/
def State.regRead (s : State) (off : Nat) : W64 := s.mregRead (mregAt (off / 8 * 8))

/-- R228: the 32-bit view. A read of EN.ACC's low half latches its high half for the read at 0x14C. -/
def State.regRead32 (s : State) (off : Nat) : State × Nat :=
  let v := (s.regRead off).toNat
  match mregAt (off / 8 * 8) with
  | .enAcc cl =>
    if off % 8 = 0 then (s.updClu cl fun x => { x with enLatch := BitVec.ofNat 32 (v / 2 ^ 32) }, v % 2 ^ 32)
    else (s, (s.clu cl).enLatch.toNat)
  | _ => (s, if off % 8 = 0 then v % 2 ^ 32 else v / 2 ^ 32)

def execRegisterWrite (off : Nat) (value : W64) (mask : Nat) (s : State) : Result := .next (s.regWrite off value mask)
def execQueueDrainStopWrite (cl : Nat) (v : Bool) (s : State) : Result :=
  .next (s.whenUp (s.updSch fun q => { q with stop := SMap.set false q.stop cl v }))
def execCeSlotWrite (cl e p : Nat) (value : W64) (s : State) : Result :=
  .next (s.whenUp (s.mregPut (.ceSlot cl (2 * e + p)) value.toNat 0))
def execLdCtxKill (ld i : Nat) (s : State) : Result :=
  .next (s.whenUp (s.setLdCtx ld i { s.ldCtx ld i with kill := true }))
def execEnAccLowRead (cl : Nat) (s : State) : Result := .next (s.regRead32 (0x3200148 + 0x10000 * cl)).1

end Sys2Proof.Machine
end

