-- ==== Sys2Proof/Machine/Debug.lean ====
section
/-! DEFINITION. Context blocks, breakpoints, watchpoints, group stops, the debug window and sampling (R102, R229 to
R239). -/

namespace Sys2Proof.Machine

/-! ### Context blocks (R102; the order of fields is the model's, log entry 21) -/

def Ctx.trapWord (x : Ctx) : Nat × W64 :=
  match x.pendTrap with
  | some (c, d) => (2 ^ 63 + c, d)
  | none => (0, 0#64)

/-- Region stack as four words of four ids. -/
def stackWords (m : SMap (BitVec 16)) : List W64 :=
  (List.range 4).map fun i => pack ((List.range 4).map fun j => ((SMap.get 0#16 m (4 * i + j)).toNat, 16 * j))

/-- The 0x200 bytes of a saved context: state 1, pc, s1 to s31, taint, counts, pending trap, region stack, depth, CSR
image with the record's words. -/
def Ctx.block (x : Ctx) (fab : Nat) : List W64 :=
  [1#64, x.pc] ++ (List.range 31).map (fun i => x.reg (BitVec.ofNat 5 (i + 1))) ++
  [w64 x.taint.toNat, w64 x.cnts, w64 x.trapWord.1] ++ stackWords x.stack ++ [w64 (x.lost * 2 ^ 8 + x.depth), x.trapWord.2] ++
  [w64 (x.froze.getD fab - x.csr.cycleBase), x.csr.tvec, x.csr.tpc, w64 x.csr.tcause.toNat, x.csr.tdetail,
   w64 x.csr.tstatus, x.csr.trec, w64 x.csr.vstat.toNat, w64 x.csr.barstat, w64 x.csr.rsts,
   x.task.code, x.task.frame, x.task.recw3,
   pack [(x.task.pdom, 48), (x.task.lid, 32), (x.task.triggered.toNat, 2), (x.task.notrig.toNat, 1), (x.task.fab.toNat, 0)],
   pack [(match x.task.gang with | some g => g + 1 | none => 0, 32), (x.task.size, 16), (x.task.rank, 0)],
   pack [(x.cfgSince.toNat, 0), (x.cfgFailed.toNat, 1), (x.ranSince.toNat, 2)]] ++
  List.replicate 6 0#64

/-- The context that a block describes, with no operation outstanding. -/
def ctxOfBlock (ws : List W64) (fab : Nat) : Ctx :=
  let w (i : Nat) : W64 := nth 0#64 ws i
  let n (i : Nat) : Nat := (w i).toNat
  { run := .running
    pc := w 1
    regs := (List.range 31).foldl (fun m i => SMap.set 0#64 m (i + 1) (w (i + 2))) []
    taint := BitVec.ofNat 32 (n 33)
    pendTrap := if bits (n 35) 63 1 = 1 then some (n 35 % 256, w 41) else none
    stack := (List.range 16).foldl (fun m i =>
      SMap.set 0#16 m i (BitVec.ofNat 16 (bits (n (36 + i / 4)) (16 * (i % 4)) 16))) []
    depth := n 40 % 2 ^ 8
    lost := n 40 / 2 ^ 8
    csr := { cycleBase := fab - n 42, tvec := w 43, tpc := w 44, tcause := BitVec.ofNat 8 (n 45), tdetail := w 46,
             inTrap := bits (n 47) 0 1 == 1, deferred := bits (n 47) 1 1 == 1, trec := w 48,
             vstat := BitVec.ofNat 16 (n 49), barEpoch := BitVec.ofNat 16 (n 50 / 2 ^ 32),
             barPending := bits (n 50) 1 1 == 1, barBroken := bits (n 50) 0 1 == 1,
             tidwRef := bits (n 51) 0 1 == 1, cfgFail := bits (n 51) 1 1 == 1, discard := bits (n 51) 2 1 == 1 }
    task := { code := w 52, frame := w 53, recw3 := w 54, pdom := bits (n 55) 48 16, lid := bits (n 55) 32 16,
              triggered := bits (n 55) 2 1 == 1, notrig := bits (n 55) 1 1 == 1, fab := bits (n 55) 0 1 == 1,
              gang := if bits (n 56) 32 32 = 0 then none else some (bits (n 56) 32 32 - 1),
              size := bits (n 56) 16 16, rank := bits (n 56) 0 16 }
    cfgSince := bits (n 57) 0 1 == 1, cfgFailed := bits (n 57) 1 1 == 1, ranSince := bits (n 57) 2 1 == 1 }

/-! ### Memory of a domain reached by a unit, in one piece -/

/-- Bytes of one aligned access of at most 64 bytes at a virtual address of a domain, written at once. -/
def State.storeVa (s : State) (g pdom path : Nat) (a : Agent) (va : W64) (l : List Byte) : State × Option Nat :=
  match s.xlateNow g pdom va 1 with
  | (s, .error f) => (s, some f)
  | (s, .ok (pa, some d)) =>
    (s.issue { by_ := a, path := path, kind := .write, va := va.toNat, dev := some d, wr := bytesAt (remoteKey d pa) l }, none)
  | (s, .ok (pa, none)) => match s.physKey pa with
    | some k => (s.write path a false (bytesAt k l), none)
    | none => (s, some 5)
def State.loadVa (s : State) (g pdom path : Nat) (va : W64) (n : Nat) : State × Except Nat (List Byte) :=
  match s.xlateNow g pdom va 0 with
  | (s, .error f) => (s, .error f)
  | (s, .ok (_, some _)) => (s, .error 9)
  | (s, .ok (pa, none)) => match s.physKey pa with
    | some k => (s, .ok (s.readBytes path (Config.readAge s.clk.tick) (keyRange k n)))
    | none => (s, .error 5)

/-- A context block at an address, 64 bytes at a time. -/
def State.storeBlock (s : State) (c pdom : Nat) (va : Nat) (ws : List W64) : State :=
  (List.range 8).foldl (fun s i =>
    (s.storeVa (256 + clusterOf (coreOf c)) pdom 0 (.seq c) (w64 (va + 64 * i))
      (((ws.drop (8 * i)).take 8).flatMap fun w => leBytes w.toNat 8)).1) s
/-- The state word of a block, cleared. -/
def State.blankBlock (s : State) (pdom va : Nat) : State :=
  (s.storeVa 271 pdom 0 .mgmtBlock (w64 va) (leBytes 0 8)).1
def State.loadBlock (s : State) (c pdom : Nat) (va : Nat) : List W64 :=
  (List.range 64).map fun i =>
    match (s.loadVa (256 + clusterOf (coreOf c)) pdom 0 (w64 (va + 8 * i)) 8).2 with
    | .ok l => wordOf l
    | .error _ => 0#64

/-! ### Stops (R233 to R235) -/

/-- R239: firing units in the order of a snapshot. -/
def allUnits : List (Nat × Nat) :=
  (List.range 8).map (fun i => (i, 0)) ++
  (List.range 8).flatMap (fun i => (List.range 4).map fun k => (8 + i, k)) ++
  (List.range 2).map (fun i => (0x10 + i, 0)) ++ (List.range 16).map (fun i => (0x20 + i, 0)) ++
  (List.range 4).map (fun i => (0x30 + i, 0)) ++ (List.range 4).map (fun i => (0x38 + i, 0)) ++
  (List.range 16).map (fun i => (0x40 + i, 0)) ++ (List.range 2).map (fun i => (0x50 + i, 0))

/-- The slots of an element that hold an operation. -/
def Fabric.usedSlots (f : Fabric) (e : Nat) : List Nat := (List.range (slotsOf e)).filter fun k => (f.node e k).opc != 0
/-- Whether a unit holds an operation. -/
def Fabric.used (f : Fabric) (e u : Nat) : Bool :=
  if isMt e then (f.node e u).opc != 0 else !(f.usedSlots e).isEmpty
/-- R236: the counter records of an interval's end. -/
def State.counterRecords (s : State) (core : Nat) : State :=
  let f := (s.fab core).counted s.clk.fab
  let w := (s.dbgOf f.pdom).word 0x18
  if (s.dbgOf f.pdom).captureOn && bits w 7 1 == 1 && (bits w 10 1 == 1 || bits w 48 16 == f.lid) then
    (allUnits.filter fun x => f.used x.1 x.2).foldl (fun s x =>
      let u := f.unit x.1 x.2
      s.record (clusterOf core) (recPad 16
        (recHead 3 1 (clusterOf core) core x.1 s.clk.time f.pdom f.lid ++
          pack [(x.2, 0), (f.interrupted.toNat, 4), (f.interval % 2 ^ 32, 32)] ::
          (List.range 12).map fun i => w64 (SMap.get 0 u.counters i)))) s
  else s
/-- An INJ of a task that has ended waits for a commit that a frozen region does not complete. -/
def Fabric.stuck (f : Fabric) : Bool :=
  f.st == .frozen && f.newCkpt.isSome && (f.orphans.head?.any fun x => x.1.form == .inj && x.1.y == 4#64)
/-- The TL operation of a core that comes next: the operation, its task, its context, whether the task has ended
(R299, R302). A CFG of the next task drops a frozen region with what waits for it (R118). -/
def State.tlHead (s : State) (core : Nat) : Option (Op × Task × Nat × Bool) :=
  let f := s.fab core
  if f.held || f.ending then none else
  let own := (List.range 4).findSome? fun k =>
    let c := 4 * core + k
    ((s.ctx c).ops.find? fun o => o.inTl && o.form != .bar).map fun o => (o, (s.ctx c).task, c, false)
  match f.orphans with
  | (o, t, c) :: _ => if f.stuck && own.any (fun h => h.1.form == .cfg) then own else some (o, t, c, true)
  | [] => own
/-- Whether a CFG may start: the task's stores acknowledged, the previous region done or frozen, its context not halted. -/
def State.cfgReady (s : State) (core : Nat) (h : Op × Task × Nat × Bool) : Bool :=
  (s.fab core).st != .running && (h.2.2.2 || let x := s.ctx h.2.2.1
    x.run != .stopped && x.run != .preempted && x.ops.all fun o => !o.inSt || h.1.id ≤ o.id)
/-- A fabric with no region: unconfigured, its counters' interval kept. -/
def Fabric.emptied (f : Fabric) (holder : Option Nat) (orphans : List (Op × Task × Nat)) : Fabric :=
  { holder := holder, orphans := orphans, interval := f.interval }
/-- R100: a CFG that a context executes as it is halted is abandoned; the fabric is unconfigured until it executes
again. -/
def State.abandonCfg (s : State) (c : Nat) : State :=
  let core := coreOf c
  match s.tlHead core with
  | none => s
  | some h =>
    if h.2.2 = (c, false) ∧ h.1.form = .cfg ∧ s.cfgReady core h = true then
      let s := s.counterRecords core
      s.updFab core fun f => f.emptied f.holder f.orphans
    else s
/-- R234: the cycle counter stops with a halt, and goes on after it. -/
def Ctx.halt (x : Ctx) (r : RunSt) (fab : Nat) : Ctx := { x with run := r, froze := some (x.froze.getD fab) }
def Ctx.thaw (x : Ctx) (r : RunSt) (fab : Nat) : Ctx :=
  if r = .running then { x with
    run := r
    froze := none
    csr := { x.csr with cycleBase := x.csr.cycleBase + (fab - x.froze.getD fab) } }
  else { x with run := r }

/-- Words of a stopped context's block that an operation has changed since `old` are written too. -/
def State.reblock (s old : State) (c : Nat) : State :=
  let x := s.ctx c
  let d := s.dbgOf x.task.pdom
  let a := (old.ctx c).block s.clk.fab
  let b := x.block s.clk.fab
  (List.range 64).foldl (fun s i =>
    if nth 0#64 a i = nth 0#64 b i then s
    else (s.storeVa (256 + clusterOf (coreOf c)) x.task.pdom 0 (.seq c) (w64 (d.word 0x10 + 0x200 * c + 8 * i))
      (leBytes (nth 0#64 b i).toNat 8)).1) s
/-- R234: the block of a stopped context, once its loads have completed; until then its state reads 0. -/
def State.stopBlock (s : State) (c : Nat) : State :=
  let x := s.ctx c
  let d := s.dbgOf x.task.pdom
  if x.run = .stopped ∧ x.nLd = 0 ∧ d.word 0x10 ≠ 0 ∧ d.saFlt = false then
    s.storeBlock c x.task.pdom (d.word 0x10 + 0x200 * c) (x.block s.clk.fab)
  else s

/-- R101, R234: an operation of a context has completed: the block of one that is stopped follows. -/
def State.blockFollows (s old : State) (c : Nat) : State :=
  let x := s.ctx c
  let d := s.dbgOf x.task.pdom
  if (old.ctx c).nLd ≠ 0 then s.stopBlock c
  else if x.run = .stopped ∧ d.word 0x10 ≠ 0 ∧ d.saFlt = false then s.reblock old c
  else s

/-- Whether a group of a domain names a task. -/
def StopG.has (g : StopG) (t : Task) : Bool :=
  (match g.lid with | some l => t.lid == l | none => true) && (match g.frame with | some f => t.frame.toNat == f | none => true)
def Dbg.stopHas (d : Dbg) (t : Task) : Bool := d.groups.any fun g => g.has t

/-- R234: whether the stop area, in pages of 64 KiB, cannot be written (log entry 21). -/
def State.areaFault (s : State) (pdom sa : Nat) : State × Bool :=
  if sa = 0 then (s, true)
  else (List.range 8).foldl (fun r i => match r.1.xlateNow 271 pdom (w64 (sa + 65536 * i)) 1 with
    | (s, .ok (_, none)) => (s, r.2)
    | (s, _) => (s, true)) (s, false)
/-- R235: a hit in the cycle of the stop: DBG.STAT names the one of the lowest core, then of the lowest context. -/
def State.alsoHit (s : State) (pdom cause index by_ : Nat) : State :=
  let d := s.dbgOf pdom
  if d.stopCause ≠ 0 ∧ d.stopAt = s.clk.fab ∧ by_ < d.stopBy then
    s.setDbg pdom { d with stopCause := cause, stopIndex := index, stopBy := by_ }
  else s
/-- R234: a group stops: its contexts at once, its fabrics at their next edge. -/
def State.stopGroup (s : State) (pdom : Nat) (g : StopG) (cause index by_ : Nat) : State :=
  let d := s.dbgOf pdom
  if d.stopped && d.groups.contains g then s else
  let sa := d.word 0x10
  let (s, flt) := s.areaFault pdom sa
  /- R235: of two hits in one cycle the one of the lowest core, then of the lowest context, is named. -/
  let named := d.stopped && d.stopCause != 0 && cause != 0 && d.stopAt == s.clk.fab && d.stopBy ≤ by_
  let s := s.setDbg pdom { (if named then d else { d with stopCause := cause, stopIndex := index, stopAt := s.clk.fab, stopBy := by_ }) with
    stopped := true
    saFlt := flt
    groups := (if d.stopped then d.groups else []) ++ [g] }
  let hit (t : Task) : Bool := t.pdom == pdom && g.has t
  let cs := (s.ctxs.filter fun e => e.1 < 1024 && e.2.run == .running && hit e.2.task).map Prod.fst
  let s := cs.foldl State.abandonCfg s
  let s := cs.foldl (fun s c => s.updCtx c fun x => x.halt .stopped s.clk.fab) s
  let mark (e : Nat × Fabric) : Nat × Fabric :=
    if e.2.st == .running && e.2.pdom == pdom &&
        g.has { pdom := e.2.pdom, lid := e.2.lid, frame := e.2.frameW } then
      (e.1, { e.2 with stopAt := true }) else e
  let s := { s with fabs := s.fabs.map mark }
  let blank (s : State) (c : Nat) : State :=
    let x := s.ctx c
    if x.run = .stopped ∧ x.task.pdom = pdom ∧ cs.contains c = false then s else s.blankBlock pdom (sa + 0x200 * c)
  let s := if flt then s else (List.range 1024).foldl blank s
  cs.foldl State.stopBlock s

/-- R234: stopped groups of a domain run, all but those kept; a block whose state reads 1 is read back, and the pc is
checked under R256. -/
def State.runGroups (s : State) (pdom : Nat) (keep : List StopG) : State :=
  let d := s.dbgOf pdom
  let still := !keep.isEmpty
  let s := s.setDbg pdom { d with stopped := still, groups := keep, saFlt := still && d.saFlt }
  let kept (t : Task) : Bool := keep.any fun g => g.has t
  let cs := (s.ctxs.filter fun e =>
    e.1 < 1024 && e.2.run == .stopped && e.2.task.pdom == pdom && !kept e.2.task).map Prod.fst
  let free (e : Nat × Fabric) : Nat × Fabric :=
    if e.2.pdom == pdom && !kept { pdom := e.2.pdom, lid := e.2.lid, frame := e.2.frameW } then
      (e.1, { (if e.2.halted then e.2.countFrom s.clk.fab else e.2) with stopAt := false, halted := false }) else e
  let s := { s with fabs := s.fabs.map free }
  cs.foldl (fun s c =>
    let x := s.ctx c
    let ws := if d.word 0x10 = 0 ∨ d.saFlt = true then [] else s.loadBlock c pdom (d.word 0x10 + 0x200 * c)
    let y := if nth 0#64 ws 0 ≠ 1#64 then x.thaw .running s.clk.fab else
      let b := ctxOfBlock ws s.clk.fab
      { x with pc := b.pc, regs := b.regs, taint := b.taint, csr := { b.csr with mevt := x.csr.mevt },
               stack := b.stack, depth := b.depth, lost := b.lost, froze := none }
    let s := s.setCtx c { y with run := .running, bpDone := if y.pc = x.pc then x.bpDone else 0 }
    let r := s.resolveNow c y.pc 2
    match r.1.targetTrap y.pc r.2 with
    | some (cause, detail) => r.1.trap c cause detail
    | none => r.1) s

/-- The group that a debug register names. -/
def Dbg.regGroup (d : Dbg) (off : Nat) : StopG :=
  let w := d.word off
  { lid := if bits w 10 1 = 1 then none else some (bits w 48 16)
    frame := if off ≠ 0 ∧ bits w 9 1 = 1 then some (d.word (off + 0x10)) else none
    off := off }

/-- R239: a hit record. -/
def State.hitRecord (s : State) (c : Nat) (pc value : W64) (index wp action : Nat) : State :=
  let t := (s.ctx c).task
  s.note 4 (coreOf c) (0x60 + c % 4) t.pdom t.lid [pc, value, pack [(action, 5), (wp, 4), (index, 0)]]

/-- Index of a breakpoint or watchpoint register, and whether it is a watchpoint's. -/
def regIndex (off : Nat) : Nat := off % 0x100 / 0x20
def regWp (off : Nat) : Nat := if off < 0x200 then 0 else 1
def Dbg.action (d : Dbg) (off : Nat) : Nat := bits (d.word off) 7 2
/-- R235: a context's place in the order of hits. -/
def hitKey (c : Nat) : Nat := 8 * coreOf c + c % 4

/-- R233, R235: the hits of one instruction, by register and value matched: a record of each; then, in a group that is not
stopped, the trap of the first with ACTION 1 and the stop of the first with ACTION 2 (log entry 94). -/
def State.hits (s : State) (c done : Nat) (l : List (Nat × W64)) : State :=
  let x := s.ctx c
  let t := x.task
  let d := s.dbgOf t.pdom
  let s := l.foldl (fun s h => s.hitRecord c x.pc h.2 (regIndex h.1) (regWp h.1) (d.action h.1)) s
  let s := s.updCtx c fun x => { x with bpDone := done }
  let stop := l.find? fun h => d.action h.1 == 2
  if d.stopped && d.stopHas t then
    match stop with
    | some h => s.alsoHit t.pdom (1 + regWp h.1) (regIndex h.1) (hitKey c)
    | none => s
  else
    let s := match l.find? fun h => d.action h.1 == 1 with
      | some h => s.trap c (7 + regWp h.1) (if h.1 < 0x200 then w64 (regIndex h.1) else h.2)
      | none => s
    match stop with
    | some h => s.stopGroup t.pdom (d.regGroup h.1) (1 + regWp h.1) (regIndex h.1) (hitKey c)
    | none => s

/-- Hits of breakpoints; `done` as `Ctx.bpDone` counts. -/
def State.breakHits (s : State) (c done value : Nat) (l : List Nat) : State :=
  s.hits c done (l.map fun i => (0x100 + 0x20 * i, w64 value))
/-- WP.CTL: ALLLID 10, FRAMEV 9, ACTION [8:7]. -/
def State.watchHits (s : State) (c : Nat) (a : W64) (l : List Nat) : State :=
  s.hits c 2 (l.map fun j => (0x200 + 0x20 * j, a))

/-- R231, R233: whether watchpoint `j` sees an access; `pathBit` is 3 for path S, 4 for path F. -/
def State.watchSees (s : State) (t : Task) (a : W64) (size : Nat) (write : Bool) (pathBit j : Nat) : Bool :=
  let d := s.dbgOf t.pdom
  let w := d.word (0x200 + 0x20 * j)
  let n := 2 ^ bits w 11 5
  let base := d.word (0x208 + 0x20 * j) / n * n
  bits w 0 1 == 1 && 3 ≤ bits w 11 5 && bits w 11 5 ≤ 30 && bits w pathBit 1 == 1 &&
    (if write then bits w 1 1 == 1 else bits w 2 1 == 1) &&
    groupHas (bits w 48 16) (bits w 10 1 == 1) (bits w 9 1 == 1) (d.word (0x210 + 0x20 * j)) t &&
    a.toNat < base + n && base < a.toNat + size
def State.watchesFor (s : State) (t : Task) (a : W64) (size : Nat) (write : Bool) (pathBit : Nat) : List Nat :=
  (List.range 4).filter (s.watchSees t a size write pathBit)

/-- An access that passed translation meets the watchpoints of its task before any effect. -/
def State.watched (s : State) (c : Nat) (a : W64) (size : Nat) (write : Bool) (k : State → State) : State :=
  let x := s.ctx c
  if isMgmt c || x.bpDone == 2 then k s
  else match s.watchesFor x.task a size write 3 with
    | [] => k s
    | l =>
      let t := s.watchHits c a l
      if l.any fun j => (s.dbgOf x.task.pdom).action (0x200 + 0x20 * j) % 3 != 0 then t else k t

/-! ### Captures (R236, R237) -/

def State.captureEnd (s : State) (pdom : Nat) : State :=
  let d := s.dbgOf pdom
  if d.captureOn then
    let s := (List.range 8).foldl (fun s cl => s.record cl
      (recPad 8 (recHead 0x3F 0 cl 0 0 s.clk.time pdom 0 ++
        [pack [(SMap.get 0 d.samples cl, 32), (d.captureInt.toNat, 0)]]))) s
    s.setDbg pdom { d with captureOn := false }
  else s
def State.captureBegin (s : State) (pdom : Nat) : State :=
  let d := s.dbgOf pdom
  if d.captureOn then s
  else s.setDbg pdom { d with captureOn := true, captureInt := false, samples := [], sampledAt := s.clk.fab }

/-! ### The debug window (R230, R231) -/

/-- The right a debug register needs: 0 sample, 1 trace, 2 break, 5 halt; none for DBG.STAT. -/
def dbgRight (off : Nat) : Option Nat :=
  if off = 8 then none
  else if off = 0x18 then some 0
  else if off = 0x20 then some 1
  else if off < 0x18 then some 5
  else some 2
/-- Whether an offset is a debug register. -/
def dbgListed (off : Nat) : Bool :=
  off ≤ 0x20 || (0x100 ≤ off && off < 0x200 && off % 0x20 ≤ 0x10) || (0x200 ≤ off && off < 0x280 && off % 0x20 ≤ 0x10)
/-- Bits that software can set: 0 for a register that is read-only. DBG.SAREA is a multiple of 512 KiB: the model drops the
low bits of another value (log entry 95). -/
def dbgMask (off : Nat) : Nat :=
  if off = 0 then 0xFFFF000000000400
  else if off = 8 then 0
  else if off = 0x10 then 0xFFFFFFFFFFF80000
  else if off = 0x18 then 0xFFFF0000000004FF
  else if off = 0x20 then 0xFFFF00000000047F
  else if off % 0x20 = 0 then (if off < 0x200 then 0xFFFF0000000007F1 else 0xFFFF00000000FF9F)
  else 0xFFFFFFFFFFFFFFFF

/-- R231: what a debug register reads as. -/
def State.dbgRead (s : State) (pdom off : Nat) : W64 :=
  let d := s.dbgOf pdom
  if !dbgListed off then 0#64
  else if off = 8 then pack [(d.stopIndex, 12), (d.stopCause, 10), (d.saFlt.toNat, 9), (d.stopped.toNat, 0)]
  else if 0x200 ≤ off ∧ off % 0x20 = 0 then
    let w := d.word off
    if 3 ≤ bits w 11 5 ∧ bits w 11 5 ≤ 30 then w64 w else w64 (w / 2 * 2)
  else w64 (d.word off)

/-- R230, R231: a write, remembered with the capability entry whose handle made it. -/
def State.dbgWrite (s : State) (pdom off : Nat) (value : W64) (entry : Option Nat) : State :=
  if !dbgListed off ∨ off = 8 then s else
  let d := s.dbgOf pdom
  let old := d.word off
  let v := Nat.land value.toNat (dbgMask off)
  let v :=
    if off = 0x18 ∧ ¬(10 ≤ bits v 1 5 ∧ bits v 1 5 ≤ 24) then v - 2 * bits v 1 5 + 2 * bits old 1 5
    else if 0x100 ≤ off ∧ off % 0x20 = 0 ∧ bits v 7 2 = 3 then v - 2 ^ 7 * 3 + 2 ^ 7 * bits old 7 2
    else v
  let s := s.setDbg pdom { d.setWord off (w64 v) with by_ := SMap.set none d.by_ (off / 8) entry }
  if off = 0 then
    let s := if bits value.toNat 0 1 = 1 then
        s.stopGroup pdom ((s.dbgOf pdom).regGroup 0) 0 0 0 else s
    if bits value.toNat 1 1 = 1 then s.runGroups pdom [] else s
  else if off = 0x18 then if bits v 0 1 = 1 then s.captureBegin pdom else s.captureEnd pdom
  else s

/-- R230: what happens to the registers that a revoked entry wrote. -/
def State.dbgRevoke (s : State) (pdom entry : Nat) : State :=
  let d := s.dbgOf pdom
  let offs := (d.by_.filter fun e => e.2 == some entry).map fun e => e.1 * 8
  offs.foldl (fun s off =>
    let d := s.dbgOf pdom
    let s := s.setDbg pdom { d.setWord off (if off = 0x18 ∨ (0x100 ≤ off ∧ off % 0x20 = 0) then w64 (d.word off / 2 * 2)
      else w64 (d.word off)) with by_ := SMap.set none d.by_ (off / 8) none }
    if off = 0x18 then s.captureEnd pdom
    else if d.stopped && d.groups.any (fun g => g.off == off) then s.runGroups pdom (d.groups.filter fun g => g.off != off)
    else s) s

/-! ### Capability tables (R81, R229) -/

def State.capE (s : State) (tdom i : Nat) : CapE := SMap.get {} s.dbg.caps (4096 * tdom + i)
def State.setCapE (s : State) (tdom i : Nat) (e : CapE) : State :=
  s.updDbg fun d => { d with caps := SMap.set {} d.caps (4096 * tdom + i) e }
/-- R81: a handle names a live entry and carries its CHECK. -/
def State.capValid (s : State) (h : W64) : Bool :=
  let e := s.capE (bits h.toNat 48 16) (bits h.toNat 36 12)
  e.live && e.check.toNat == bits h.toNat 0 36
def capHandle (tdom i : Nat) (check : BitVec 36) : W64 := pack [(tdom, 48), (i, 36), (check.toNat, 0)]
/-- Entries from an entry up to its root. -/
def State.capDepth (s : State) (tdom : Nat) : Nat → Nat → Nat
  | 0, _ => 0
  | fuel + 1, i => match (s.capE tdom i).parent with
    | none => 1
    | some p => 1 + s.capDepth tdom fuel p
/-- Whether entry `i` is, or descends from, entry `r`. -/
def State.capUnder (s : State) (tdom r : Nat) : Nat → Nat → Bool
  | 0, _ => false
  | fuel + 1, i => i == r || match (s.capE tdom i).parent with
    | none => false
    | some p => s.capUnder tdom r fuel p

/-- R229, R322: a new entry under the one a handle names; its handle, or 0. -/
def State.capDerive (s : State) (h : W64) (mask holder : Nat) : State × W64 :=
  let tdom := bits h.toNat 48 16
  let i := bits h.toNat 36 12
  match (List.range 4096).find? fun k => !(s.capE tdom k).live with
  | none => (s, 0#64)
  | some k =>
    if !s.capValid h ∨ 16 ≤ s.capDepth tdom 17 i then (s, 0#64)
    else
      let ck := Config.drawCheck s.clk.tick
      (s.setCapE tdom k ⟨true, ck, holder, (s.capE tdom i).rights &&& BitVec.ofNat 6 mask, some i⟩, capHandle tdom k ck)

/-- R229, R230: an entry and its descendants revoked in one step, each with a new CHECK. -/
def State.capRevoke (s : State) (tdom i : Nat) : State :=
  let gone := (List.range 4096).filter fun k => (s.capE tdom k).live && s.capUnder tdom i 17 k
  let s := gone.foldl (fun s k => s.setCapE tdom k
    { s.capE tdom k with live := false, check := Config.drawCheck (s.clk.tick * 4096 + k) }) s
  gone.foldl (fun s k => s.dbgRevoke tdom k) s

/-! ### Snapshots -/

/-- Sixteen 4-bit classes a word. -/
def Fabric.snapWords (f : Fabric) : List W64 :=
  (List.range 6).map fun i => pack ((((allUnits.drop (16 * i)).take 16).zip (List.range 16)).map fun e =>
    ((f.unit e.1.1 e.1.2).cls, 4 * e.2))

/-! ### Events -/

/-- R233: the breakpoints at a running context's pc are hit together, when the one named is among them. -/
def execBreakpointHit (c i : Nat) (s : State) : Result :=
  let pc := (s.ctx c).pc.toNat
  let l := s.breakpointsFor c 0 pc
  .next (if (s.ctx c).run = .running ∧ l.contains i = true then s.breakHits c 1 pc l else s)
/-- R233: a running context's access hits a watchpoint that sees it (the event gives no size: a dword at the address). -/
def execWatchpointHit (c j addr : Nat) (s : State) : Result :=
  let x := s.ctx c
  let sees (write : Bool) : Bool := s.watchSees x.task (w64 addr) 8 write 3 j
  .next (if !isMgmt c && x.run == .running && j < 4 && (sees true || sees false) then s.watchHits c (w64 addr) [j] else s)
/-- R234: HALT stops the group that DBG.CTL names. -/
def execDbgHalt (pdom : Nat) (s : State) : Result :=
  .next (s.stopGroup pdom ((s.dbgOf pdom).regGroup 0) 0 0 0)
def execDbgRun (pdom : Nat) (s : State) : Result := .next (s.runGroups pdom [])
def execFabricStopAtEdge (core : Nat) (s : State) : Result :=
  let f := s.fab core
  .next (if f.stopAt && (f.atEdge || f.st == .done || f.st == .frozen) then
      s.setFab core { f.counted s.clk.fab with halted := true, stopAt := false }
    else s)
def execCaptureStart (pdom : Nat) (s : State) : Result :=
  let d := s.dbgOf pdom
  .next ((s.setDbg pdom (d.setWord 0x18 (w64 (d.word 0x18 / 2 * 2 + 1)))).captureBegin pdom)
def execCaptureStop (pdom : Nat) (s : State) : Result :=
  let d := s.dbgOf pdom
  .next ((s.setDbg pdom (d.setWord 0x18 (w64 (d.word 0x18 / 2 * 2)))).captureEnd pdom)

/-- R236, R239: one PC sample. -/
def State.sampleCtx (s : State) (c : Nat) : State :=
  let x := s.ctx c
  let cl := clusterOf (coreOf c)
  let ids := x.topIds
  let s := s.note 1 (coreOf c) (0x60 + c % 4) x.task.pdom x.task.lid
    [if x.stall = 8 then x.slowPc else x.pc, pack [(nth 0xFFFF ids 0, 48), (nth 0xFFFF ids 1, 32), (nth 0xFFFF ids 2, 16), (x.stall, 8), (x.depth, 0)]]
  let d := s.dbgOf x.task.pdom
  s.setDbg x.task.pdom { d with samples := SMap.set 0 d.samples cl (SMap.get 0 d.samples cl + 1) }

/-- R236: once a period has passed, a sample of each running context of the group, and with ELEM a snapshot of each
core that runs a region of it. -/
def execPcSample (pdom : Nat) (s : State) : Result :=
  let d := s.dbgOf pdom
  let w := d.word 0x18
  let mine (lid : Nat) : Bool := bits w 10 1 == 1 || bits w 48 16 == lid
  .next (if d.captureOn && d.sampledAt + 2 ^ bits w 1 5 ≤ s.clk.fab then
      let s := s.setDbg pdom { d with sampledAt := s.clk.fab }
      let cs := (s.ctxs.filter fun e =>
        e.1 < 1024 && e.2.run == .running && e.2.task.pdom == pdom && mine e.2.task.lid).map Prod.fst
      let s := cs.foldl State.sampleCtx s
      if bits w 6 1 = 1 then
        (s.fabs.filter fun e => e.2.st == .running && e.2.pdom == pdom && mine e.2.lid).foldl (fun s e =>
          s.note 2 e.1 0 pdom e.2.lid (e.2.counted s.clk.fab).snapWords) s
      else s
    else s)

end Sys2Proof.Machine
end

