-- ==== Sys2Proof/Machine/SeqMem.lean ====
section
/-! DEFINITION. Scalar memory instructions (R278, R288 to R292) and ordering instructions (R293 to R295). -/

namespace Sys2Proof.Machine

def dstOf (r : Reg) : Option Reg := if r = 0#5 then none else some r

/-- R288: alignment, then what the address reaches, then watchpoints, then the access. -/
def State.access (s : State) (c : Nat) (a : W64) (size acc : Nat) (mregs : Bool) (k : State → Place → State) : State :=
  if !aligned a size then s.trap c 4 a
  else match s.resolve c a acc with
    | .fault f => s.trap c (0x10 + f) a
    | .miss => (s.want (.seq c) (s.ctx c).task.pdom a acc).stallFor c 6
    | .mreg off =>
      if !mregs then s.trap c 0x17 a
      else if ¬(size = 8 ∨ size = 4) then s.trap c 4 a
      else if s.regHeld off then s.stallFor c 1 else k s (.mreg off)
    | p => s.watched c a size (acc == 1) fun s => k s p

/-- Starts an access of a context and goes on. -/
def State.startAccess (s : State) (c : Nat) (p : Place) (o : Op) (r : Req) : State :=
  (s.startOp c o { r with dev := p.dev }).advance c 4

/-- R427: a register access is performed at once and completes as an operation. -/
def State.doneOp (s : State) (c : Nat) (o : Op) : State := (s.addOp c { o with done := true }).advance c 4

def State.loadForm (s : State) (rd ra : Reg) (sz : BitVec 2) (off : BitVec 12) (consume : Bool) : State :=
  let c := s.cur
  let x := s.ctx c
  let n := sizeOf2 sz
  let a := x.reg ra + sx off
  let t := consume || x.taintOf ra
  let o : Op := { id := 0, form := .ld, inLd := true, dst := dstOf rd, taint := t, va := a.toNat }
  s.withRegs c [rd, ra]
    (if 64 ≤ x.nLd then s.stallFor c 1
     else s.access c a n 0 true fun s p => match p with
      | .mreg off =>
        if n = 8 then s.doneOp c { o with x := s.regRead off }
        else let r := s.regRead32 off; r.1.doneOp c { o with x := w64 r.2 }
      | p => s.startAccess c p o
          { by_ := .seq c, path := 0, kind := .read, va := a.toNat, rd := p.keys n, consume := consume,
            dep := x.taintOf ra })

def execLd (rd ra : Reg) (sz : BitVec 2) (off : BitVec 12) (s : State) : Result :=
  .next (s.loadForm rd ra sz off false)
/-- R280: LDC taints d. -/
def execLdc (rd ra : Reg) (sz : BitVec 2) (off : BitVec 12) (s : State) : Result :=
  .next (s.loadForm rd ra sz off true)

/-- R288: the low bytes of s[d]. -/
def execSt (rd ra : Reg) (sz : BitVec 2) (off : BitVec 12) (s : State) : Result :=
  let c := s.cur
  let x := s.ctx c
  let n := sizeOf2 sz
  let a := x.reg ra + sx off
  let o : Op := { id := 0, form := .st, inSt := true, va := a.toNat }
  .next (s.withRegs c [rd, ra]
    (if 64 ≤ x.nSt then s.stallFor c 1
     else s.access c a n 1 true fun s p => match p with
      | .mreg off =>
        let v := w64 ((x.reg rd).toNat * 2 ^ (8 * (off % 8)))
        (s.regWrite off v (if n = 8 then 255 else 15 * 2 ^ (off % 8))).doneOp c o
      | p => s.startAccess c p o
          { by_ := .seq c, path := 0, kind := .write, va := a.toNat,
            wr := (p.keys n).zip (scalarBytes (x.reg rd) n), dep := x.taintOf ra || x.taintOf rd }))

/-- R289, R290: a version above 48 bits is an operand value that traps. -/
def badVersion (v : W64) : Bool := v.toNat / 2 ^ 48 != 0

def execStv (rd ra rb : Reg) (sz : BitVec 2) (off : BitVec 7) (s : State) : Result :=
  let c := s.cur
  let x := s.ctx c
  let n := sizeOf2 sz
  let a := x.reg ra + sx off
  .next (s.withRegs c [rd, ra, rb]
    (if badVersion (x.reg rb) then s.trap c 1 2#64
     else if 64 ≤ x.nSt then s.stallFor c 1
     else s.access c a n 1 false fun s p =>
      s.startAccess c p { id := 0, form := .st, inSt := true, va := a.toNat }
        { by_ := .seq c, path := 0, kind := .vstore, va := a.toNat, ver := (x.reg rb).toNat,
          wr := (p.keys n).zip (scalarBytes (x.reg rd) n), dep := x.taintOf ra || x.taintOf rd }))

def execLdvt (rd ra rb : Reg) (sz : BitVec 2) (off : BitVec 7) (s : State) : Result :=
  let c := s.cur
  let x := s.ctx c
  let n := sizeOf2 sz
  let a := x.reg ra + sx off
  .next (s.withRegs c [rd, ra, rb]
    (if badVersion (x.reg rb) then s.trap c 1 2#64
     else if 64 ≤ x.nLd then s.stallFor c 1
     else s.access c a n 0 false fun s p =>
      s.startAccess c p
        { id := 0, form := .ldvt, inLd := true, dst := dstOf rd, taint := x.taintOf ra, va := a.toNat }
        { by_ := .seq c, path := 0, kind := .vload, va := a.toNat, ver := (x.reg rb).toNat, rd := p.keys n,
          dep := x.taintOf ra }))

/-- R291: the dword at the address. -/
def execRecl (ra rb : Reg) (off : BitVec 7) (s : State) : Result :=
  let c := s.cur
  let x := s.ctx c
  let a := x.reg ra + sx off
  .next (s.withRegs c [ra, rb]
    (if badVersion (x.reg rb) then s.trap c 1 2#64
     else if 64 ≤ x.nSt then s.stallFor c 1
     else s.access c a 8 1 false fun s p =>
      s.startAccess c p { id := 0, form := .st, inSt := true, va := a.toNat }
        { by_ := .seq c, path := 0, kind := .retire, va := a.toNat, ver := (x.reg rb).toNat, rd := p.keys 8,
          dep := x.taintOf ra }))

/-- R292: AMO and ACAS count in LD and in ST; for a word the operands are the low 32 bits. -/
def State.atomicForm (s : State) (rd ra rb : Reg) (sz : BitVec 1) (op : Nat) (cas : Bool) : State :=
  let c := s.cur
  let x := s.ctx c
  let n := sizeOf1 sz
  let a := x.reg ra
  s.withRegs c [rd, ra, rb]
    (if 64 ≤ x.nLd ∨ 64 ≤ x.nSt then s.stallFor c 1
     else s.access c a n 1 false fun s p =>
      s.startAccess c p
        { id := 0, form := .amo, inLd := true, inSt := true, dst := dstOf rd, taint := x.taintOf ra, va := a.toNat, n := n }
        { by_ := .seq c, path := 0, kind := .atomic, va := a.toNat,
          ats := [⟨nth 0 (p.keys n) 0, op, n == 8, false, if cas then some (x.reg rd) else none, x.reg rb⟩],
          dep := x.taintOf ra || x.taintOf rb || (cas && x.taintOf rd) })

def execAmo (rd ra rb : Reg) (sz : BitVec 1) (op : BitVec 4) (s : State) : Result :=
  .next (s.atomicForm rd ra rb sz op.toNat false)
def execAcas (rd ra rb : Reg) (sz : BitVec 1) (s : State) : Result :=
  .next (s.atomicForm rd ra rb sz 8 true)

/-! ### Fences and waits (R200, R217, R293 to R295) -/

/-- The scope of what an address of a context reaches. -/
def State.scopeAt (s : State) (c : Nat) (a : W64) : Nat :=
  match s.resolve c a 0 with
  | .mem k => scopeOf c k
  | .remote _ _ => 4
  | _ => 3
/-- The scope of an operation's access; a register access belongs to the device. CFG reads at two addresses. -/
def State.opScope (s : State) (c : Nat) (o : Op) : Nat :=
  match o.req with
  | none => if o.form = .cfg then Nat.min (s.scopeAt c o.x) (s.scopeAt c o.y) else 3
  | some i => match s.req i with
    | some r => scopeOf c (nth 0 r.keys 0)
    | none => 3

/-- R293: deferred faults are kept in issue order. -/
def insertOwed (x : Owed) : List Owed → List Owed
  | [] => [x]
  | y :: t => if x.id < y.id then x :: y :: t else y :: insertOwed x t
/-- An operation leaves its context. -/
def Ctx.dropOp (x : Ctx) (o : Op) : Ctx := { x with ops := x.ops.filter fun p => p.id != o.id }
/-- A deferred fault of an operation; the scope is that of its target. -/
def State.owe (s : State) (c : Nat) (o : Op) (cause : Nat) : State :=
  let sc := s.opScope c o
  s.updCtx c fun x => { x with owed := insertOwed ⟨o.id, cause, o.va, o.inLd, o.inSt, o.inCp, o.inTl, o.dst, sc⟩ x.owed }
/-- The read of an operand block is over. -/
def State.endRead (s : State) (c : Nat) (o : Op) : State :=
  (match o.req with | some i => s.setReq i none | none => s).updCtx c (Ctx.dropOp · o)
/-- An operand block of an operation is still to be read. -/
def State.reading (s : State) (o : Op) : Bool :=
  match o.req.bind s.req with
  | some r => !r.applied
  | none => false
/-- R294: accesses of a context on path S still under way within a scope: loads and stores, and the reads behind SPAWN,
ARM, TIDW and CFG. `stores` leaves reads out. -/
def State.fenceBusy (s : State) (c scope : Nat) (stores : Bool) : Bool :=
  (s.ctx c).ops.any fun o =>
    (match o.form with
      | .ld | .ldvt | .cfg => !stores
      | .spawn | .arm | .tidw => !stores && s.reading o
      | .st | .amo | .tidr => true
      | _ => false) && s.opScope c o ≤ scope
/-- R209: accesses of a context under way keep their order with what follows a fence, where its scope covers both. -/
def State.fenceOff (s : State) (c scope : Nat) : State :=
  s.updMem fun m => { m with reqs := m.reqs.map fun e => (e.1, e.2.map fun r =>
    if r.by_ = .seq c ∧ r.applied = false then { r with fences := (m.nextReq, scope) :: r.fences } else r) }

def execFence (scope : BitVec 3) (s : State) : Result :=
  let c := s.cur
  .next (s.withOwedIf c (fun o => o.scope ≤ scope.toNat)
    (if s.fenceBusy c scope.toNat false then s.stallFor c 1 else s.advance c 4))

/-- R217, R294: FENCEX X,Y makes path X's writes within the scope visible to path Y; FENCEX S,S waits as FENCE does. -/
def execFencex (px py scope : BitVec 3) (s : State) : Result :=
  let c := s.cur
  .next (s.withOwedIf c (fun o => px == 0#3 && py == 0#3 && o.scope ≤ scope.toNat)
    (if px = 0#3 ∧ s.fenceBusy c scope.toNat (py != 0#3) = true then s.stallFor c 1
     else ((s.release (· == py.toNat) fun e => e.writer == px.toNat && scopeOf c e.key ≤ scope.toNat).fenceOff c
      scope.toNat).advance c 4))

/-- R295: each class at most its limit. -/
def waitcHolds (x : Ctx) (l st cp tl : BitVec 3) : Bool :=
  x.nLd ≤ l.toNat && x.nSt ≤ st.toNat && x.nCp ≤ cp.toNat && x.nTl ≤ tl.toNat

def execWaitc (ldLim stLim cpLim tlLim : BitVec 3) (s : State) : Result :=
  let c := s.cur
  .next (s.withOwedIf c (fun o => (o.inLd && ldLim.toNat < 7) || (o.inSt && stLim.toNat < 7) || (o.inCp && cpLim.toNat < 7) ||
      (o.inTl && tlLim.toNat < 7))
    (if waitcHolds (s.ctx c) ldLim stLim cpLim tlLim then s.advance c 4 else s.stallFor c 1))

end Sys2Proof.Machine
end

