-- ==== Sys2Proof/Machine/MemSys.lean ====
section
/-! DEFINITION. Events of the owning memories, the network and the walkers (R45 to R60, R201 to R207, R215, R461). -/

namespace Sys2Proof.Machine

/-! ### Requests at their owning memory -/

/-- R13, R17, R226: a request waits while its memory is held in reset, and one to a pool while its cluster is not ACTIVE. -/
def State.reachable (s : State) (r : Req) : Bool :=
  !s.held && match r.keys with
  | [] => true
  | k :: _ => !isPool k || s.clActive (clusterOf (poolCore k))

/-- R143: full/empty bits of granules, by key / 16. -/
def State.isFull (s : State) (key : Nat) : Bool := SMap.get false s.mem.full (key / 16)
def State.setFull (s : State) (keys : List Nat) (v : Bool) : State :=
  s.updMem fun m => { m with full := keys.foldl (fun b k => SMap.set false b (k / 16) v) m.full }
/-- R143, R148: what a write in STFE form or over a circuit does besides its bytes. -/
def State.circuitDone (s : State) (circ : Nat) (keys : List Nat) : State :=
  if circ = 0 then s else
  let s := if 2 ≤ circ then s.setFull keys true else s
  if circ = 3 then s else keys.foldl (fun s k => match s.spOffset k with | some o => countByte s (poolCore k) o | none => s) s

/-- R49: the owning memory applies a write; another device's bytes leave this model. A write in STFE form waits until
its granules are empty. -/
def State.applyWrite (s : State) (i : Nat) (r : Req) : State :=
  let keys := r.wr.map Prod.fst
  if 2 ≤ r.circ ∧ keys.any s.isFull = true then s
  else ((s.write r.path r.by_ r.eng (r.wr.filter fun e => isLocal e.1)).circuitDone r.circ keys).setReq i
    (some { r with applied := true })

/-- R51: the owning memory serves a read. -/
def State.serveRead (s : State) (i age : Nat) (r : Req) : State :=
  let l := s.readKeys r.path age r.rd
  let s := if age = 0 then s.readFresh r.path (r.rd.filter isLocal) else s
  s.setReq i (some { r with applied := true, bytes := l })

/-- R203, R290: a versioned load: status 0 not-yet, 1 exact, 2 later, and the named bytes. One that waits (LDVN) is held
until its version exists. -/
def State.tryVersion (s : State) (r : Req) : Nat × List Byte :=
  let k := nth 0 r.rd 0
  match s.loadVersion k r.ver with
  | none => (0, [])
  | some (u, img) => (if u = r.ver then 1 else 2, ((leBytes img.toNat 8).drop (k % 8)).take r.rd.length)
def State.serveVersion (s : State) (i : Nat) (r : Req) : State :=
  let o := if r.dev.isSome then
      (Config.remoteStatus s.clk.tick % 3, (List.range r.rd.length).map (Config.remoteByte s.clk.tick))
    else s.tryVersion r
  if o.1 = 0 ∧ r.heldAt.isSome = true then s
  else s.setReq i (some { r with applied := true, status := o.1, bytes := o.2 })

/-- R202, R206: a versioned store creates its version, is discarded, or waits for a free version slot. -/
def State.applyVersion (s : State) (i : Nat) (r : Req) : State :=
  let k := nth 0 (r.wr.map Prod.fst) 0
  if r.dev.isSome ∨ r.ver ≤ (s.wordVer k).newest then s.setReq i (some { r with applied := true })
  else if s.versionFull k then
    s.setReq i (some { r with heldAt := match r.heldAt with | some t => some t | none => some s.clk.fab })
  else (s.storeVersion r.path r.by_ r.eng r.ver r.wr).setReq i (some { r with applied := true })

/-- R207. -/
def State.applyRetire (s : State) (i : Nat) (r : Req) : State :=
  let s := if r.dev.isSome then s else s.retireVersions (nth 0 r.rd 0) r.ver
  s.setReq i (some { r with applied := true })

/-- R333: FP minimum or maximum. A NaN operand gives the canonical NaN, and −0 is below +0. -/
def fpMinMax (t : Nat) (mx : Bool) (x y : W32) : W32 :=
  let a := laneFp t x
  let b := laneFp t y
  if a.isNan || b.isNan then BitVec.ofNat 32 (fmtOf t).nanBits
  else
    let less := a.lt b || (a.eq b && a.isZero true && b.isZero false)
    if less != mx then x else y
/-- R376: FP32 updates of ATN. -/
def fpUpdate (op : Nat) (old x : W32) : W32 :=
  match op with
  | 0 => fpLane 1 0 (Fp.sum 0 [laneFp 1 old, laneFp 1 x])
  | 4 => fpMinMax 1 false old x
  | 5 => fpMinMax 1 true old x
  | _ => x

/-- One update: the old value, and the bytes it writes; none where a compare fails (R262, R292, R376). -/
def State.atomicBytes (s : State) (a : Atomic) : W64 × List (Nat × Byte) :=
  let n := if a.dword then 64 else 32
  let old := leNat ((keyRange a.key (n / 8)).map s.byte)
  let x := a.x.toNat % 2 ^ n
  match a.cas with
  | some e => (w64 old, if old = e.toNat % 2 ^ n then bytesAt a.key (leBytes x (n / 8)) else [])
  | none =>
    let v := if a.fp then (fpUpdate a.op (BitVec.ofNat 32 old) (BitVec.ofNat 32 x)).toNat else amoOp a.op n old x
    (w64 old, bytesAt a.key (leBytes v (n / 8)))

/-- R215: the updates of a request in order, with nothing between them. Another device makes its own, and the old value is
what it returns; `n` is the place among the updates. -/
def State.runAtomics (s : State) (path : Nat) (who : Agent) (eng : Bool) : Nat → List Atomic → State × List W64
  | _, [] => (s, [])
  | n, a :: t =>
    let r := if isLocal a.key then s.atomicBytes a
      else (wordOf ((List.range (if a.dword then 8 else 4)).map fun b => Config.remoteByte s.clk.tick (8 * n + b)), [])
    let u := (s.write path who eng r.2).runAtomics path who eng (n + 1) t
    (u.1, r.1 :: u.2)

/-- R215, R292: the read-modify-write pipeline performs an AMO, ACAS or ATN. The pipeline reads what the memory
holds. -/
def State.applyAtomic (s : State) (i : Nat) (r : Req) : State :=
  let s := s.readFresh r.path ((r.ats.filter fun a => isLocal a.key).flatMap fun a => keyRange a.key (if a.dword then 8 else 4))
  let o := s.runAtomics r.path r.by_ r.eng 0 r.ats
  o.1.setReq i (some { r with applied := true, vals := o.2 })

/-- A request carried out by its kind. -/
def State.applyReq (s : State) (i age : Nat) (r : Req) : State :=
  match r.kind with
  | .read => s.serveRead i age r
  | .write => s.applyWrite i r
  | .atomic => s.applyAtomic i r
  | .vstore => s.applyVersion i r
  | .vload => s.serveVersion i r
  | .retire => s.applyRetire i r

/-- A request that its memory, or another device, ends with a cause of R54. -/
def State.endBad (s : State) (i : Nat) (r : Req) (cause : Nat) : State :=
  s.setReq i (some { r with applied := true, bad := cause })

/-! ### Requests of other devices and hosts (R31, R32, R73) -/

/-- The operation of R31 that a request rides on. -/
def Req.uetOp (r : Req) : UetOp :=
  match r.kind with
  | .read | .vload => .read
  | .atomic => .atomic
  | _ => .write
/-- What a request of another device or a host returns; a Read that asks for a version also gets its status, first (log
entry 57). -/
def Req.answer (r : Req) : List Byte :=
  match r.kind with
  | .atomic => (r.ats.zip r.vals).flatMap fun e => leBytes e.2.toNat (if e.1.dword then 8 else 4)
  | .vload => leBytes r.status 1 ++ r.bytes
  | _ => r.bytes
/-- Such a request, once applied, is answered and over. -/
def State.answered (s : State) (i : Nat) : State :=
  match s.req i with
  | none => s
  | some r =>
    if !r.applied then s
    else
      let err := if r.bad = 0 then none else some (if r.bad = 9 then 0xD else 0x10 + r.bad)
      match r.by_ with
      | .remote dev _ => (s.setReq i none).answerTo r.pdc (.dev dev) r.uetOp err r.answer
      | .port _ => if r.reply then s else (s.setReq i none).answerTo r.pdc (.host r.hostPort) r.uetOp err r.answer
      | _ => s

/-- A request of one of the kinds carried out, once its order and the banks allow it. -/
def State.serve (s : State) (i age : Nat) (f : Found) (ks : List ReqKind) : State :=
  match s.req i with
  | none => s
  | some r =>
    if !(s.mayApply i && s.reachable r && ks.contains r.kind) || s.bankBusy r.banked then s
    else if r.dev.isSome && f == .refused then (s.endBad i r 9).answered i
    else match s.meets f (fun _ => r.va) r.keys with
      | (t, some _) => (t.endBad i r 0xA).answered i
      | (t, none) => ((t.applyReq i age r).useBanks r.banked).answered i
def State.carryOut (s : State) (i age : Nat) (ks : List ReqKind) : State := s.serve i age .good ks

def execMemoryWriteApply (i : Nat) (f : Found) (s : State) : Result := .next (s.serve i 0 f [.write, .retire])
def execMemoryReadServe (i age : Nat) (f : Found) (s : State) : Result := .next (s.serve i age f [.read, .vload])
def execVersionedStoreApply (i : Nat) (s : State) : Result := .next (s.serve i 0 s.found [.vstore])
/-- R206: proceeds once a slot or an entry is free. -/
def execVersionStoreWaitRelease (i : Nat) (s : State) : Result :=
  .next (match s.req i with
    | some r => if r.heldAt.isSome then s.carryOut i 0 [.vstore] else s
    | none => s)
def execAtomicApply (i : Nat) (s : State) : Result := .next (s.serve i 0 s.found [.atomic])

/-- R46: a resent flit has no effect but its delay, which the step's passing of time holds. -/
def State.replayFlit (s : State) (_link : Nat) : State := s
def execFlitCrcReplay (i : Nat) (s : State) : Result := .next (s.replayFlit i)

/-- R461: a request to memory of its own leaf is delivered there and carried out. -/
def execLocalLeafDelivery (i : Nat) (s : State) : Result :=
  .next (match s.req i with
    | some r =>
      if r.dev.isNone && r.by_.endpoint == ownerOf (nth 0 r.keys 0) then
        s.carryOut i (Config.readAge s.clk.tick) [r.kind]
      else s
    | none => s)

/-! ### Uncorrectable errors (R59) -/

def execUncorrectableRetryResult (i : Nat) (ok : Bool) (s : State) : Result :=
  .next (match s.req i with
    | none => s
    | some r =>
      if r.dev.isSome then s
      else s.serve i (Config.readAge s.clk.tick) (if ok then .transient 0 else .lasting 0) [r.kind])

/-! ### Walks (R54 to R58) -/

/-- A want that found a miss entry leaves the list. -/
def State.startWant (s : State) (i : Nat) (w : Want) : State :=
  let t := s.updXl fun x => { x with wants := dropNth x.wants i }
  match t.allocMiss w with
  | some u => u
  | none => s.updXl fun x => { x with wants := setNth x.wants i { w with held := true } }

def execTlbMissWalkStart (i : Nat) (s : State) : Result :=
  .next (match s.xl.wants[i]? with
    | some w => if w.held then s else s.startWant i w
    | none => s)
def execMissEntryFree (i : Nat) (s : State) : Result :=
  .next (match s.xl.wants[i]? with
    | some w => if w.held then s.startWant i w else s
    | none => s)

/-- R54, R59: one entry read and checked for the access that began the walk. -/
def State.walkStep (s : State) (i : Nat) (m : Miss) (f : Found) : State :=
  match s.meets f id ((s.physKey (m.table + 8 * idxOf m.va m.level)).toList.flatMap fun k => keyRange k 8) with
  | (s, some _) => s.missFault i m 0xA
  | (s, none) => match s.checkEntry m.pdom m.va m.level m.acc (s.entryAt m.table (idxOf m.va m.level)) with
  | .fault c => s.missFault i m c
  | .down t =>
    (s.cacheWalk m.group m.pdom m.va (m.level + 1) t).updXl fun x =>
      { x with misses := setNth x.misses i { m with level := m.level + 1, table := t } }
  | .leaf e =>
    if s.needsZero e then s.updXl fun x => { x with misses := setNth x.misses i { m with leaf := some e } }
    else s.missDone i m e

/-- R55, R462: a walker is free for a miss entry: each group serves its oldest 64 entries, the I/O group 16. -/
def State.hasWalker (s : State) (i : Nat) (m : Miss) : Bool :=
  ((s.xl.misses.take i).filter fun x => walkers x.group == walkers m.group).length < if walkers m.group < 8 then 64 else 16
/-- R54, R52: a walk of a domain that is no longer active ends with cause 2. -/
def execWalkLevelReadReturn (i : Nat) (s : State) : Result :=
  .next (match s.xl.misses[i]? with
    | none => s
    | some m =>
      if m.leaf.isSome || !s.hasWalker i m then s
      else if !s.domActive m.pdom then s.missFault i m 2
      else s.walkStep i m s.found)

/-- R58: the frames are zeroed and owned, and only then does the walk complete. -/
def execFirstTouchZeroingDone (i : Nat) (s : State) : Result :=
  .next (match s.xl.misses[i]? with
    | none => s
    | some m => match m.leaf with
      | none => s
      | some e => (s.ownFrames e).missDone i m e)

end Sys2Proof.Machine
end

