-- ==== Sys2Proof/Machine/Msg.lean ====
section
/-! DEFINITION. Active messages: fields, the network that carries them, FMP packets, replies (R31, R33, R61 to R71). -/

namespace Sys2Proof.Machine

def inboxKey (ep unit inbox : Nat) : Nat := 4096 * ep + 64 * unit + inbox

/-- R61: word `i` of a message. -/
def Msg.word (m : Msg) (i : Nat) : Nat := (nth 0#64 m.words i).toNat
def Msg.opc (m : Msg) : Nat := bits (m.word 0) 56 8
def Msg.len (m : Msg) : Nat := bits (m.word 0) 53 3
def Msg.ddev (m : Msg) : Nat := bits (m.word 0) 38 10
def Msg.dep (m : Msg) : Nat := bits (m.word 0) 32 6
def Msg.unit (m : Msg) : Nat := bits (m.word 0) 26 6
def Msg.inbox (m : Msg) : Nat := bits (m.word 0) 20 6
def Msg.key (m : Msg) : Nat := inboxKey m.dep m.unit m.inbox
/-- R61: reserved fields of word 0. -/
def Msg.reserved (m : Msg) : Bool := bits (m.word 0) 48 5 != 0 || bits (m.word 0) 0 20 != 0
/-- R64. -/
def Msg.exists_ (m : Msg) : Bool := m.inbox < inboxesOf m.dep m.unit

def State.inbox (s : State) (key : Nat) : List Msg := SMap.get [] s.msg.inbox key
def State.setInbox (s : State) (key : Nat) (l : List Msg) : State :=
  s.updMsg fun g => { g with inbox := SMap.set [] g.inbox key l }
def State.cmd (s : State) (key : Nat) : Option Cmd := SMap.get none s.msg.cmds key
def State.setCmd (s : State) (key : Nat) (x : Option Cmd) : State :=
  s.updMsg fun g => { g with cmds := SMap.set none g.cmds key x }

/-- A message handed to the network. -/
def State.toNet (s : State) (m : Msg) (src : Nat) : State :=
  s.updMsg fun g => { g with net := g.net ++ [{ msg := m, src := src }] }

/-- R33: the 16-byte header of an FMP packet. -/
def fmpHeader (seq pdom srcdev count : Nat) : List Byte :=
  leBytes (0x504D4646 + 1 * 2 ^ 32 + count * 2 ^ 40) 8 ++ leBytes (srcdev * 2 ^ 6 + pdom * 2 ^ 16 + seq % 2 ^ 32 * 2 ^ 32) 8

def wordsBytes (ws : List W64) : List Byte := ws.flatMap fun w => leBytes w.toNat 8

/-- R33: the destination that an FMP sequence belongs to: a device, or 2048 + port for all hosts behind it (log entry
57). -/
def Dest.num : Dest → Nat
  | .dev d => d
  | .host p => 2048 + p
  | .collector fa => 4096 + fa
/-- R31, R33: records sent as one FMP packet, on the circuit that a request came in on, if it answers one (R68). -/
def State.sendFmp (s : State) (src : Nat) (dst : Dest) (back : Option Nat) (pdom : Nat) (msgs : List (List W64)) : State :=
  let seq := SMap.get 0 s.net.fmpSeq dst.num
  (s.emit {
    op := .send, pds := .rud, src := src, dst := dst, back := back, job := s.xl.jobid.toNat
    data := fmpHeader seq pdom s.xl.devnum.toNat msgs.length ++ msgs.flatMap wordsBytes }).updNet fun n => { n with
      fmpSeq := SMap.set 0 n.fmpSeq dst.num (seq + 1) }

/-! ### Replies (R67 to R70) -/

/-- R67: a reply word: success with a result, or an error with its cause and detail. -/
def replyOk (result : Nat) : W64 := w64 (result % 2 ^ 57)
def replyErr (cause detail : Nat) : W64 := pack [(1, 63), (cause, 57), (detail % 2 ^ 57, 0)]

/-- R70: an error reply of a unit of R64 counts. -/
def State.errReply (s : State) (ep u : Nat) : State :=
  if unitsOf ep ≤ u then s else s.updMsgStat ep u fun x => { x with errs := satAdd x.errs 1 (2 ^ 24 - 1) }
def State.lostReply (s : State) (ep u : Nat) : State :=
  if unitsOf ep ≤ u then s else s.updMsgStat ep u fun x => { x with lost := satAdd x.lost 1 (2 ^ 32 - 1) }

/-- The access path a unit writes replies on (R199). -/
def unitPath (ep u : Nat) : Nat :=
  if ep < 8 then (if u < 2 then 2 else if u = 3 then 5 else 6) else if ep < 48 then 4 else 6

/-- R59, R67, R71, R217: a versioned store of an engine, which releases every write of the command to every path first. A
store that fails is lost and counted. -/
def State.stamp (s : State) (ep u : Nat) (a : Agent) (path pdom va ver : Nat) (w : W64) : State :=
  let s := s.releaseAll (· == a)
  if va % 8 ≠ 0 ∨ 2 ^ 48 ≤ ver then s.lostReply ep u else
  let r := s.xlateNow (tlbGroup a) pdom (w64 va) 1
  match r.2 with
  | .error _ => r.1.lostReply ep u
  | .ok (pa, some d) =>
    r.1.issue { by_ := a, path := path, kind := .vstore, va := va, dev := some d, ver := ver, eng := true, reply := true,
                wr := (keyRange (remoteKey d pa) 8).zip (leBytes w.toNat 8) }
  | .ok (pa, none) => match r.1.physKey pa with
    | none => r.1.lostReply ep u
    | some k =>
      let l := bytesAt k (leBytes w.toNat 8)
      if ver ≤ (r.1.wordVer k).newest then r.1
      else if r.1.versionFull k || r.1.held then
        r.1.issue { by_ := a, path := path, kind := .vstore, va := va, ver := ver, eng := true, reply := true,
                    wr := l, heldAt := if r.1.versionFull k then some r.1.clk.fab else none }
      else match r.1.meets r.1.found (va + ·) (l.map Prod.fst) with
        | (s, some _) => s.lostReply ep u
        | (s, none) => (s.storeVersion path a true ver l).releaseAll (· == a)

/-- R68: reply records of a host, at most 16 a packet. -/
def hostRecords (w0 w1 w2 word : W64) (data : List Byte) : List (List W64) :=
  let parts := Nat.max 1 ((data.length + 31) / 32)
  (List.range parts).map fun p =>
    [pack [(0xFF, 56), (p, 52), (parts - 1, 48), (w0.toNat % 2 ^ 48, 0)], w1, w2, word] ++
    (List.range 4).map fun i => wordOf ((data.drop (32 * p + 8 * i)).take 8)

/-- R62, R67, R68: the reply of a unit to a message. One that asks for none releases nothing, and its writes are the issuer's
from then on (R95, R217). A reply to a host whose circuit is closed is lost. -/
def State.replyTo (s : State) (ep u : Nat) (a : Agent) (m : Msg) (ver : Nat) (word : W64) (data : List Byte) : State :=
  if m.word 1 = 0 then s.handOver a m.sender
  else
    let s := if bits word.toNat 63 1 = 1 then s.errReply ep u else s
    if m.host then
      if !s.net.inn.any fun c => c.id == m.pdc then s.lostReply ep u
      else (s.releaseAll (· == a)).sendFmp (48 + m.port / 2) (.host m.port) (some m.pdc) m.pdom
        (hostRecords (nth 0#64 m.words 0) (nth 0#64 m.words 1) (nth 0#64 m.words 2) word data)
    else s.stamp ep u a (unitPath ep u) m.pdom (m.word 1) ver word

/-- A command whose effects are complete: its result and data. -/
def Cmd.ok (c : Cmd) (result : Nat) (data : List Byte) : Cmd := { c with finished := true, result := result, data := data }
/-- A command that ends in error; the first error stands. -/
def Cmd.fail (c : Cmd) (cause detail : Nat) : Cmd :=
  if c.err then c else { c with finished := true, err := true, cause := cause, result := detail }
/-- R64: the endpoint and unit of an engine. -/
def Agent.engineUnit : Agent → Nat × Nat
  | .eng ep u _ => (ep, u)
  | a => (a.endpoint, 0)
/-- R37, R59, R70, R206: a request of an engine that fails: a reply is lost and counted; any other ends its command or
program in error. -/
def State.engineFail (s : State) (r : Req) (cause detail : Nat) : State :=
  match r.by_ with
  | .eng ep u inbox =>
    if r.reply then s.lostReply ep u
    else match s.cmd (inboxKey ep u inbox) with
      | some c => s.setCmd (inboxKey ep u inbox) (some (c.fail cause detail))
      | none => s
  | .larder ld i =>
    if r.reply then s.lostReply (8 + ld) 0 else s.setLdCtx ld i { s.ldCtx ld i with lost := some (cause, detail) }
  | .launchEngine => if r.reply then s.lostReply 55 0 else s
  | .mgmtBlock => if r.reply then s.lostReply 54 0 else s
  | _ => s

/-- An operation of a context whose command a unit has completed (R279). -/
def State.opDone (s : State) (m : Msg) : State :=
  match m.sender, m.req with
  | .seq c, some i => s.updCtx c fun x => { x with ops := x.ops.map fun o => if o.id == i then { o with done := true } else o }
  | _, _ => s

/-- A message answered and done with. -/
def State.answer (s : State) (ep u inbox : Nat) (m : Msg) (word : W64) (data : List Byte) : State :=
  (s.replyTo ep u (.eng ep u inbox) m (m.word 2) word data).opDone m

end Sys2Proof.Machine
end

