-- ==== Sys2Proof/Machine/System.lean ====
section
/-! DEFINITION. CSR and system instructions (R318 to R323). -/

namespace Sys2Proof.Machine

/-! ### CSRs -/

/-- R318: the CSRs, in three kinds: 0 not in the table, 1 read-only as a whole, 2 writable, 3 management only. -/
def csrKind (n : Nat) : Nat :=
  if n = 0 ∨ n = 1 ∨ n = 2 ∨ n = 3 ∨ n = 8 ∨ n = 0x20 then 1
  else if (0x10 ≤ n ∧ n ≤ 0x15) ∨ n = 0x21 ∨ n = 0x22 then 2
  else if 0x100 ≤ n ∧ n ≤ 0x102 then 3
  else 0

/-- R320: TIME has reached TIMECMP. -/
def State.timerDue (s : State) (x : Ctx) : Bool := x.csr.timecmp.toNat ≤ s.clk.time % 2 ^ 64
/-- R320 MEVT: INBOX shows the management inbox; TIMER is set in every cycle in which it is due. -/
def State.mevt (s : State) (x : Ctx) : Nat :=
  Nat.lor (x.csr.mevt.toNat / 2 * 2 + (!(s.inbox (inboxKey 54 0 0)).isEmpty).toNat) (2 * (s.timerDue x).toNat)
/-- The CSRs before a write: TIMER stays set under another TIMECMP. -/
def State.beforePut (s : State) (x : Ctx) (n : Nat) : Csrs :=
  if n = 0x102 then { x.csr with mevt := x.csr.mevt ||| if s.timerDue x then 2#3 else 0#3 } else x.csr

def State.csrRead (s : State) (c n : Nat) : W64 :=
  let x := s.ctx c
  match n with
  | 0 => w64 (s.clk.fab - x.csr.cycleBase)
  | 1 => w64 s.clk.time
  | 2 => pack [(x.task.lid, 32), (x.task.pdom, 16), ((isMgmt c).toNat, 10), (if isMgmt c then 0 else c % 4, 8),
      (if isMgmt c then 0 else coreOf c, 0)]
  | 3 => x.task.recw3
  | 8 => w64 x.cnts
  | 0x10 => x.csr.tvec
  | 0x11 => x.csr.tpc
  | 0x12 => x.csr.tcause.setWidth 64
  | 0x13 => x.csr.tdetail
  | 0x14 => w64 x.csr.tstatus
  | 0x15 => x.csr.trec
  | 0x20 => x.csr.vstat.setWidth 64
  | 0x21 => w64 x.csr.barstat
  | 0x22 => w64 x.csr.rsts
  | 0x100 => w64 (s.mevt x)
  | 0x101 => x.csr.mevtEn.setWidth 64
  | 0x102 => x.csr.timecmp
  | _ => 0#64

/-- What a write leaves: `v` in the RW fields, `ones` clears W1C fields; RO fields ignore it. -/
def Csrs.put (r : Csrs) (n : Nat) (v ones : W64) : Csrs :=
  match n with
  | 0x10 => { r with tvec := v }
  | 0x11 => { r with tpc := v }
  | 0x12 => { r with tcause := v.setWidth 8 }
  | 0x13 => { r with tdetail := v }
  | 0x14 => { r with inTrap := v.getLsbD 0 }
  | 0x15 => { r with trec := v &&& ~~~63#64 }
  | 0x21 => { r with barBroken := r.barBroken && !ones.getLsbD 0 }
  | 0x22 => { r with
      tidwRef := r.tidwRef && !ones.getLsbD 0, cfgFail := r.cfgFail && !ones.getLsbD 1
      discard := r.discard && !ones.getLsbD 2 }
  | 0x100 => { r with mevt := r.mevt &&& ~~~(ones.setWidth 3) }
  | 0x101 => { r with mevtEn := v.setWidth 3 }
  | 0x102 => { r with timecmp := v }
  | _ => r

/-- R318, R281: the checks of the CSR group, then its effect. -/
def State.csrForm (s : State) (rs : List Reg) (n : Nat) (write : Bool) (k : State) : State :=
  let c := s.cur
  s.withRegs c rs
    (if csrKind n = 0 ∨ (csrKind n = 1 ∧ write = true) then s.trap c 1 0#64
     else if csrKind n = 3 ∧ isMgmt c = false then s.trap c 3 0#64
     else if n = 0x20 ∧ (s.ctx c).ops.any (fun o => o.form == .ldvt) = true then s.stallFor c 1
     else k)

def execCsrr (rd : Reg) (csr : BitVec 12) (s : State) : Result :=
  .next (s.csrForm [rd] csr.toNat false (s.finishSlow s.cur rd (s.csrRead s.cur csr.toNat) false))
/-- R318: `f` gives the RW fields from the old value and s[a]; `ones` clears W1C bits. -/
def State.csrStore (s : State) (ra : Reg) (n : Nat) (f : W64 → W64 → W64) (ones : W64) : State :=
  let c := s.cur
  let a := (s.ctx c).reg ra
  s.csrForm [ra] n true
    (((s.updCtx c fun x => { x with csr := (s.beforePut x n).put n (f (s.csrRead c n) a) ones }).advance c 4).slow c (s.ctx c).pc)
def execCsrw (ra : Reg) (csr : BitVec 12) (s : State) : Result :=
  .next (s.csrStore ra csr.toNat (fun _ a => a) ((s.ctx s.cur).reg ra))
def execCsrs (ra : Reg) (csr : BitVec 12) (s : State) : Result :=
  .next (s.csrStore ra csr.toNat (fun o a => o ||| a) ((s.ctx s.cur).reg ra))
def execCsrc (ra : Reg) (csr : BitVec 12) (s : State) : Result :=
  .next (s.csrStore ra csr.toNat (fun o a => o &&& ~~~a) 0#64)

/-! ### System group -/

def execNop (s : State) : Result := .next (s.advance s.cur 4)
def execHalt (s : State) : Result :=
  let c := s.cur
  .next (if s.privileged c then s.updCtx c fun x => { x with run := .halted } else s.trap c 3 0#64)
def execIdle (s : State) : Result :=
  let c := s.cur
  let x := s.ctx c
  .next (if !isMgmt c then s.trap c 3 0#64
    else if x.csr.mevtEn = 0#3 ∨ Nat.land (s.mevt x) x.csr.mevtEn.toNat = 0 then s.stallFor c 10
    else s.advance c 4)

/-- R232: a push; the depth saturates, and the entry 16 below is overwritten. -/
def Ctx.push (x : Ctx) (id : BitVec 16) : Ctx :=
  { x with
    stack := SMap.set 0#16 x.stack (x.depth % 16) id
    depth := satAdd x.depth 1 255
    lost := Nat.max x.lost (x.depth - 15) }
/-- R232: a pop. -/
def Ctx.pop (x : Ctx) : Ctx := { x with depth := x.depth - 1, lost := Nat.min x.lost (x.depth - 1) }
/-- R321: whether s[a] holds a region id. -/
def badRegion (v : W64) : Bool := 0xFFFF ≤ v.toNat

/-- R233: an ENTER hit comes after the instruction retires. -/
def execEnter (ra : Reg) (s : State) : Result :=
  let c := s.cur
  let v := (s.ctx c).reg ra
  .next (s.withRegs c [ra]
    (if badRegion v then s.trap c 1 2#64
     else
      let t := (s.updCtx c fun x => x.push (v.setWidth 16)).advance c 4
      match t.breakpointsFor c 1 v.toNat with
      | [] => t
      | l => (t.breakHits c 0 v.toNat l)))
/-- R233: a LEAVE hit comes before the instruction retires. -/
def execLeave (ra : Reg) (s : State) : Result :=
  let c := s.cur
  let v := (s.ctx c).reg ra
  .next (s.withRegs c [ra]
    (if badRegion v then s.trap c 1 2#64
     else
      let go (s : State) : State := (s.updCtx c Ctx.pop).advance c 4
      match (if (s.ctx c).bpDone = 2 then [] else s.breakpointsFor c 2 v.toNat) with
      | [] => go s
      | l =>
        let t := s.breakHits c 2 v.toNat l
        if l.any fun i => (s.dbgOf (s.ctx c).task.pdom).action (0x100 + 0x20 * i) % 3 != 0 then t else go t))

/-! ### CP operations of the management block and the TLBs -/

/-- Starts an operation of class CP that has no request, or stalls at 64 (R279). -/
def State.startCp (s : State) (c : Nat) (o : Op) : State :=
  if 64 ≤ (s.ctx c).nCp then s.stallFor c 3 else (s.addOp c { o with inCp := true }).advance c 4

/-- R322: bits of s[b] that must be 0. -/
def badCapd (v : W64) : Bool := bits v.toNat 32 32 != 0 || bits v.toNat 6 10 != 0
def execCapd (rd ra rb : Reg) (s : State) : Result :=
  let c := s.cur
  let x := s.ctx c
  .next (s.withRegs c [rd, ra, rb]
    (if badCapd (x.reg rb) then s.trap c 1 2#64
     else s.startCp c { id := 0, form := .capd, dst := dstOf rd, x := x.reg ra, y := x.reg rb, done := true }))
def execCapv (rd ra : Reg) (s : State) : Result :=
  let c := s.cur
  let x := s.ctx c
  .next (s.withRegs c [rd, ra] (s.startCp c { id := 0, form := .capv, dst := dstOf rd, x := x.reg ra, done := true }))

/-- R323: mode and PDOM of a TLBI. -/
def tlbiMode (v : W64) : Nat := bits v.toNat 16 2
def tlbiPdom (v : W64) : Nat := bits v.toNat 0 16
def execTlbi (ra rb : Reg) (s : State) : Result :=
  let c := s.cur
  let x := s.ctx c
  let v := x.reg rb
  .next (s.withRegs c [ra, rb]
    (if s.privileged c = false ∧ (2 ≤ tlbiMode v ∨ tlbiPdom v ≠ x.task.pdom) then s.trap c 3 0#64
     else if tlbiMode v = 3 ∨ bits v.toNat 18 46 ≠ 0 then s.trap c 1 2#64
     else s.startCp c { id := 0, form := .tlbi, x := x.reg ra, y := v, done := true }))

end Sys2Proof.Machine
end

