-- ==== Sys2Proof/Machine/Task.lean ====
section
/-! DEFINITION. Tasks and messages: SPAWN, JOIN, ARM, END, TRIG, GANG, BAR, SEND, SENDI (R296 to R301, R310). -/

namespace Sys2Proof.Machine

/-- R281: instructions that the management sequencer may not use. -/
def State.taskOnly (s : State) (c : Nat) (k : State) : State := if isMgmt c then s.trap c 3 0#64 else k

/-- An operand at a multiple, R311. -/
def State.needAligned (s : State) (c : Nat) (a : W64) (n : Nat) (k : State) : State :=
  if aligned a n then k else s.trap c 4 a

/-- A read of an operand block on path S: translated and watched, then started as an operation. -/
def State.readBlockOp (s : State) (c : Nat) (a : W64) (n : Nat) (o : Op) (dep : Bool) : State :=
  s.access c a n 0 false fun s p =>
    s.startAccess c p { o with va := a.toNat }
      { by_ := .seq c, path := 0, kind := .read, va := a.toNat, rd := p.keys n, dep := dep }

/-- R296: the image is read on path S; the record is written when the operation completes. -/
def execSpawn (rd ra rb : Reg) (s : State) : Result :=
  let c := s.cur
  let x := s.ctx c
  let a := x.reg ra
  .next (s.withRegs c [rd, ra, rb] (s.taskOnly c (s.needAligned c a 32
    (if 64 ≤ x.nCp then s.stallFor c 3
     else s.readBlockOp c a 32 { id := 0, form := .spawn, inCp := true, dst := dstOf rd, x := x.reg rb } (x.taintOf ra)))))

/-- R297, R91: sent once the task's writes, copies and messages are acknowledged. -/
def execJoin (ra : Reg) (s : State) : Result :=
  let c := s.cur
  let x := s.ctx c
  let h := (x.reg ra).toNat
  .next (s.withRegs c [ra] (s.withOwed c (s.taskOnly c
    (if 2 ^ 32 ≤ h then s.trap c 1 2#64
     else if x.quiet then ((s.sendJoin h (some (c, x.nextOp))).startCp c { id := 0, form := .join, x := w64 h })
     else s.stallFor c 5))))

/-- R298: the word is read on path S; the monitor is placed when the operation completes. -/
def execArm (rd ra rb : Reg) (s : State) : Result :=
  let c := s.cur
  let x := s.ctx c
  let a := x.reg ra
  .next (s.withRegs c [rd, ra, rb]
    (s.taskOnly c (if rd = 0#5 then s.trap c 1 0#64
     else s.needAligned c a 8
      (if 64 ≤ x.nCp then s.stallFor c 3
       else s.readBlockOp c a 8
        { id := 0, form := .arm, inCp := true, dst := dstOf rd
          x := w64 ((x.reg rd).toNat % 2 ^ 32), y := w64 ((x.reg rb).toNat % 2 ^ 48) } (x.taintOf ra)))))

/-- R293, R299, R317: END drops the deferred faults of loads with their loads and takes the oldest of the others first. -/
def State.endOwed (s : State) (c : Nat) (k : State) : State :=
  let stays (o : Owed) : Bool := o.inSt || o.inCp || o.inTl
  if (s.ctx c).owed.any stays then (s.updCtx c fun x => { x with owed := x.owed.filter stays }).takeOwed c else k
/-- R153: pending updates are due. -/
def execEnd (s : State) : Result :=
  let c := s.cur
  .next (s.endOwed c (s.taskOnly c
    (if (s.ctx c).quiet then (s.urge c).endTask c else (s.urge c).stallFor c 5)))

/-- R94, R217: a task's first TRIG: the task's writes are released, U is lowered. -/
def State.firstTrig (s : State) (c : Nat) : State :=
  if (s.ctx c).task.triggered then s
  else ((s.countTrig c (s.ctx c).task).releaseAll (· == .seq c)).updCtx c fun x => { x with task := { x.task with triggered := true } }
/-- R299: a later TRIG only waits. -/
def execTrig (s : State) : Result :=
  let c := s.cur
  .next (s.withOwed c (s.taskOnly c
    (if (s.ctx c).quiet then ((s.urge c).firstTrig c).advance c 4 else (s.urge c).stallFor c 5)))

def execGang (rd : Reg) (s : State) : Result :=
  let c := s.cur
  let t := (s.ctx c).task
  .next (s.withRegs c [rd] (s.taskOnly c (s.finish c rd (w64 (t.size * 2 ^ 32 + t.rank)) false)))

/-- R301: BAR starts an operation of class TL. -/
def execBar (s : State) : Result :=
  let c := s.cur
  let x := s.ctx c
  .next (s.withOwed c (s.taskOnly c
    (if x.csr.barPending then s.stallFor c 4
     else if 64 ≤ x.nTl then s.stallFor c 1
     else (((s.urge c).addOp c { id := 0, form := .bar, inTl := true }).updCtx c fun x =>
      { x with csr := { x.csr with barPending := true } }).advance c 4)))

/-! ### Messages -/

/-- R63: the trap of a destination outside the domain. -/
def State.sendTrap (s : State) (m : Msg) : Bool := !s.ownDev m.ddev && !s.inDomain m.ddev

/-- R310: why a message may not leave yet: a full inbox, or 64 operations of class CP. -/
def State.sendStall (s : State) (c : Nat) (m : Msg) : Option Nat :=
  if s.ownDev m.ddev && m.exists_ && 64 ≤ (s.inbox m.key).length then some 2
  else if 64 ≤ (s.ctx c).nCp then some 3 else none
/-- R310 steps 2 to 4 for a message; `detail` is what the trap of R63 carries, `rest` ends the read of its block. -/
def State.sendMsg (s : State) (c : Nat) (ws : List W64) (detail : W64) (rest : State → State) : State :=
  let x := s.ctx c
  let m : Msg := { words := ws, pdom := x.task.pdom, sender := .seq c, req := some x.nextOp, lid := x.task.lid }
  if s.sendTrap m then (rest s).trap c 0x16 detail
  else match s.sendStall c m with
    | some r => s.stallFor c r
    | none =>
      if s.ownDev m.ddev then
        ((rest s).toNet m (if isMgmt c then 54 else clusterOf (coreOf c))).startCp c { id := 0, form := .send }
      else ((rest s).sendFmp (Agent.seq c).source (.dev m.ddev) none m.pdom [ws]).startCp c
        { id := 0, form := .send, done := true, y := w64 (m.ddev + 1) }

/-- R310: loads that SEND's read of its block follows. -/
def State.sendWaits (s : State) (x : Ctx) (ra : Reg) : Bool :=
  x.ops.any fun o => o.form == .ldvt || (x.taintOf ra && o.form == .ld && match o.req with
    | some i => match s.req i with
      | some r => r.consume
      | none => false
    | none => false)
/-- R310, R293: the block has come: the message leaves, or its deferred fault is owed. -/
def State.sendBlock (s : State) (c : Nat) (o : Op) (r : Req) : State :=
  if !r.applied then s.stallFor c 0
  else if r.bad ≠ 0 then
    ((s.owe c { o with inCp := true } r.bad).endRead c o).advance c 4
  else s.sendMsg c ((wordsOf r.bytes 8).map w64) (w64 o.va) (State.endRead · c o)
/-- R310 step 1 issues the read on path S; the context stands at the SEND until the block has come, which R93 gives no stall
reason (log entry 90). -/
def execSend (ra : Reg) (s : State) : Result :=
  let c := s.cur
  let x := s.ctx c
  let a := x.reg ra
  .next (match x.sendRead with
    | some o => match o.req.bind s.req with
      | some r => s.sendBlock c o r
      | none => s
    | none => s.withRegs c [ra] (s.needAligned c a 64
      (if s.sendWaits x ra then s.stallFor c 1
       else s.access c a 64 0 false fun s p =>
        (s.startOp c { id := 0, form := .send, x := x.pc, va := a.toNat }
          { by_ := .seq c, path := 0, kind := .read, va := a.toNat, rd := p.keys 64, dev := p.dev,
            dep := x.taintOf ra }).stallFor c 0)))

/-- Scalars s[a] to s[a + 7]. -/
def eightRegs (ra : Reg) : List Reg :=
  ((List.range 8).filter fun i => ra.toNat + i < 32).map fun i => ra + BitVec.ofNat 5 i
def execSendi (ra : Reg) (s : State) : Result :=
  let c := s.cur
  let x := s.ctx c
  .next (s.withRegs c (eightRegs ra)
    (if 24 < ra.toNat then s.trap c 1 0#64 else s.sendMsg c ((eightRegs ra).map x.reg) 0#64 id))

end Sys2Proof.Machine
end

