-- ==== Sys2Proof/Machine/Region.lean ====
section
/-! DEFINITION. Region and tensor-table instructions: CFG, RUN, BOUND, INJ, RSTAT, TIDW, TIDR, PART (R302 to R309).
Their TL operations take effect in issue order when they complete. -/

namespace Sys2Proof.Machine

/-- R281: a task with FAB = 1. -/
def State.fabOnly (s : State) (c : Nat) (k : State) : State :=
  if isMgmt c || !(s.ctx c).task.fab then s.trap c 3 0#64 else k

/-- R279: an operation of class TL, or a stall at 64. -/
def State.startTl (s : State) (c : Nat) (o : Op) (f : Ctx → Ctx) : State :=
  if 64 ≤ (s.ctx c).nTl then s.stallFor c 1
  else ((s.addOp c { o with inTl := true }).updCtx c f).advance c 4

/-- R278: CFG's reads at a management register. -/
def inMgmtWindow (a : W64) : Bool := 0xFFFFFFFE00000000 ≤ a.toNat && a.toNat < 0xFFFFFFFF00000000

/-- R303. -/
def execCfg (ra rb : Reg) (s : State) : Result :=
  let c := s.cur
  let x := s.ctx c
  let a := x.reg ra
  let b := x.reg rb
  .next (s.withRegs c [ra, rb] (s.fabOnly c (s.needAligned c a 64 (s.needAligned c b 32
    (if inMgmtWindow a then s.trap c 0x17 a else if inMgmtWindow b then s.trap c 0x17 b
     else s.startTl c { id := 0, form := .cfg, x := a, y := b, n := s.mem.nextReq, taint := x.taintOf ra || x.taintOf rb } fun x =>
      { x with cfgSince := true, cfgFailed := false, ranSince := false })))))

/-- R304: field a = 0 names no DONE join. -/
def execRun (ra : Reg) (s : State) : Result :=
  let c := s.cur
  let x := s.ctx c
  let a := x.reg ra
  .next (s.withRegs c [ra] (s.fabOnly c
    (if 2 ^ 32 ≤ a.toNat then s.trap c 1 2#64
     else if !x.cfgSince then s.trap c 1 3#64
     else s.startTl c { id := 0, form := .run, x := a, n := if ra = 0#5 then 0 else 1 } fun x =>
      { x with cfgSince := false, ranSince := true })))

/-- R220: an element in Winter or Off starts its wake; 0 on, 1 Winter, 2 Off. -/
def Fabric.powerOf (f : Fabric) (e : Nat) : Nat := SMap.get 2 f.power e
def Fabric.wake (f : Fabric) (now e : Nat) : Fabric :=
  if (SMap.get none f.wakeAt e).isSome then f else { f with wakeAt := SMap.set none f.wakeAt e (some now) }
/-- R93, R220: an instruction that names an element in Winter is held, with reason 9, while it wakes. -/
def State.awake (s : State) (c e : Nat) (k : State) : State :=
  if (s.fab (coreOf c)).powerOf e = 1 then (s.updFab (coreOf c) fun f => f.wake s.clk.fab e).stallFor c 9 else k

def isCn (e : Nat) : Bool := 0x40 ≤ e && e < 0x50
def isAg (e : Nat) : Bool := 0x38 ≤ e && e < 0x3C

/-- R305. -/
def execBound (ra : Reg) (elem : BitVec 8) (s : State) : Result :=
  let c := s.cur
  let x := s.ctx c
  .next (s.withRegs c [ra] (s.fabOnly c
    (if !isCn elem.toNat && !isAg elem.toNat then s.trap c 1 2#64
     else if !x.ranSince then s.trap c 1 3#64
     else s.awake c elem.toNat (s.startTl c { id := 0, form := .bound, x := x.reg ra, n := elem.toNat, taint := x.taintOf ra } id))))
def badInj (a b : W64) : Bool := !(b == 2#64 || b == 4#64) || (b == 2#64 && a.toNat / 2 ^ 16 != 0)
def execInj (ra rb : Reg) (elem : BitVec 8) (s : State) : Result :=
  let c := s.cur
  let x := s.ctx c
  .next (s.withRegs c [ra, rb] (s.fabOnly c
    (if !isCn elem.toNat || badInj (x.reg ra) (x.reg rb) then s.trap c 1 2#64
     else if !x.ranSince then s.trap c 1 3#64
     else s.awake c elem.toNat (s.startTl c { id := 0, form := .inj, x := x.reg ra, y := x.reg rb, n := elem.toNat } id))))

/-! ### RSTAT (R306) -/

/-- R135: whether an ELEM code is assigned. -/
def elemAssigned (e : Nat) : Bool := 0 < slotsOf e
/-- Whether s[b] names an item; 0 to 14 look at the element. -/
def rstatItem (b : Nat) : Bool :=
  b ≤ 14 || (0x40 ≤ b && b < 0x80) || (0x100 ≤ b && b < 0x200) || b == 0x200

def Fabric.status (f : Fabric) : Nat :=
  (f.st == .configured || f.st == .running || f.st == .done || f.st == .frozen).toNat +
  2 * (f.st == .running).toNat + 4 * (f.st == .frozen).toNat + 8 * (f.st == .done).toNat

def State.rstatRead (s : State) (core e k b : Nat) : W64 :=
  let f := (s.fab core).counted s.clk.fab
  let u := f.unit e (unitSlot e k)
  if b < 12 then w64 (SMap.get 0 u.counters b)
  else if b = 12 then u.f0
  else if b = 13 then u.f1
  else if b = 14 then w64 u.mat.ovf.toNat
  else if b < 0x80 then w64 (SMap.get 0 s.mem.arrive (core * 64 + (b - 0x40)))
  else if b < 0x200 then w64 (SMap.get {} s.mem.rings (core * 256 + (b - 0x100))).overran.toNat
  else w64 f.status

def execRstat (rd ra rb : Reg) (s : State) : Result :=
  let c := s.cur
  let x := s.ctx c
  let e := bits (x.reg ra).toNat 0 8
  let k := bits (x.reg ra).toNat 8 4
  let b := (x.reg rb).toNat
  let core := coreOf c
  let f := s.fab core
  .next (s.withRegs c [rd, ra, rb] (s.taskOnly c
    (if !rstatItem b || (b ≤ 14 && !elemAssigned e) then s.trap c 1 2#64
     else if x.task.pdom ≠ f.pdom then s.finishSlow c rd 0#64 false
     else if b ≤ 14 then s.awake c e (s.finishSlow c rd (s.rstatRead core e k b) false)
     else s.finishSlow c rd (s.rstatRead core e k b) false)))

/-! ### Tensor table and partition -/

/-- R307: TIDW reads 64 bytes; the entry is written when the operation completes. -/
def execTidw (ra : Reg) (n : BitVec 8) (s : State) : Result :=
  let c := s.cur
  let x := s.ctx c
  let a := x.reg ra
  .next (s.withRegs c [ra] (s.fabOnly c (s.needAligned c a 64
    (if 64 ≤ x.nTl then s.stallFor c 1
     else s.readBlockOp c a 64 { id := 0, form := .tidw, inTl := true, n := n.toNat } (x.taintOf ra)))))

def State.tidBytes (s : State) (core n : Nat) : List Byte := wordsBytes (s.tid core n)
def execTidr (ra : Reg) (n : BitVec 8) (s : State) : Result :=
  let c := s.cur
  let x := s.ctx c
  let a := x.reg ra
  .next (s.withRegs c [ra] (s.taskOnly c (s.needAligned c a 64
    (if 64 ≤ x.nSt then s.stallFor c 1
     else s.access c a 64 1 false fun s p =>
      s.startAccess c p { id := 0, form := .tidr, inSt := true, va := a.toNat }
        { by_ := .seq c, path := 0, kind := .write, va := a.toNat,
          wr := (p.keys 64).zip (s.tidBytes (coreOf c) n.toNat), dep := x.taintOf ra }))))

def execPart (rd ra : Reg) (s : State) : Result :=
  let c := s.cur
  let x := s.ctx c
  .next (s.withRegs c [rd, ra] (s.fabOnly c
    (s.startTl c { id := 0, form := .part, dst := dstOf rd, x := x.reg ra } id)))

end Sys2Proof.Machine
end

