-- ==== Sys2Proof/Machine/Fab.lean ====
section
/-! DEFINITION. The fabric: tokens, channels, stream grammar, permits, faults, and what every firing shares (R107 to
R127, R134 to R138, R324 to R331, R352 to R355). -/

namespace Sys2Proof.Machine

/-! ### Tokens (R110 to R112) -/

def kDone : Nat := 1
def kBarrier : Nat := 2
def kDrain : Nat := 3
def kCommit : Nat := 4
def kBound : Nat := 5
def kOrder : Nat := 6
def Tok.isData (t : Tok) : Bool := t.kind == 0
def Tok.isDone (t : Tok) : Bool := t.kind == 1
def Tok.isAligned (t : Tok) : Bool := 2 ≤ t.kind && t.kind ≤ 4
def Tok.isStop (t : Tok) : Bool := 8 ≤ t.kind
def Tok.level (t : Tok) : Nat := t.kind - 8
def Tok.lane (t : Tok) (i : Nat) : W32 := nth 0#32 t.lanes i
def Tok.live (t : Tok) (i : Nat) : Bool := t.pred.getLsbD i
def ctlTok (kind : Nat) (taint : Bool) : Tok := { kind := kind, taint := taint }
def stopTok (l : Nat) (taint : Bool) : Tok := ctlTok (8 + l) taint
/-- A DATA token: dead lanes hold 0 (R329). -/
def dataTok (pred : BitVec 16) (taint : Bool) (l : Nat → W32) : Tok :=
  { taint := taint, pred := pred,
    lanes := (List.range 16).map fun i => if pred.getLsbD i then l i else 0#32 }
def allLive : BitVec 16 := 0xFFFF#16
/-- A predicate from a condition on lanes. -/
def predOf (p : Nat → Bool) : BitVec 16 :=
  BitVec.ofNat 16 ((List.range 16).foldl (fun n i => if p i then n + 2 ^ i else n) 0)
/-- The first n lanes live. -/
def firstLanes (n : Nat) : BitVec 16 := predOf fun i => i < n

/-! ### Elements -/

def isVe (e : Nat) : Bool := e < 8
def isMn (e : Nat) : Bool := e == 0x10 || e == 0x11
def isIe (e : Nat) : Bool := 0x20 ≤ e && e < 0x30
def isFu (e : Nat) : Bool := 0x30 ≤ e && e < 0x34
def Fabric.updUnit (f : Fabric) (e u : Nat) (g : Unit_ → Unit_) : Fabric := f.setUnit e u (g (f.unit e u))
def Fabric.firstSlot (f : Fabric) (e : Nat) : Option Nat := (f.usedSlots e).head?
/-- Bits of an extension word (R325). -/
def Node.e (n : Node) (lo w : Nat) : Nat := bits n.ext lo w
/-- The ie element of its row that an ILD or ISMP names (R404, R405). -/
def rowIe (e : Nat) (n : Node) : Nat := 0x20 + 4 * rowOf e + bits n.param 0 2

/-! ### Channels (R113) -/

def Chan.into (c : Chan) (e u p : Nat) : Bool := c.celem == e && c.cslot == u && c.cport == p
def Chan.outOf (c : Chan) (e u o : Nat) : Bool := c.pelem == e && c.pslot == u && c.pport == 8 + o
def Fabric.head (f : Fabric) (e u p : Nat) : Option Tok :=
  match f.chans.find? fun c => c.into e u p with
  | some c => c.q.head?
  | none => none
def Fabric.fed (f : Fabric) (e u p : Nat) : Bool := f.chans.any fun c => c.into e u p
def Fabric.drop (f : Fabric) (e u p : Nat) : Fabric :=
  { f with chans := f.chans.map fun c => if c.into e u p then { c with q := c.q.tail } else c }
/-- R223: slots of an input port that are free but whose notices are held. -/
def Fabric.heldBack (f : Fabric) (e u p : Nat) : Nat := f.late.countP fun x => (x.1, x.2.1, x.2.2.1) == (e, u, p)
/-- Whether an output has space for n more tokens. -/
def Fabric.room (f : Fabric) (e u o n : Nat) : Bool :=
  match f.chans.find? fun c => c.outOf e u o with
  | some c => c.q.length + c.resv + f.heldBack c.celem c.cslot c.cport + n ≤ c.depth
  | none => true
def Fabric.put (f : Fabric) (e u o : Nat) (t : Tok) : Fabric :=
  { f with chans := f.chans.map fun c => if c.outOf e u o then { c with q := c.q ++ [t] } else c }
def Fabric.hold (f : Fabric) (e u o n : Nat) : Fabric :=
  { f with chans := f.chans.map fun c => if c.outOf e u o then { c with resv := c.resv + n } else c }
def Fabric.unhold (f : Fabric) (e u o : Nat) : Fabric :=
  { f with chans := f.chans.map fun c => if c.outOf e u o then { c with resv := c.resv - 1 } else c }
/-- Units that a list of units and the channels that `ok` picks lead to. -/
def Fabric.reachFrom (f : Fabric) (ok : Chan → Bool) : Nat → List (Nat × Nat) → List (Nat × Nat)
  | 0, l => l
  | fuel + 1, l =>
    let more := (f.chans.filterMap fun c =>
      if l.contains (c.pelem, c.pslot) && ok c then some (c.celem, c.cslot) else none).filter fun x => !l.contains x
    if more.isEmpty then l else f.reachFrom ok fuel (l ++ more.eraseDups)
/-- Whether a cycle of channels returns to a unit (R348). -/
def Fabric.feedsBack (f : Fabric) (e u : Nat) : Bool :=
  let first := f.chans.filterMap fun c => if c.pelem == e && c.pslot == u then some (c.celem, c.cslot) else none
  (f.reachFrom (fun _ => true) 120 first).contains (e, u)
/-- Ports that a mask names. -/
def outsOf (m : BitVec 4) : List Nat := (List.range 4).filter fun o => m.getLsbD o
def Fabric.roomAll (f : Fabric) (e u : Nat) (os : List Nat) (n : Nat) : Option Nat :=
  os.find? fun o => !f.room e u o n
def Fabric.putAll (f : Fabric) (e u : Nat) (os : List Nat) (t : Tok) : Fabric :=
  os.foldl (fun f o => f.put e u o t) f
/-- Every output port that a unit writes. -/
def Fabric.outPorts (f : Fabric) (e u : Nat) : List Nat :=
  if isMt e then outsOf (f.node e u).omask else (f.usedSlots e).flatMap fun k => outsOf (f.node e k).omask

/-! ### Ports and their streams (R125, R126, R325) -/

/-- Ports that a node names by codes 1 to 3. -/
def Node.ports (n : Node) : List Nat :=
  [0, 1, 2].filter fun p => n.selA == p + 1 || n.selB == p + 1 || n.selC == p + 1
/-- Port numbers that the selectors of an integrator slot name: 1 to 3 in [9:8] of a port source (R163). -/
def selPort (sel : Nat) : Option Nat := if bits sel 7 2 = 1 then some (bits sel 5 2) else none
def Node.intPorts (n : Node) : List Nat :=
  [0, 1, 2].filter fun p => [n.e 22 10, n.e 32 10, n.e 42 10].any fun x => selPort x == some p
/-- Every port that a unit reads. -/
def Fabric.inPorts (f : Fabric) (e u : Nat) : List Nat :=
  if isMt e then (f.node e u).ports
  else if isIe e then [0, 1, 2].filter fun p => (f.usedSlots e).any fun k => (f.node e k).intPorts.contains p
  else [0, 1, 2].filter fun p => (f.usedSlots e).any fun k => (f.node e k).ports.contains p
/-- R325, R360, R400: the depth of a port. -/
def Fabric.depth (f : Fabric) (e u p : Nat) : Nat :=
  if isIe e then bits ((f.node e ((f.firstSlot e).getD 0)).param) (4 * p) 4
  else if isMt e then (f.node e u).e (4 * p) 4
  else if isMn e then
    match (f.usedSlots e).find? fun k => (f.node e k).ports.contains p with
    | some k => (f.node e k).e (4 * p) 4
    | none => 0
  else (f.node e 0).e (4 * p) 4

def Unit_.port (u : Unit_) (p : Nat) : PortSt := nth {} u.ports p
def Unit_.setPort (u : Unit_) (p : Nat) (x : PortSt) : Unit_ := { u with ports := setNth u.ports p x }

/-- R125, R126: the sub-cause of a token that a port may not take. -/
def PortSt.bad (x : PortSt) (depth : Nat) (t : Tok) : Option Nat :=
  if t.isAligned then none
  else if x.done then some 1
  else if t.kind == 7 || t.kind == kBound || t.kind == kOrder then some 5
  else if t.isStop && depth ≤ t.level then some 2
  else if t.isDone && 1 ≤ depth && !x.closed then some 3
  else if !t.isDone && x.closed then some 6
  else none
/-- What a port has seen once it takes a token. -/
def PortSt.after (x : PortSt) (depth : Nat) (t : Tok) : PortSt :=
  if t.isAligned then { x with taken := x.taken + 1, fibres := 0, fibres1 := 0, open1 := false, atEdge := true }
  else
    let l := t.level
    { taken := x.taken + 1
      done := x.done || t.isDone
      closed := x.closed || (t.isStop && t.level + 1 == depth)
      fibres := if t.isStop && (l == 0 || !x.atEdge) then x.fibres + 1 else x.fibres
      fibres1 := if t.isStop && (l == 1 || (1 < l && x.open1)) then x.fibres1 + 1 else x.fibres1
      open1 := t.isData || (t.isStop && l == 0)
      atEdge := !t.isData }
/-- A token taken from a port. -/
def Fabric.take (f : Fabric) (e u p : Nat) (t : Tok) : Fabric :=
  (f.drop e u p).updUnit e u fun x => x.setPort p ((x.port p).after (f.depth e u p) t)
/-- The sub-cause at the head of a port. -/
def Fabric.badHead (f : Fabric) (e u p : Nat) (t : Tok) : Option Nat := ((f.unit e u).port p).bad (f.depth e u p) t

/-! ### What a firing can come to -/

inductive Act where
  /-- Not a firing of this machine state; nothing happens. -/
  | no
  /-- A row cycle of a class of R137: 0 idle, 3 to 6 missing on a, b, c, m, 7 to 10 blocked on o0 to o3. -/
  | wait (cls : Nat)
  | ok (f : Fabric)
  /-- A later stage of a firing (R120): the unit's row cycle has the class of its stage 0. -/
  | stage (f : Fabric)
  /-- A firing, or a row cycle of a class, that also changes what lies outside the fabric. -/
  | full (s : State)
  | waitS (s : State) (cls : Nat)
  /-- A logged store held at a full log, with the granule's address (R129). -/
  | waitLog (addr : Nat)
  /-- Malformed stream: slot, port, sub-cause. -/
  | bad (k port sub : Nat)
  /-- Another fault: slot, kind, port, detail, word 4. -/
  | flt (k kind port detail w4 : Nat)
  /-- A fault that gives word 1 itself: slot, kind, word 1, detail, word 4 (R135, R166, R408). -/
  | fltI (k kind w1 detail w4 : Nat)
  /-- A memory error at port m that an access met, with what it did to the memory (R59): slot. -/
  | fltM (s : State) (k : Nat)
  deriving Repr

/-- R137, R440: a unit that is blocked on an output counts so whatever it lacks, and one that has taken DONE at every port
it reads lacks no operand; it is idle. -/
def Fabric.waitClass (f : Fabric) (e u c : Nat) : Nat :=
  let ps := f.inPorts e u
  if c < 3 ∨ 6 < c then c
  else match f.roomAll e u (f.outPorts e u) 1 with
    | some o => 7 + o
    | none => if c ≤ 5 && !ps.isEmpty && ps.all (fun p => ((f.unit e u).port p).done) then 0 else c

/-- R137: the class of a row cycle in which nothing happens at a unit. -/
def Fabric.restClass (f : Fabric) (e u : Nat) : Nat :=
  match f.roomAll e u (f.outPorts e u) 1 with
  | some o => 7 + o
  | none => match (f.inPorts e u).find? fun p => (f.head e u p).isNone with
    | some p => f.waitClass e u (3 + p)
    | none => 0
/-- The unit's row cycle at a time has a class; one in which it fires stays so. -/
def Fabric.tally (f : Fabric) (now e u cls : Nat) : Fabric :=
  let f := f.updUnit e u fun x =>
    let x := x.upTo now (f.divOf e)
    { x with cls := if x.cls = 1 then 1 else cls, rest := if cls = 1 then f.restClass e u else cls, stuckAt := none }
  if cls = 1 then { f with quietSince := now, atEdge := false } else f

/-- R135: the words of a fault record; `w1` is its word 1. -/
def Fabric.faultWords (f : Fabric) (core e k kind port w1 detail w4 : Nat) : List W64 :=
  let u := unitSlot e k
  let x := f.unit e u
  let hk (p : Nat) : Nat := match f.head e u p with | some t => t.kind | none => 0
  [pack [(kind, 60), (clusterOf core, 57), (core % 32, 52), (e, 44), (k, 40), (x.stage, 36), (port, 32)],
   w64 w1, w64 detail,
   pack [(hk 0, 0), (hk 1, 4), (if port < 3 then f.depth e u port else 0, 8)], w64 w4, 0#64, 0#64, 0#64]
/-- R134, R135, R166: a fault freezes its unit; the first of the region is recorded, of one cycle's the one with the lowest
ELEM and SLOT, and the others are counted. An ie element's fault register records an integrator fault of slot `k`. -/
def Fabric.raiseW (f : Fabric) (now core e k kind port w1 detail w4 : Nat) : Fabric :=
  let ws := f.faultWords core e k kind port w1 detail w4
  let reg := !isIe e || kind == 2 || kind == 3
  let f := f.updUnit e (unitSlot e k) fun x =>
    { x.upTo now (f.divOf e) with
      frozen := true
      cls := 0
      rest := 0
      f0 := if !reg then x.f0 else if isIe e then pack [(kind, 60), (k, 56), (w1, 0)] else nth 0#64 ws 0
      f1 := if reg then w64 detail else x.f1 }
  if f.faultWord.isEmpty then { f with faultWord := ws, faultAt := now }
  else
    let f := { f with more := satAdd f.more 1 0xFFFF }
    if f.faultAt = now ∧ f.recorded = false ∧ 16 * e + k < bits (nth 0#64 f.faultWord 0).toNat 40 12 then
      { f with faultWord := ws }
    else f
/-- A fault whose word 1 counts the tokens that its port took before. -/
def Fabric.raise (f : Fabric) (now core e k kind port detail w4 : Nat) : Fabric :=
  f.raiseW now core e k kind port (if port < 3 then ((f.unit e (unitSlot e k)).port port).taken else 0) detail w4

/-- Whether a unit of a running region may act: not frozen, not stopped, and past no edge it must stop at (R234). -/
def Fabric.live (f : Fabric) (e u : Nat) : Bool :=
  f.st == .running && !f.halted && !f.held && !(f.unit e u).frozen &&
    !(f.stopAt && (f.atEdge || f.commitSeen.contains (unitKey e u)))

/-- R120: a firing that has begun completes, at a unit that is frozen since too. -/
def Fabric.flows (f : Fabric) : Bool := f.st == .running && !f.halted && !f.held
/-- R107: a unit fires at most once in a row cycle; whether it has not yet fired in this one. -/
def Fabric.rested (f : Fabric) (now e u : Nat) : Bool := ((f.unit e u).upTo now (f.divOf e)).cls != 1
/-- Whether an act is a firing or a fault of the unit's row cycle. -/
def Act.begins : Act → Bool
  | .no | .wait _ | .stage _ | .waitS .. | .waitLog _ => false
  | _ => true

/-- R223: the notices of the slots that a unit has freed since `old` are held `d` row cycles of the unit. -/
def Fabric.holdFreed (f old : Fabric) (now d e u : Nat) : Fabric :=
  if d = 0 then f
  else { f with late := f.late ++ (f.inPorts e u).flatMap fun p =>
    List.replicate (((f.unit e u).port p).taken - ((old.unit e u).port p).taken) (e, u, p, now + d * f.divOf e) }
/-- R223: extra row cycles of a freed-slot notice in a core. -/
def State.holdCycles (s : State) (core : Nat) : Nat := s.throttleOf (clusterOf core) (clusterOf core)
/-- A firing of a unit: its slots freed, its row cycle counted. -/
def State.fired (s old : State) (core e u : Nat) : State :=
  s.updFab core fun f => (f.holdFreed (old.fab core) s.clk.fab (old.holdCycles core) e u).tally s.clk.fab e u 1

/-- A row cycle of a unit. -/
def State.act (s : State) (core e u : Nat) (g : Fabric → Act) : State :=
  let f := s.fab core
  let now := s.clk.fab
  let a := g f
  if !f.live e u then match a with
    | .stage h => if f.flows then s.setFab core { h with quietSince := now } else s
    | _ => s
  else if a.begins && !f.rested now e u then s
  else match a with
    | .no => s
    | .wait c => s.setFab core (f.tally now e u (f.waitClass e u c))
    | .ok f => (s.setFab core f).fired s core e u
    | .stage f => s.setFab core { f with quietSince := now, atEdge := false }
    | .full t => t.fired s core e u
    | .waitS t c => t.updFab core fun f => f.tally now e u (f.waitClass e u c)
    | .waitLog a => s.setFab core ((f.tally now e u 7).updUnit e u fun x => { x with
        stuckAt := some (match (f.unit e u).stuckAt with | some t => t.1 | none => now, a) })
    | .bad k p sub => s.setFab core (f.raise now core e k 1 p sub 0)
    | .flt k kind p d w4 => s.setFab core (f.raise now core e k kind p d w4)
    | .fltI k kind w1 d w4 => s.setFab core (f.raiseW now core e k kind 0 w1 d w4)
    | .fltM t k => t.updFab core fun f => f.raise now core e k 7 3 0xA 0

/-! ### Permits (R352, R354, R355) -/

/-- Whether a ve's slot 0 is a count-mode ISMP (R354, R405). -/
def Fabric.countSampler (f : Fabric) (e : Nat) : Bool :=
  isVe e && (f.node e 0).opc == 0x63 && (f.node e 0).selA == 0
/-- The CNT or CSTRM whose leaf a unit is. -/
def Fabric.leafCtl (f : Fabric) (e u : Nat) : Option Nat :=
  if isCn e || f.countSampler e then none
  else ((List.range 16).map (0x40 + ·)).find? fun c =>
    ((f.node c 0).opc == 0x38 || (f.node c 0).opc == 0x3B) && (f.unit c 0).stage == (f.unit e u).stage
def Fabric.underCnt (f : Fabric) (e u : Nat) : Bool :=
  match f.leafCtl e u with
  | some c => (f.node c 0).opc == 0x38
  | none => false
def isCtl (opc : Nat) : Bool := 0x38 ≤ opc && opc ≤ 0x3B
def cns : List Nat := (List.range 16).map (0x40 + ·)
def Node.isRoot (n : Node) : Bool := n.e 4 1 == 1
/-- Children in ORDER. -/
def Fabric.children (f : Fabric) (c : Nat) : List Nat :=
  (List.range 16).filterMap fun j => cns.find? fun x =>
    let n := f.node x 0
    isCtl n.opc && !n.isRoot && 0x40 + n.e 0 4 == c && n.e 5 4 == j
/-- R453: whether a counter's commit of its last iteration still has to go before its leaf's DONE. A counter with
controllers under it writes its own DONE first (log entry 31). -/
def Fabric.doneHeld (f : Fabric) (e u : Nat) : Bool :=
  match f.leafCtl e u with
  | some c => (f.node c 0).opc == 0x38 && (f.children c).isEmpty &&
    ((f.unit c 0).ctl.due != 0 || (f.unit e u).inject.any fun y => y.ahead == 0 && y.mid)
  | none => false
/-- R355: a leaf without a permit does not fire. -/
def Fabric.noPermit (f : Fabric) (e u : Nat) : Bool :=
  (f.leafCtl e u).isSome && (f.unit e u).permits.isEmpty
/-- R137: what a unit without a permit does where it would fire with one: it is blocked or lacks an operand, else idle. -/
def Act.unpermitted : Act → Act
  | .no => .no
  | .stage f => .stage f
  | .wait c | .waitS _ c => .wait c
  | .waitLog _ => .wait 7
  | _ => .wait 0
def Fabric.permitted (f : Fabric) (e u : Nat) (a : Act) : Act := if f.noPermit e u then a.unpermitted else a

/-- A permit spent and reported; aligned tokens that waited for it come nearer. -/
def Unit_.spent (x : Unit_) : Unit_ := { x with
  permits := x.permits.tail, doneOwed := x.doneOwed + 1, spentN := x.spentN + 1, inject := x.inject.map fun e => { e with ahead := e.ahead - 1 } }

/-- R355: what a firing does to the permit it used: under a CNT it is spent and reported; under a CSTRM once DONE has
been taken on every port read, and the grammar starts again. A unit that reads no port fires once for its permit, and
once more to write its DONE; `pos` is 1 between the two. -/
def Fabric.spend (f : Fabric) (e u : Nat) : Fabric :=
  let free := (f.inPorts e u).isEmpty
  match f.leafCtl e u with
  | none => f
  | some _ =>
    if f.underCnt e u then f.updUnit e u Unit_.spent
    else if free && (f.unit e u).pos == 0 then f.updUnit e u fun x => { x with pos := 1 }
    else if (f.inPorts e u).all (fun p => ((f.unit e u).port p).done) then
      f.updUnit e u fun x => { x.spent with
        ports := x.ports.map fun p => { p with done := false, closed := false }
        pos := if free then 0 else x.pos }
    else f
/-- What a firing of a unit that reads no port stands for: a DATA token, or the DONE of its permit (R164, R330, R355). -/
def Fabric.ownLead (f : Fabric) (e u : Nat) : Tok :=
  if (f.inPorts e u).isEmpty && (f.unit e u).pos == 1 then ctlTok kDone false else {}
/-- R357: an aligned token that goes before the next permit or round. -/
def Unit_.injectDue (x : Unit_) : Bool := x.inject.any fun e => e.ahead == 0 && !e.mid

/-! ### Heads of an elementwise unit (R119, R126) -/

inductive Heads where
  | miss (p : Nat)
  | bad (p sub : Nat)
  | toks (l : List (Nat × Tok))
  deriving Repr

/-- R126: which head a mismatch names. -/
def mismatch (l : List (Nat × Tok)) : Option Nat :=
  match l with
  | [] => none
  | (_, t) :: _ =>
    if l.all fun x => x.2.kind == t.kind then none
    else if l.any fun x => x.2.isData then (l.find? fun x => !x.2.isData).map Prod.fst
    else
      let low := l.foldl (fun m x => if x.2.isStop then Nat.min m x.2.level else m) 8
      (l.find? fun x => x.2.isStop && x.2.level == low).map Prod.fst

/-- The heads of the ports a firing takes together. -/
def Fabric.heads (f : Fabric) (e u : Nat) (ps : List Nat) : Heads :=
  match ps.find? fun p => (f.head e u p).isNone with
  | some p => .miss p
  | none =>
    let l := ps.filterMap fun p => (f.head e u p).map fun t => (p, t)
    if !l.isEmpty && l.all fun x => x.2.isAligned then .miss (nth 0 ps 0)
    else match l.find? fun x => x.2.isAligned with
      | some _ => match l.find? fun x => !x.2.isAligned with
        | some x => .miss x.1
        | none => .miss 0
      | none =>
        match l.find? fun x => (f.badHead e u x.1 x.2).isSome with
        | some x => .bad x.1 ((f.badHead e u x.1 x.2).getD 0)
        | none => match mismatch l with
          | some p => .bad p 4
          | none => .toks l

def Fabric.takeAll (f : Fabric) (e u : Nat) (l : List (Nat × Tok)) : Fabric :=
  l.foldl (fun f x => f.take e u x.1 x.2) f

/-! ### Node arithmetic helpers -/

/-- R326: the immediate of a node. -/
def Node.imm (n : Node) : W32 :=
  let p := n.param % 2 ^ 24
  let h := p % 2 ^ 16
  match n.ty with
  | 1 => BitVec.ofNat 32 (p * 2 ^ 8)
  | 2 | 3 => BitVec.ofNat 32 (if bits n.fn 5 1 = 1 then h + h * 2 ^ 16 else h)
  | 4 => BitVec.ofNat 32 (p % 256 * 0x01010101)
  | 5 => BitVec.ofNat 32 (h + h * 2 ^ 16)
  | _ => BitVec.ofNat 32 (wrapInt (sextNat p 24) 32)

/-- R271: the predicate of a result from its DATA operands. -/
def Node.pred (n : Node) (l : List Tok) : BitVec 16 :=
  match n.pm with
  | 0 => l.foldl (fun a t => a &&& t.pred) allLive
  | 1 => match l with
    | t :: _ => t.pred
    | [] => allLive
  | _ => allLive

/-! ### The vector pipeline (R120, R327, R328, R330) -/

/-- Operand sources of a firing's slot. -/
def Node.source (n : Node) (y : Fly) (sel : Nat) : Tok :=
  match sel with
  | 1 => y.a
  | 2 => y.b
  | 3 => y.c
  | 4 => y.prev
  | 5 => dataTok allLive false fun _ => n.imm
  | _ => {}
def Node.operands (n : Node) (y : Fly) : List Tok := ([n.selA, n.selB, n.selC].filter (· != 0)).map (n.source y)

/-- What a slot computes from its DATA operands: operands, predicate of R271, value carried by the slot. -/
abbrev SlotOp := Node → List Tok → BitVec 16 → Option W32 → Tok × Option W32

/-- The firing's kind token: what passes when it holds no DATA. -/
def Fly.lead (y : Fly) (ps : List Nat) : Tok :=
  match ps with
  | 0 :: _ => y.a
  | 1 :: _ => y.b
  | 2 :: _ => y.c
  | _ => y.prev
def Fly.taint (y : Fly) : Bool := y.a.taint || y.b.taint || y.c.taint || y.prev.taint

/-- One slot of a firing: its result, written to the space reserved for it. FORK's is its operand bit for bit (R343). -/
def Fabric.runSlot (f : Fabric) (e k : Nat) (y : Fly) (op : SlotOp) : Fabric :=
  let n := f.node e k
  let lead := y.lead (f.inPorts e 0)
  let carried := SMap.get none (f.unit e 0).scan k
  let r : Tok × Option W32 :=
    if n.opc = 0x30 then (nth {} (n.operands y) 0, carried)
    else if lead.isData then
      let l := n.operands y
      let o := op n l (n.pred l) carried
      ({ o.1 with taint := y.taint }, o.2)
    else ({ lead with taint := y.taint }, none)
  let f := f.updUnit e 0 fun x => { x with scan := SMap.set none x.scan k r.2 }
  let f := (outsOf n.omask).foldl (fun f o => (f.unhold e 0 o).put e 0 o r.1) f
  match (f.usedSlots e).find? (k < ·) with
  | some j => f.updUnit e 0 fun x => { x with fly := x.fly ++ [{ y with next := j, prev := r.1 }] }
  | none => f

/-- R404: an ILD's ie element that is frozen stops its ve. -/
def Fabric.ildHeld (f : Fabric) (e : Nat) : Bool :=
  isVe e && (f.usedSlots e).any fun k => (f.node e k).opc == 0x60 && (f.unit (rowIe e (f.node e k)) 0).frozen
/-- What a slot of a ve or fu works on: slot 0 (or the first that holds an operation) takes the tokens and reserves
the outputs of every slot; a later slot takes over the oldest firing that has reached it. -/
def Fabric.vecTake (f : Fabric) (e k : Nat) : Except Act (Fabric × Fly) :=
  if f.firstSlot e = some k then
    let ps := f.inPorts e 0
    match f.roomAll e 0 (f.outPorts e 0) 1 with
      | some o => .error (.wait (7 + o))
      | none => if f.ildHeld e then .error (.wait 7) else match f.heads e 0 ps with
        | .miss p => .error (.wait (3 + p))
        | .bad p sub => .error (if f.noPermit e 0 then .wait 0 else .bad 0 p sub)
        | .toks l =>
          let g (p : Nat) : Tok := match l.find? fun x => x.1 == p with | some x => x.2 | none => {}
          if f.noPermit e 0 ∨ (ps.isEmpty && (f.unit e 0).injectDue) = true then .error (.wait 0) else
          .ok ((f.outPorts e 0).foldl (fun f o => f.hold e 0 o 1) (f.takeAll e 0 l), ⟨k, g 0, g 1, g 2, f.ownLead e 0⟩)
  else match (f.unit e 0).fly.find? fun y => y.next == k with
    | none => .error .no
    | some y => .ok (f.updUnit e 0 fun x => { x with fly := x.fly.eraseP fun z => z.next == k }, y)
/-- The slot's result written; the firing's permit is spent by the slot that took its tokens. -/
def Fabric.vecDone (f : Fabric) (e k : Nat) (y : Fly) (op : SlotOp) : Fabric :=
  let g := f.runSlot e k y op
  if f.firstSlot e = some k then g.spend e 0 else g
/-- What a slot's firing comes to: stage 0 fires the unit, later slots are stages of it. -/
def Fabric.vecFired (f : Fabric) (e k : Nat) : Act := if f.firstSlot e = some k then .ok f else .stage f
/-- The firing of a slot. -/
def Fabric.vecAct (f : Fabric) (e k : Nat) (op : SlotOp) : Act :=
  match f.vecTake e k with
  | .error a => a
  | .ok (g, y) => (g.vecDone e k y op).vecFired e k

/-- A firing of the node with operation code `code` in a ve or fu slot. -/
def State.vec (s : State) (core e k code : Nat) (op : SlotOp) : State :=
  s.act core e 0 fun f => if (f.node e k).opc = code ∧ (isVe e || isFu e) = true then f.vecAct e k op else .no

end Sys2Proof.Machine
end

