-- ==== Sys2Proof/Machine/Vec.lean ====
section
/-! DEFINITION. Vector and predicate node firings (R329 to R343). -/

namespace Sys2Proof.Machine

/-! ### Elements of a lane -/

def Node.pk (n : Node) : Bool := bits n.fn 5 1 == 1 && (n.ty == 2 || n.ty == 3)
/-- A function of FP elements on lanes: one element, or two 16-bit ones with `.pk` (R331). -/
def Node.onFp (n : Node) (f : List Fp → Nat) (l : List W32) : W32 :=
  let dec (w : Nat) : Fp := (fmtOf n.ty).decode w
  if n.ty = 1 then BitVec.ofNat 32 (f (l.map fun w => dec w.toNat))
  else
    let lo := f (l.map fun w => dec (w.toNat % 2 ^ 16))
    if n.pk then BitVec.ofNat 32 (lo + f (l.map fun w => dec (w.toNat / 2 ^ 16)) * 2 ^ 16)
    else BitVec.ofNat 32 lo
/-- Unsigned elements of an integer lane. -/
def laneNats (t : Nat) (w : W32) : List Nat := (List.range (perLane t)).map fun j => bits w.toNat (intBits t * j) (intBits t)
/-- A function of integer elements of the same position. -/
def Node.onInt (n : Node) (f : List Int → Int) (l : List W32) : W32 :=
  intsLane n.ty ((List.range (perLane n.ty)).map fun j => f (l.map fun w => nth 0 (laneInts n.ty w) j))
def Node.onNat (n : Node) (f : List Nat → Nat) (l : List W32) : W32 :=
  intsLane n.ty ((List.range (perLane n.ty)).map fun j => (f (l.map fun w => nth 0 (laneNats n.ty w) j) : Nat))
/-- R331 `.sat`. -/
def Node.sat (n : Node) (x : Int) : Int := if bits n.fn 0 1 = 1 then clampInt x (intMin n.ty) (intMax n.ty) else x
def Node.uns (n : Node) : Bool := bits n.fn 1 1 == 1

/-- R361, R443: a field of an address token in a dead lane goes through a vector operation as a value does. -/
def fieldLane (l : List Tok) (i : Nat) : Bool := i < 4 && l.head?.any fun t => !t.live i && t.lane i != 0#32
/-- R329: every lane computed, then the predicate applied; no carried value. -/
def lanewise (g : Node → List W32 → W32) : SlotOp := fun n l p c =>
  ({ pred := p, lanes := (List.range 16).map fun i =>
      if p.getLsbD i || fieldLane l i then g n (l.map fun t => t.lane i) else 0#32 }, c)

def l0 {α : Type} (d : α) (l : List α) : α := nth d l 0
def l1 {α : Type} (d : α) (l : List α) : α := nth d l 1
def l2 {α : Type} (d : α) (l : List α) : α := nth d l 2

/-- Arithmetic of FP or integer elements (R332). -/
def arith (f : Nat → List Fp → Fp) (g : List Int → Int) : SlotOp := lanewise fun n l =>
  if isFp n.ty then n.onFp (fun x => (fmtOf n.ty).encode n.rm (f n.rm x)) l else n.onInt (fun x => n.sat (g x)) l

def opVadd : SlotOp := arith (fun rm x => Fp.sum rm x) fun x => l0 0 x + l1 0 x
def opVsub : SlotOp := arith (fun rm x => Fp.sum rm [l0 .nan x, (l1 .nan x).negate]) fun x => l0 0 x - l1 0 x
def opVmul : SlotOp := arith (fun _ x => (l0 .nan x).mul (l1 .nan x)) fun x => l0 0 x * l1 0 x
def opVfma : SlotOp := arith (fun rm x => Fp.sum rm [(l0 .nan x).mul (l1 .nan x), l2 .nan x]) fun x => l0 0 x
def opVfms : SlotOp :=
  arith (fun rm x => Fp.sum rm [(l0 .nan x).mul (l1 .nan x), (l2 .nan x).negate]) fun x => l0 0 x
def opVmad : SlotOp := arith (fun _ x => l0 .nan x) fun x => l0 0 x * l1 0 x + l2 0 x

/-- R333: minimum or maximum of FP values; NaN wins, −0 lies below +0. -/
def Fp.minMax (mx : Bool) (a b : Fp) : Fp :=
  if a.isNan || b.isNan then .nan
  else if (a.lt b || (a.eq b && a.isZero true && b.isZero false)) != mx then a else b
def opVminMax (mx : Bool) : SlotOp := lanewise fun n l =>
  if isFp n.ty then n.onFp (fun x => (fmtOf n.ty).encode 0 (Fp.minMax mx (l0 .nan x) (l1 .nan x))) l
  else if n.uns then n.onNat (fun x => if mx then Nat.max (l0 0 x) (l1 0 x) else Nat.min (l0 0 x) (l1 0 x)) l
  else n.onInt (fun x => if mx then max (l0 0 x) (l1 0 x) else min (l0 0 x) (l1 0 x)) l
def Fp.abs : Fp → Fp
  | .nan => .nan
  | .inf _ => .inf false
  | .fin _ m e => .fin false m e
def opVabs : SlotOp := arith (fun _ x => (l0 .nan x).abs) fun x => ((l0 0 x).natAbs : Int)
def opVneg : SlotOp := arith (fun _ x => (l0 .nan x).negate) fun x => -(l0 0 x)

def bitwise (g : W32 → W32 → W32) : SlotOp := lanewise fun _ l => g (l0 0#32 l) (l1 0#32 l)
/-- R332: shifts by y mod n. -/
def opShift (g : Nat → Nat → Nat → Nat) : SlotOp := lanewise fun n l =>
  n.onNat (fun x => g (intBits n.ty) (l0 0 x) (l1 0 x % intBits n.ty)) l
def shSha (n x y : Nat) : Nat := wrapInt (sextNat x n / 2 ^ y) n
/-- The range of a TYPE code, unsigned when `u`. -/
def satTo (t : Nat) (u : Bool) (x : Int) : Int :=
  if u then clampInt x 0 (2 ^ intBits t - 1) else clampInt x (intMin t) (intMax t)
/-- R334. -/
def opVrshr : SlotOp := lanewise fun n l =>
  let x := sextNat (l0 0#32 l).toNat 32
  let k := (l1 0#32 l).toNat % 32
  let t := x + if k = 0 then 0 else 2 ^ (k - 1)
  BitVec.ofNat 32 (wrapInt (satTo (bits n.fn 2 4) n.uns (t / 2 ^ k)) 32)

/-- R335: conditions 0 eq, 1 ne, 2 lt, 3 le, 4 gt, 5 ge; `lt`, `eq` and unordered given. -/
def condOf (c : Nat) (unord lt eq : Bool) : Bool :=
  match c with
  | 0 => eq && !unord
  | 1 => unord || !eq
  | 2 => lt && !unord
  | 3 => (lt || eq) && !unord
  | 4 => !lt && !eq && !unord
  | _ => !lt && !unord
def Node.cond (n : Node) : Nat := bits n.fn 2 3
def Node.fpCond (n : Node) (x : List Fp) : Bool :=
  let a := l0 .nan x
  let b := l1 .nan x
  condOf n.cond (a.isNan || b.isNan) (a.lt b) (a.eq b)
/-- All ones, or 0, in each element where the condition holds. -/
def Node.mask (n : Node) (l : List W32) : W32 :=
  if isFp n.ty then n.onFp (fun x => if n.fpCond x then (if n.ty = 1 then 2 ^ 32 - 1 else 2 ^ 16 - 1) else 0) l
  else if n.uns then
    n.onNat (fun x => if condOf n.cond false (l0 0 x < l1 0 x) (l0 0 x == l1 0 x) then 2 ^ intBits n.ty - 1 else 0) l
  else n.onInt (fun x => if condOf n.cond false (l0 0 x < l1 0 x) (l0 0 x == l1 0 x) then -1 else 0) l
def opVcmp : SlotOp := fun n l p c =>
  let m (i : Nat) : W32 := n.mask (l.map fun t => t.lane i)
  if bits n.fn 0 1 = 0 then (dataTok p false m, c)
  else (dataTok (predOf fun i => p.getLsbD i && m i != 0#32) false fun i => (l0 {} l).lane i, c)
def opVsel : SlotOp := lanewise fun _ l => if l2 0#32 l = 0#32 then l1 0#32 l else l0 0#32 l

/-- R189: one element converted between lane types. -/
def convert (src dst rm : Nat) (w : W32) : W32 :=
  if isFp src then
    let x := (fmtOf src).decode (if src = 1 then w.toNat else w.toNat % 2 ^ 16)
    if isFp dst then fpLane dst rm x else BitVec.ofNat 32 (wrapInt (x.toInt rm (intMin dst) (intMax dst)) 32)
  else
    let v := sextNat w.toNat (intBits src)
    if isFp dst then fpLane dst rm (Fp.ofInt v 0) else BitVec.ofNat 32 (wrapInt (clampInt v (intMin dst) (intMax dst)) 32)
def opVcvt : SlotOp := lanewise fun n l => convert n.ty (bits n.fn 2 4) n.rm (l0 0#32 l)
def opVsat : SlotOp := lanewise fun n l =>
  BitVec.ofNat 32 (wrapInt (satTo (bits n.fn 2 4) n.uns (sextNat (l0 0#32 l).toNat 32)) 32)

/-- R194: a transcendental of each element. -/
def opTrans (f : Fp → Fp) : SlotOp := lanewise fun n l => n.onFp (fun x => (flushed n.ty (f (l0 .nan x))).toNat) l

/-- R338. -/
def opVdot4 : SlotOp := lanewise fun n l =>
  let x := laneInts n.ty (l0 0#32 l)
  let y := laneInts n.ty (l1 0#32 l)
  let t := (x.zip y).foldl (fun a e => a + e.1 * e.2) (sextNat (l2 0#32 l).toNat 32)
  BitVec.ofNat 32 (wrapInt (if bits n.fn 0 1 = 1 then clampInt t (-2 ^ 31) (2 ^ 31 - 1) else t) 32)

/-! ### Reductions (R193, R339, R340) -/

/-- One combination: OP 0 add, 1 min, 2 max, 3 and, 4 or, 5 xor. -/
def combine (ty rm op : Nat) (u : Bool) (x y : W32) : W32 :=
  if isFp ty then
    match op with
    | 0 => fpLane ty rm (Fp.sum rm [laneFp ty x, laneFp ty y])
    | 1 => fpLane ty 0 (Fp.minMax false (laneFp ty x) (laneFp ty y))
    | _ => fpLane ty 0 (Fp.minMax true (laneFp ty x) (laneFp ty y))
  else
    match op with
    | 0 => x + y
    | 1 => if (if u then x.ult y else x.slt y) then x else y
    | 2 => if (if u then x.ult y else x.slt y) then y else x
    | 3 => x &&& y
    | 4 => x ||| y
    | _ => x ^^^ y
/-- R181, R182: a lane that passes through an operation of floating-point lanes: its value as the operation would write
it. -/
def canonLane (ty : Nat) (w : W32) : W32 := if isFp ty then fpLane ty 0 (laneFp ty w) else w
def Tok.canon (t : Tok) (ty : Nat) : Tok := { t with lanes := t.lanes.map (canonLane ty) }
def pairUp (f : W32 → W32 → W32) : List (Option W32) → List (Option W32)
  | a :: b :: t => (match a, b with
    | some x, some y => some (f x y)
    | some x, none => some x
    | none, y => y) :: pairUp f t
  | l => l
/-- The fixed tree over 16 lanes; none when every lane is dead. -/
def treeReduce (f : W32 → W32 → W32) (t : Tok) : Option W32 :=
  match pairUp f (pairUp f (pairUp f (pairUp f ((List.range 16).map fun i => if t.live i then some (t.lane i) else none)))) with
  | [x] => x
  | _ => none
def opVred : SlotOp := fun n l _ c =>
  let t := l0 {} l
  let bc := bits n.fn 0 1 = 1
  match treeReduce (combine n.ty n.rm n.cond n.uns) (t.canon n.ty) with
  | some v => (dataTok (if bc then allLive else 1#16) false fun _ => v, c)
  | none => (dataTok 0#16 false fun _ => 0#32, c)

/-- The running fold along the lanes. -/
def scanLanes (f : W32 → W32 → W32) (t : Tok) : Nat → Nat → Option W32 → List W32 × Option W32
  | 0, _, acc => ([], acc)
  | fuel + 1, i, acc =>
    if t.live i then
      let v := match acc with | some a => f a (t.lane i) | none => t.lane i
      let r := scanLanes f t fuel (i + 1) (some v)
      (v :: r.1, r.2)
    else
      let r := scanLanes f t fuel (i + 1) acc
      (0#32 :: r.1, r.2)
def opVscan : SlotOp := fun n l _ c =>
  let t := l0 {} l
  let carry := bits n.fn 0 1 = 1
  let r := scanLanes (combine n.ty n.rm n.cond n.uns) (t.canon n.ty) 16 0 (if carry then c else none)
  (dataTok t.pred false fun i => nth 0#32 r.1 i, if carry then r.2 else none)

/-! ### Lane movement (R341) -/

def opVperm : SlotOp := fun n l _ c =>
  let x := l0 {} l
  let y := l1 {} l
  let k := n.param % 16
  let src (i : Nat) : Nat := match n.fn % 4 with
    | 0 => (y.lane i).toNat % 16
    | 1 => (i + k) % 16
    | 2 => Nat.xor i k
    | _ => Nat.xor i (2 ^ k - 1)
  (dataTok (predOf fun i => x.live (src i) && (n.fn % 4 != 0 || y.live i)) false fun i => x.lane (src i), c)
def opVbcst : SlotOp := fun n l _ c =>
  let x := l0 {} l
  let k := n.param % 16
  (dataTok (if x.live k then allLive else 0#16) false fun _ => x.lane k, c)
def opVmov : SlotOp := lanewise fun _ l => l0 0#32 l
/-- R332 VCLS: bits after the sign bit that equal it. -/
def clsOf (n x : Nat) : Nat :=
  let s := bits x (n - 1) 1
  ((List.range (n - 1)).takeWhile fun j => bits x (n - 2 - j) 1 == s).length
def opVcls : SlotOp := lanewise fun n l => n.onNat (fun x => clsOf (intBits n.ty) (l0 0 x)) l

/-! ### Predicates (R342), FORK (R343) -/

def opPred (f : BitVec 16 → BitVec 16 → BitVec 16) : SlotOp := fun n l _ c =>
  let x := l0 {} l
  let y := l1 {} l
  let py := if bits n.fn 0 1 = 1 then predOf fun i => y.lane i != 0#32 else y.pred
  (dataTok (f x.pred py) false fun i => x.lane i, c)
def opPnot : SlotOp := fun _ l _ c =>
  let x := l0 {} l
  (dataTok (~~~x.pred) false fun i => x.lane i, c)
/-- Every token bit for bit. -/
def opFork : SlotOp := fun _ l _ c => (l0 {} l, c)

/-! ### Firings -/

def execVadd (core elem k : Nat) (s : State) : Result := .next (s.vec core elem k 0x01 opVadd)
def execVsub (core elem k : Nat) (s : State) : Result := .next (s.vec core elem k 0x02 opVsub)
def execVmul (core elem k : Nat) (s : State) : Result := .next (s.vec core elem k 0x03 opVmul)
def execVfma (core elem k : Nat) (s : State) : Result := .next (s.vec core elem k 0x04 opVfma)
def execVfms (core elem k : Nat) (s : State) : Result := .next (s.vec core elem k 0x05 opVfms)
def execVmin (core elem k : Nat) (s : State) : Result := .next (s.vec core elem k 0x06 (opVminMax false))
def execVmax (core elem k : Nat) (s : State) : Result := .next (s.vec core elem k 0x07 (opVminMax true))
def execVabs (core elem k : Nat) (s : State) : Result := .next (s.vec core elem k 0x08 opVabs)
def execVneg (core elem k : Nat) (s : State) : Result := .next (s.vec core elem k 0x09 opVneg)
def execVand (core elem k : Nat) (s : State) : Result := .next (s.vec core elem k 0x0A (bitwise (· &&& ·)))
def execVor (core elem k : Nat) (s : State) : Result := .next (s.vec core elem k 0x0B (bitwise (· ||| ·)))
def execVxor (core elem k : Nat) (s : State) : Result := .next (s.vec core elem k 0x0C (bitwise (· ^^^ ·)))
def execVnot (core elem k : Nat) (s : State) : Result := .next (s.vec core elem k 0x0D (bitwise fun x _ => ~~~x))
def execVshl (core elem k : Nat) (s : State) : Result := .next (s.vec core elem k 0x0E (opShift fun _ x y => x * 2 ^ y))
def execVshr (core elem k : Nat) (s : State) : Result := .next (s.vec core elem k 0x0F (opShift fun _ x y => x / 2 ^ y))
def execVsha (core elem k : Nat) (s : State) : Result := .next (s.vec core elem k 0x10 (opShift shSha))
def execVrshr (core elem k : Nat) (s : State) : Result := .next (s.vec core elem k 0x11 opVrshr)
def execVcmp (core elem k : Nat) (s : State) : Result := .next (s.vec core elem k 0x12 opVcmp)
def execVsel (core elem k : Nat) (s : State) : Result := .next (s.vec core elem k 0x13 opVsel)
def execVcvt (core elem k : Nat) (s : State) : Result := .next (s.vec core elem k 0x14 opVcvt)
def execVsat (core elem k : Nat) (s : State) : Result := .next (s.vec core elem k 0x15 opVsat)
def execVexp2 (core elem k : Nat) (s : State) : Result := .next (s.vec core elem k 0x16 (opTrans exp2))
def execVlog2 (core elem k : Nat) (s : State) : Result := .next (s.vec core elem k 0x17 (opTrans log2))
def execVrcp (core elem k : Nat) (s : State) : Result := .next (s.vec core elem k 0x18 (opTrans rcp))
def execVrsq (core elem k : Nat) (s : State) : Result := .next (s.vec core elem k 0x19 (opTrans rsq))
def execVmad (core elem k : Nat) (s : State) : Result := .next (s.vec core elem k 0x1A opVmad)
def execVdot4 (core elem k : Nat) (s : State) : Result := .next (s.vec core elem k 0x1B opVdot4)
def execVred (core elem k : Nat) (s : State) : Result := .next (s.vec core elem k 0x1C opVred)
def execVscan (core elem k : Nat) (s : State) : Result := .next (s.vec core elem k 0x1D opVscan)
def execVperm (core elem k : Nat) (s : State) : Result := .next (s.vec core elem k 0x1E opVperm)
def execVbcst (core elem k : Nat) (s : State) : Result := .next (s.vec core elem k 0x1F opVbcst)
def execVmov (core elem k : Nat) (s : State) : Result := .next (s.vec core elem k 0x20 opVmov)
def execVcls (core elem k : Nat) (s : State) : Result := .next (s.vec core elem k 0x21 opVcls)
def execPand (core elem k : Nat) (s : State) : Result := .next (s.vec core elem k 0x28 (opPred (· &&& ·)))
def execPor (core elem k : Nat) (s : State) : Result := .next (s.vec core elem k 0x29 (opPred (· ||| ·)))
def execPxor (core elem k : Nat) (s : State) : Result := .next (s.vec core elem k 0x2A (opPred (· ^^^ ·)))
def execPnot (core elem k : Nat) (s : State) : Result := .next (s.vec core elem k 0x2B opPnot)
def execFork (core elem k : Nat) (s : State) : Result := .next (s.vec core elem k 0x30 opFork)

end Sys2Proof.Machine
end

