-- ==== Sys2Proof/Machine/Stream.lean ====
section
/-! DEFINITION. Stream nodes that stand alone: FILT, EXPD, MRG, SPLT, DLY, SRC, SINK (R344 to R352). -/

namespace Sys2Proof.Machine

/-- Live lanes of a token, in order. -/
def Tok.values (t : Tok) : List W32 := ((List.range 16).filter t.live).map t.lane
def Tok.count (t : Tok) : Nat := ((List.range 16).filter t.live).length
/-- A token packed from lane 0. -/
def packed (l : List W32) (taint : Bool) : Tok := dataTok (firstLanes l.length) taint fun i => nth 0#32 l i

/-- The head of a port, checked: none, an aligned token (which waits for R119), a bad one, or one to act on. -/
inductive Head where
  | miss
  | align (t : Tok)
  | bad (sub : Nat)
  | tok (t : Tok)
  deriving Repr
def Fabric.look (f : Fabric) (e u p : Nat) : Head :=
  match f.head e u p with
  | none => .miss
  | some t => if t.isAligned then .align t else match f.badHead e u p t with
    | some sub => .bad sub
    | none => .tok t

/-- R119, R137: an aligned token that waits lacks the same at the lowest port where none stands. -/
def Fabric.lack (f : Fabric) (e u p : Nat) : Nat :=
  match (f.inPorts e u).find? fun q => match f.head e u q with | some t => !t.isAligned | none => true with
  | some q => 3 + q
  | none => 3 + p

/-- Writes tokens in order to every port of a mask, when there is room for all. -/
def Fabric.emit (f : Fabric) (e u : Nat) (os : List Nat) (l : List Tok) : Except Nat Fabric :=
  match f.roomAll e u os l.length with
  | some o => .error (7 + o)
  | none => .ok (l.foldl (fun f t => f.putAll e u os t) f)
/-- Takes the tokens, writes the others, updates what the unit carries. -/
def Fabric.step (f : Fabric) (e u : Nat) (takes : List (Nat × Tok)) (os : List Nat) (l : List Tok) (g : Carry → Carry) : Act :=
  match f.emit e u os l with
  | .error c => .wait c
  | .ok f => .ok (((f.takeAll e u takes).updUnit e u fun x => { x with car := g x.car }).spend e u)

/-- A stand-alone firing of a node at slot 0 of a ve or fu, or at a slot of a memory tile. -/
def State.alone (s : State) (core e k code : Nat) (g : Fabric → Node → Nat → Carry → Act) : State :=
  let u := unitSlot e k
  s.act core e u fun f =>
    let n := f.node e k
    if n.opc ≠ code then .no else f.permitted e u (g f n u (f.unit e u).car)

/-! ### FILT (R344) -/

def filtAct (e k : Nat) (f : Fabric) (n : Node) (u : Nat) (c : Carry) : Act :=
  let os := outsOf n.omask
  match f.look e u 0 with
  | .miss => .wait 3
  | .align _ => .wait (f.lack e u 0)
  | .bad sub => .bad k 0 sub
  | .tok t =>
    if bits n.fn 0 1 = 0 then f.step e u [(0, t)] os (if t.isData && t.pred == 0#16 then [] else [t]) id
    else if t.isData then
      let l := c.vals ++ t.values
      let tt := c.taint || (t.taint && t.pred != 0#16)
      if 16 ≤ l.length then
        f.step e u [(0, t)] os [packed (l.take 16) tt] fun c =>
          { c with vals := l.drop 16, taint := t.taint && 16 < l.length }
      else f.step e u [(0, t)] os [] fun c => { c with vals := l, taint := tt }
    else
      f.step e u [(0, t)] os ((if c.vals.isEmpty then [] else [packed c.vals c.taint]) ++ [t]) fun c =>
        { c with vals := [], taint := false }

/-! ### EXPD (R345): `n` lanes used of a's head, `vals` the values found for b's head, `taint` that of their tokens -/

def expdPlace (vals : List W32) (pred : BitVec 16) : Nat → Nat → List W32
  | 0, _ => []
  | fuel + 1, i =>
    if pred.getLsbD i then nth 0#32 vals 0 :: expdPlace vals.tail pred fuel (i + 1)
    else 0#32 :: expdPlace vals pred fuel (i + 1)

/-- R126: a mismatch of two heads, none when they match. -/
def pairBad (a b : Tok) : Option Nat := mismatch [(0, a), (1, b)]

def expdAct (e k : Nat) (f : Fabric) (n : Node) (u : Nat) (c : Carry) : Act :=
  let os := outsOf n.omask
  let place (b : Tok) (vals : List W32) (taint : Bool) : Tok :=
    let l := expdPlace vals b.pred 16 0
    dataTok b.pred (b.taint || taint) fun i => nth 0#32 l i
  match f.look e u 1 with
  | .miss => .wait 4
  | .align _ => .wait (f.lack e u 1)
  | .bad sub => .bad k 1 sub
  | .tok b =>
    if b.isData && b.count == c.vals.length then
      f.step e u [(1, b)] os [place b c.vals c.taint] fun c => { c with vals := [], taint := false }
    else if !b.isData && c.n != 0 then .bad k 0 4
    else match f.look e u 0 with
      | .miss => .wait 3
      | .align _ => .wait (f.lack e u 0)
      | .bad sub => .bad k 0 sub
      | .tok a =>
        if b.isData then
          if !a.isData then .bad k 1 4
          else
            let l := a.values.drop c.n
            let m := Nat.min (b.count - c.vals.length) l.length
            let fin := m == l.length
            let vals := c.vals ++ l.take m
            let taint := c.taint || (a.taint && m != 0)
            let left := if fin then 0 else c.n + m
            let ta := if fin then [(0, a)] else []
            if vals.length = b.count then
              f.step e u (ta ++ [(1, b)]) os [place b vals taint] fun c => { c with n := left, vals := [], taint := false }
            else f.step e u ta os [] fun c => { c with n := left, vals := vals, taint := taint }
        else if a.isData then
          if a.values.isEmpty then f.step e u [(0, a)] os [] id else .bad k 0 4
        else match pairBad a b with
          | some p => .bad k p 4
          | none => f.step e u [(0, a), (1, b)] os [{ b with taint := a.taint || b.taint }] id

/-! ### MRG (R346) -/

/-- R346: a port that has reached DONE, or a stop that meets DONE, while the other still holds tokens; the port that R126
names. -/
def mrgBad (a : Tok) : Option Tok → Option Nat
  | some b => if (a.isDone && (b.isData || b.isStop)) || (a.isStop && b.isDone) then pairBad a b else none
  | none => none


def mrgAct (e k : Nat) (f : Fabric) (n : Node) (u : Nat) (_ : Carry) : Act :=
  let os := outsOf n.omask
  match f.look e u 0 with
  | .miss => .wait 3
  | .align _ => .wait (f.lack e u 0)
  | .bad sub => .bad k 0 sub
  | .tok a =>
    if a.isData then
      match f.head e u 1 with
      | some b => if b.isDone then .bad k 1 4 else f.step e u [(0, a)] os [a] id
      | none => f.step e u [(0, a)] os [a] id
    else match mrgBad a (f.head e u 1) with
    | some p => .bad k p 4
    | none => match f.look e u 1 with
      | .miss => .wait 4
      | .align _ => .wait (f.lack e u 1)
      | .bad sub => .bad k 1 sub
      | .tok b =>
        if b.isData && a.isStop then f.step e u [(1, b)] os [b] id
        else match pairBad a b with
          | some p => .bad k p 4
          | none => f.step e u [(0, a), (1, b)] os [{ a with taint := a.taint || b.taint }] id

/-! ### SPLT (R347): `on` while a fibre's control token is held, `n` its route -/

def spltAct (e k : Nat) (f : Fabric) (_ : Node) (u : Nat) (c : Carry) : Act :=
  let D := f.depth e u 0
  match f.look e u 0 with
  | .miss => .wait 3
  | .align _ => .wait (f.lack e u 0)
  | .bad sub => .bad k 0 sub
  | .tok a =>
    if a.isDone then
      match f.look e u 1 with
      | .miss => .wait 4
      | .align _ => .wait (f.lack e u 1)
      | .bad sub => .bad k 1 sub
      | .tok b =>
        if b.isDone then f.step e u [(0, a), (1, b)] [0, 1] [{ a with taint := a.taint || b.taint }] fun _ => {}
        else .bad k 0 4
    else if a.isStop && 1 ≤ a.level then f.step e u [(0, a)] [0, 1] [a] fun _ => {}
    else if 1 ≤ D && c.on then f.step e u [(0, a)] [c.n] [a] fun c => if a.isStop then {} else c
    else match f.look e u 1 with
      | .miss => .wait 4
      | .align _ => .wait (f.lack e u 1)
      | .bad sub => .bad k 1 sub
      | .tok b =>
        if b.isDone then .bad k 1 4
        else
          let r := if b.live 0 && b.lane 0 != 0#32 then 1 else 0
          f.step e u [(0, a), (1, b)] [r] [{ a with taint := a.taint || b.taint }] fun _ =>
            if 1 ≤ D && a.isData then { on := true, n := r } else {}

/-! ### DLY (R348): `toks` holds the last K tokens of the scope, oldest first; `n` tokens of the scope written ahead of
those taken, in a cycle of channels (log entry 50) -/

def dlyAct (e k : Nat) (f : Fabric) (n : Node) (u : Nat) (c : Carry) : Act :=
  let os := outsOf n.omask
  let K := n.fn % 16 + 1
  let first := dataTok allLive false fun _ => n.imm
  if f.feedsBack e u && c.n < K && !((f.unit e u).port 0).done then
    match f.emit e u os [if c.toks.length + c.n < K then first else nth {} c.toks (c.toks.length + c.n - K)] with
    | .error b => .wait b
    | .ok f => .ok (f.updUnit e u fun x => { x with car := { c with n := c.n + 1 } })
  else match f.look e u 0 with
  | .miss => .wait 3
  | .align _ => .wait (f.lack e u 0)
  | .bad sub => .bad k 0 sub
  | .tok t =>
    if t.isData then
      let toks := if c.toks.length < K then c.toks ++ [t] else c.toks.tail ++ [t]
      if c.n ≠ 0 then f.step e u [(0, t)] os [] fun c => { c with toks := toks, n := c.n - 1 }
      else f.step e u [(0, t)] os [if c.toks.length < K then first else nth {} c.toks 0] fun c => { c with toks := toks }
    else f.step e u [(0, t)] os [t] fun c => if bits n.fn 4 1 = 1 || t.isDone then { c with toks := [], n := 0 } else c

/-! ### SRC (R349): `n` counts the tokens of the permit -/

/-- Lane i of a source token. -/
def srcLane (n : Node) (i : Nat) : W32 :=
  if bits n.fn 0 1 = 0 then n.imm
  else if isFp n.ty then n.onFp (fun x => (fmtOf n.ty).encode n.rm (Fp.sum n.rm [l0 .nan x, Fp.ofInt i 0])) [n.imm]
  else n.onNat (fun x => l0 0 x + i) [n.imm]
def srcTok (n : Node) : Tok := dataTok allLive false (srcLane n)

def srcAct (e : Nat) (f : Fabric) (n : Node) (u : Nat) (c : Carry) : Act :=
  let os := outsOf n.omask
  let fin (l : List Tok) : Act := match f.emit e u os l with
    | .error c => .wait c
    | .ok f => .ok (f.updUnit e u fun x => { x.spent with car := { x.car with n := 0 } })
  if c.n = 0 ∧ (f.unit e u).injectDue = true then .wait 0
  else if f.underCnt e u && !(f.unit e u).permits.headD false then fin [srcTok n]
  else if f.underCnt e u && c.n != 0 then (if f.doneHeld e u then .wait 0 else fin [ctlTok kDone false])
  else if c.n < n.e 12 24 + 1 then match f.emit e u os [srcTok n] with
    | .error b => .wait b
    | .ok f => .ok (f.updUnit e u fun x => { x with car := { x.car with n := x.car.n + 1 } })
  else fin ((if n.e 39 1 = 1 then [stopTok (n.e 36 3) false] else []) ++ [ctlTok kDone false])

/-! ### SINK (R350) -/

def sinkAct (e k : Nat) (f : Fabric) (n : Node) (u : Nat) (_ : Carry) : Act :=
  let hs := n.ports.filterMap fun p => match f.head e u p with
    | some t => if t.isAligned then none else some (p, t)
    | none => none
  match hs with
  | [] => .wait (f.lack e u (nth 0 n.ports 0))
  | _ => match hs.find? fun x => (f.badHead e u x.1 x.2).isSome with
    | some x => .bad k x.1 ((f.badHead e u x.1 x.2).getD 0)
    | none => f.step e u hs [] [] id

def execFilt (core elem k : Nat) (s : State) : Result := .next (s.alone core elem k 0x2C (filtAct elem k))
def execExpd (core elem k : Nat) (s : State) : Result := .next (s.alone core elem k 0x2D (expdAct elem k))
def execMrg (core elem k : Nat) (s : State) : Result := .next (s.alone core elem k 0x2E (mrgAct elem k))
def execSplt (core elem k : Nat) (s : State) : Result := .next (s.alone core elem k 0x2F (spltAct elem k))
def execDly (core elem k : Nat) (s : State) : Result := .next (s.alone core elem k 0x31 (dlyAct elem k))
def execSrc (core elem k : Nat) (s : State) : Result := .next (s.alone core elem k 0x32 (srcAct elem))
def execSink (core elem k : Nat) (s : State) : Result := .next (s.alone core elem k 0x33 (sinkAct elem k))

end Sys2Proof.Machine
end

