-- ==== Sys2Proof/Machine/Control.lean ====
section
/-! DEFINITION. Controllers, counters, aligned tokens, commits, drains and the fabric's life (R116 to R134, R353 to
R358). -/

namespace Sys2Proof.Machine

/-! ### The controller tree (R353, R354) -/

def Fabric.parentOf (f : Fabric) (c : Nat) : Option Nat :=
  let n := f.node c 0
  if n.isRoot then none else some (0x40 + n.e 0 4)
def Fabric.leaves (f : Fabric) (c : Nat) : List (Nat × Nat) :=
  allUnits.filter fun x => f.used x.1 x.2 && f.leafCtl x.1 x.2 == some c
/-- R357: SRC, CNT and AGEN without an index port; any other unit that has no inputs emits what its controller injects
too (R119; log entry 92). A count-mode ISMP takes what its ie element passes. -/
def Fabric.isSource (f : Fabric) (e u : Nat) : Bool :=
  let n := f.node e u
  n.opc == 0x38 || (n.opc == 0x40 && n.selA == 0) ||
    (!isCn e && f.used e u && !f.countSampler e && (f.inPorts e u).isEmpty)
/-- A controller and its descendants. -/
def Fabric.subtree (f : Fabric) : Nat → Nat → List Nat
  | 0, c => [c]
  | fuel + 1, c => c :: (f.children c).flatMap (f.subtree fuel)
def Fabric.sourcesUnder (f : Fabric) (c : Nat) : List (Nat × Nat) :=
  (f.subtree 16 c).flatMap fun x =>
    (if (f.node x 0).opc = 0x38 then [(x, 0)] else []) ++ (f.leaves x).filter fun l => f.isSource l.1 l.2

/-- Whether an aligned token that goes to sources also comes to the ports of one of them. -/
def Fabric.aligns (f : Fabric) (c : Chan) : Bool := (f.inPorts c.celem c.cslot).contains c.cport
def Fabric.comesTo (f : Fabric) (src : List (Nat × Nat)) (x : Nat × Nat) : Bool :=
  let l := f.reachFrom f.aligns 120 (src.filter (· != x))
  f.chans.any fun c => c.celem == x.1 && c.cslot == x.2 && f.aligns c && l.contains (c.pelem, c.pslot)
/-- R357: an aligned token handed to a source, which writes it after the permits or rounds it holds, and before the DONE of a
permit marked LAST (R453). The injecting counter's own token follows the indices it has written. -/
def Fabric.injection (f : Fabric) (src : List (Nat × Nat)) (t : Tok) (own : Nat) (x : Nat × Nat) : Inject :=
  let y := f.unit x.1 x.2
  let o := (f.node x.1 x.2).opc
  let mid := (o == 0x32 || o == 0x40) && y.permits.getLast? == some true && match f.leafCtl x.1 x.2 with
    | some c => (f.node c 0).opc == 0x38 && (f.children c).isEmpty
    | none => false
  { tok := t, port := f.comesTo src x, mid := mid
    ahead := if x.1 = own then 0 else if isCn x.1 then y.ctl.permits.length + y.ctl.active.toNat
      else if mid then y.permits.length - 1 else y.permits.length }
def Fabric.injectInto (f : Fabric) (src : List (Nat × Nat)) (t : Tok) (own : Nat) : Fabric :=
  src.foldl (fun g x => g.updUnit x.1 x.2 fun y => { y with inject := y.inject ++ [f.injection src t own x] }) f

def Fabric.updCtl (f : Fabric) (c : Nat) (g : Ctl → Ctl) : Fabric := f.updUnit c 0 fun x => { x with ctl := g x.ctl }
def Fabric.ctl (f : Fabric) (c : Nat) : Ctl := (f.unit c 0).ctl
/-- R357: an injection by a controller, at most one in a row cycle. -/
def Fabric.injectUnder (f : Fabric) (now c : Nat) (t : Tok) : Fabric :=
  (f.injectInto (f.sourcesUnder c) t c).updCtl c fun x => { x with injAt := now + 1 }
def Fabric.mayInject (f : Fabric) (now c : Nat) : Bool := (f.ctl c).injAt == 0 || (f.ctl c).injAt + f.divOf c ≤ now + 1
/-- R355: a permit to a child controller, or to a leaf. -/
def Fabric.permitTo (f : Fabric) (last : Bool) (c : Nat) : Fabric :=
  f.updCtl c fun x => { x with permits := x.permits ++ [last] }
def Fabric.permitLeaf (f : Fabric) (last : Bool) (x : Nat × Nat) : Fabric :=
  f.updUnit x.1 x.2 fun y => { y with permits := y.permits ++ [last] }
def Ctl.doneBy (x : Ctl) (e u : Nat) : Nat := SMap.get 0 x.dones (unitKey e u)

/-- R130: an iteration has ended; a commit falls due at every CPER-th. -/
def Node.cper (n : Node) : Nat := n.e 13 16
def Ctl.endIter (x : Ctl) (cper : Nat) : Ctl :=
  { x with finished := x.finished + 1, due := if cper ≠ 0 ∧ (x.finished + 1) % cper = 0 then x.due + 1 else x.due }

/-- R133: the root is done; every source writes DRAIN after its last token. -/
def Fabric.rootDone (f : Fabric) : Fabric :=
  let src := allUnits.filter fun x => f.used x.1 x.2 && f.isSource x.1 x.2
  { f.injectInto src (ctlTok kDrain false) 0 with draining := true }
/-- A controller has done what its permit asked: it tells its parent, or the region drains. -/
def Fabric.ctlDone (f : Fabric) (c : Nat) : Fabric :=
  let f := f.updUnit c 0 fun x => { x with
    doneOwed := if (f.node c 0).isRoot then x.doneOwed else x.doneOwed + 1
    inject := x.inject.map fun e => { e with ahead := e.ahead - 1 } }
  if (f.node c 0).isRoot then f.rootDone else f

/-! ### CNT (R123, R124, R356) -/

/-- Index token j of a round. -/
def cntTok (n : Node) (j : Nat) : Tok :=
  let step := sextNat (n.e 45 10) 10
  let idx := sextNat (n.e 29 16) 16 + j * step
  dataTok allLive false fun i => BitVec.ofNat 32 (wrapInt (if step % 16 = 0 then idx + i * (step / 16) else idx) 32)

/-- A round begins: a held BOUND gives its trip count. `started` is 1 once DONE of a round marked LAST is written. -/
def Ctl.beginRound (x : Ctl) : Ctl :=
  { x with active := true, last := x.permits.headD false, permits := x.permits.tail, iter := 0, stopOut := false,
           started := 0, dones := [], trip := x.bound.getD x.trip, bound := none }

/-- Takes BOUND tokens that stand at port a; a value of 2^24 or more is a configuration fault. -/
def cntBound (f : Fabric) (c : Nat) (t : Tok) : Act :=
  if ((f.unit c 0).port 0).done then .bad 0 0 1
  else if t.kind = kBound then
    if 2 ^ 24 ≤ (t.lane 0).toNat then .flt 0 5 0 0 0
    else .ok ((f.take c 0 0 t).updCtl c fun x => { x with bound := some (t.lane 0).toNat })
  else if t.isDone then .ok (f.take c 0 0 t)
  else .bad 0 0 5

/-- Every child has reported the indices written so far. -/
def Fabric.cntCaught (f : Fabric) (c : Nat) : Bool := (f.children c).all fun x => (f.ctl c).iter ≤ (f.ctl c).doneBy x 0

def cntRound (f : Fabric) (c : Nat) : Act :=
  let n := f.node c 0
  let x := f.ctl c
  let os := outsOf n.omask
  if x.iter < x.trip then
    if x.due ≠ 0 ∨ f.cntCaught c = false ∨ (f.unit c 0).injectDue = true then .wait 0
    else match f.emit c 0 (os.filter (· == 0)) [cntTok n x.iter] with
      | .error b => .wait b
      | .ok f =>
        let last := x.last && x.iter + 1 == x.trip
        let f := (f.leaves c).foldl (Fabric.permitLeaf · last ·) f
        let f := (f.children c).foldl (Fabric.permitTo · last ·) f
        .ok (f.updCtl c fun x => { x with iter := x.iter + 1 }.endIter n.cper)
  else if !x.stopOut then
    if (f.unit c 0).injectDue ∨ (x.due ≠ 0 ∧ (x.last = false ∨ (f.children c).isEmpty = true)) then .wait 0
    else match f.emit c 0 (os.filter (· == 1)) [stopTok (n.fn % 8) false] with
      | .error b => .wait b
      | .ok f => .ok (f.updCtl c fun x => { x with stopOut := true })
  else if x.last && x.started = 0 then
    if (f.unit c 0).injectDue then .wait 0 else match f.emit c 0 os [ctlTok kDone false] with
    | .error b => .wait b
    | .ok f => .ok (f.updCtl c fun x => { x with started := 1 })
  else if x.due = 0 && f.cntCaught c && (f.leaves c).all (fun l => x.trip ≤ x.doneBy l.1 l.2) then
    .ok ((f.updCtl c fun x => { x with active := false }).ctlDone c)
  else .wait 0

def cntAct (c : Nat) (f : Fabric) : Act :=
  let go : Act :=
    if (f.ctl c).active then cntRound f c
    else if (f.ctl c).permits.isEmpty then .wait 0
    else cntRound (f.updCtl c Ctl.beginRound) c
  match (if (f.node c 0).selA = 1 then f.head c 0 0 else none) with
  | some t => if t.isAligned then go else cntBound f c t
  | none => go

/-! ### CSEQ, CPIPE, CSTRM (R122) -/

/-- The end of an iteration of a CSEQ or CSTRM: a commit that falls due goes before the done signal. -/
def ctlEnd (c : Nat) (f : Fabric) : Act :=
  let x := f.ctl c
  if !x.stopOut then .ok (f.updCtl c fun x => { x.endIter (f.node c 0).cper with stopOut := true })
  else if x.due ≠ 0 then .wait 0
  else .ok ((f.updCtl c fun x => { x with active := false }).ctlDone c)

def cseqAct (c : Nat) (f : Fabric) : Act :=
  let x := f.ctl c
  let l := f.children c
  let give (f : Fabric) (i : Nat) (last : Bool) : Act :=
    .ok ((f.permitTo last (nth 0 l i)).updCtl c fun x => { x with started := i + 1 })
  if !x.active then
    if x.permits.isEmpty then .wait 0
    else
      let f := f.updCtl c fun x => { x with
        active := true, last := x.permits.headD false, permits := x.permits.tail, started := 0, dones := [], stopOut := false }
      give f 0 (f.ctl c).last
  else if x.doneBy (nth 0 l (x.started - 1)) 0 = 0 then .wait 0
  else if x.started < l.length then give f x.started x.last
  else ctlEnd c f

def cstrmAct (c : Nat) (f : Fabric) : Act :=
  let x := f.ctl c
  if !x.active then
    if x.permits.isEmpty then .wait 0
    else
      let last := x.permits.headD false
      let f := f.updCtl c fun x => { x with
        active := true, last := last, permits := x.permits.tail, dones := [], stopOut := false }
      .ok ((f.children c).foldl (Fabric.permitTo · last ·) ((f.leaves c).foldl (Fabric.permitLeaf · last ·) f))
  else if (f.children c).all (fun y => 1 ≤ x.doneBy y 0) && (f.leaves c).all (fun l => 1 ≤ x.doneBy l.1 l.2) then
    ctlEnd c f
  else .wait 0

/-- Iterations are counted from install: `iter` started, `finished` ended, `flags` their LAST marks, `reported` done
signals sent. -/
def cpipeAct (c : Nat) (f : Fabric) : Act :=
  let n := f.node c 0
  let x := f.ctl c
  let l := f.children c
  let depth := n.e 9 4 + 1
  let endOf (i : Nat) : Nat := x.doneBy (nth 0 l i) 0
  let allDone := endOf (l.length - 1)
  let isLast (j : Nat) : Bool := nth false x.flags j
  if x.due ≠ 0 then .wait 0
  else if x.finished < allDone then .ok (f.updCtl c fun x => x.endIter n.cper)
  else if x.reported < x.iter && (if isLast x.reported then x.reported < allDone
      else x.reported < endOf 0 && x.iter - allDone < depth) then
    .ok ((f.updCtl c fun x => { x with reported := x.reported + 1 }).ctlDone c)
  else match (List.range l.length).find? fun i =>
      let j := SMap.get 0 x.sent i
      j < x.iter && j == endOf i && (i == 0 || j < endOf (i - 1)) with
    | some i =>
      let j := SMap.get 0 x.sent i
      .ok ((f.permitTo (isLast j) (nth 0 l i)).updCtl c fun x => { x with sent := SMap.set 0 x.sent i (j + 1) })
    | none =>
      if !x.permits.isEmpty && x.iter - allDone < depth then
        .ok (f.updCtl c fun x => { x with
          flags := x.flags ++ [x.permits.headD false], permits := x.permits.tail, iter := x.iter + 1 })
      else .wait 0

def State.ctlFire (s : State) (core e code : Nat) (g : Nat → Fabric → Act) : State :=
  s.act core e 0 fun f => if isCn e && (f.node e 0).opc == code then g e f else .no

def execCnt (core elem k : Nat) (s : State) : Result := .next (if k = 0 then s.ctlFire core elem 0x38 cntAct else s)
def execCseq (core elem k : Nat) (s : State) : Result := .next (if k = 0 then s.ctlFire core elem 0x39 cseqAct else s)
def execCpipe (core elem k : Nat) (s : State) : Result := .next (if k = 0 then s.ctlFire core elem 0x3A cpipeAct else s)
def execCstrm (core elem k : Nat) (s : State) : Result := .next (if k = 0 then s.ctlFire core elem 0x3B cstrmAct else s)

/-- R457: an ILD of a firing under way still has to load. -/
def Fabric.loading (f : Fabric) (e : Nat) : Bool :=
  isVe e && (f.unit e 0).fly.any fun y => (f.usedSlots e).any fun k => y.next ≤ k && (f.node e k).opc == 0x60
/-- R355, R358: one done signal of a child or leaf reaches its controller. -/
def Fabric.doneArrives (f : Fabric) (e u : Nat) : Fabric :=
  let c := if isCn e then f.parentOf e else f.leafCtl e u
  if (f.unit e u).doneOwed = 0 ∨ f.loading e = true then f
  else match c with
    | none => f
    | some c => (f.updUnit e u fun x => { x with doneOwed := x.doneOwed - 1 }).updCtl c fun x =>
        { x with dones := SMap.set 0 x.dones (unitKey e u) (x.doneBy e u + 1) }
def execControllerDoneSignal (core elem k : Nat) (s : State) : Result :=
  .next (s.updFab core fun f => if f.st = .running ∧ f.halted = false then f.doneArrives elem (unitSlot elem k) else f)

end Sys2Proof.Machine
end

