-- ==== Sys2Proof/Machine/MemNode.lean ====
section
/-! DEFINITION. The nodes of memory tiles and remote ports: address tokens, translations, loads, stores, logs, order
ports (R146, R148, R360 to R363, R370 to R379). -/

namespace Sys2Proof.Machine

/-! ### Address tokens (R361, R362) -/

def Tok.addr (t : Tok) : Nat := (t.lane 0).toNat + (t.lane 1).toNat * 2 ^ 32
def Tok.stride (t : Tok) : Int := sextNat (t.lane 2).toNat 32
def Tok.tid (t : Tok) : Nat := bits (t.lane 3).toNat 14 8
def Tok.slot (t : Tok) : Nat := bits (t.lane 3).toNat 10 4
def Tok.rel (t : Tok) : Bool := bits (t.lane 3).toNat 9 1 == 1
def Tok.ring (t : Tok) : Bool := bits (t.lane 3).toNat 8 1 == 1
def Tok.fmt (t : Tok) : Nat := bits (t.lane 3).toNat 4 4
def Tok.space (t : Tok) : Nat := bits (t.lane 3).toNat 0 4
/-- An address plus a signed offset, modulo 2^64. -/
def addInt (a : Nat) (d : Int) : Nat := ((a + d) % 2 ^ 64).toNat
def Tok.laneAddr (t : Tok) (i : Nat) : Nat := addInt t.addr (i * t.stride)
/-- Live lanes and their addresses. -/
def Tok.laneAddrs (t : Tok) (live : BitVec 16) : List (Nat × Nat) :=
  ((List.range 16).filter live.getLsbD).map fun i => (i, t.laneAddr i)

/-- R362: elements of a lane. -/
def Node.els (n : Node) : Nat := if n.pk then 2 else perLane n.ty
def Node.tidNo (n : Node) : Nat := n.e 15 8
def Node.ordIn (n : Node) : Bool := n.e 12 1 == 1
def Node.ordOut (n : Node) : Bool := n.e 13 1 == 1
def Node.oinit (n : Node) : Bool := n.e 14 1 == 1
/-- Ports that carry data; o1 carries ORDER when ORDOUT is 1 (R373). -/
def Node.dataOuts (n : Node) : List Nat := (outsOf n.omask).filter fun o => !(o == 1 && n.ordOut)

/-- R362: formats that memory nodes take. -/
def plainFmt (f : Nat) : Bool := 1 ≤ f && f ≤ 6
/-- R140: the byte that an offset of a space of a core names, under the partition in force at CFG. -/
def State.spaceKey (s : State) (core space o : Nat) : Option Nat :=
  let w := (s.fab core).partWord
  if space = 1 then spIn w core o else acIn w core o
/-- R362: what raises the memory-error fault of detail 0x5. -/
def State.lanesBad (s : State) (core space fmt e : Nat) (l : List (Nat × Nat)) : Bool :=
  !l.isEmpty && (3 ≤ space || !plainFmt fmt || l.any fun x =>
    x.2 % elemBytes fmt != 0 || (space != 0 && (s.spaceKey core space (x.2 + e * elemBytes fmt - 1)).isNone))

/-! ### What addresses reach -/

inductive Reach where
  /-- Keys of each range of bytes, and the device when one is another's. -/
  | keys (l : List (List Nat)) (dev : Option Nat)
  | miss (va : Nat)
  | fault (cause va : Nat)
  deriving Repr

/-- Ranges of n bytes, each within one page, of a space. -/
def State.reach (s : State) (who : Agent) (core pdom space acc n : Nat) : List Nat → Reach
  | [] => .keys [] none
  | a :: t =>
    if space ≠ 0 then
      match s.spaceKey core space a, s.reach who core pdom space acc n t with
      | some k, .keys l d => .keys (keyRange k n :: l) d
      | some _, r => r
      | none, _ => .fault 5 a
    else match s.faultFor who pdom (w64 a) with
      | some c => .fault c a
      | none => match s.xlate (tlbGroup who) pdom (w64 a) acc with
        | .fault c => .fault c a
        | .miss => .miss a
        | .ok pa d =>
          match (match d with | some dv => some (remoteKey dv pa) | none => s.physKey pa), s.reach who core pdom space acc n t with
          | some k, .keys l d' => .keys (keyRange k n :: l) (match d with | some x => some x | none => d')
          | some _, r => r
          | none, _ => .fault 5 a

/-- Elements of the live lanes, in order. -/
def elemAddrs (e size : Nat) (l : List (Nat × Nat)) : List Nat :=
  l.flatMap fun x => (List.range e).map fun j => (x.2 + j * size) % 2 ^ 64

/-! ### Conversions between memory and lanes (R189, R362) -/

def convElem (src dst rm x : Nat) : Nat :=
  if src = dst then x else (convert src dst rm (BitVec.ofNat 32 x)).toNat % 2 ^ (8 * elemBytes dst)
/-- A lane from the bytes of its elements. -/
def laneOfBytes (n : Node) (fmt : Nat) (l : List Byte) : W32 :=
  let sz := elemBytes fmt
  BitVec.ofNat 32 ((List.range n.els).foldl (fun x j =>
    x + convElem fmt n.ty n.rm (leNat ((l.drop (j * sz)).take sz)) * 2 ^ (8 * elemBytes n.ty * j)) 0)
def laneToBytes (n : Node) (fmt : Nat) (w : W32) : List Byte :=
  (List.range n.els).flatMap fun j =>
    leBytes (convElem n.ty fmt n.rm (bits w.toNat (8 * elemBytes n.ty * j) (8 * elemBytes n.ty))) (elemBytes fmt)
/-- A token whose live lanes take consecutive groups of bytes. -/
def tokOfBytes (n : Node) (fmt : Nat) (live : BitVec 16) (taint : Bool) (l : List Byte) : Tok :=
  let g := n.els * elemBytes fmt
  let pos (i : Nat) : Nat := ((List.range i).filter live.getLsbD).length
  dataTok live taint fun i => laneOfBytes n fmt ((l.drop (pos i * g)).take g)
/-- Sixteen lanes from 64 bytes. -/
def tokOfLine (live : BitVec 16) (taint : Bool) (l : List Byte) : Tok :=
  dataTok live taint fun i => BitVec.ofNat 32 (leNat ((l.drop (4 * i)).take 4))

/-! ### Watchpoints on path F (R233) -/

/-- The address a watchpoint compares: a virtual address, or the window address of an offset (R278). -/
def watchAddr (space a : Nat) : W64 :=
  if space = 0 then w64 a else if space = 1 then w64 (0xFFFFFF0000000000 + a) else w64 (0xFFFFFF0100000000 + a)
def Fabric.task (f : Fabric) : Task := { pdom := f.pdom, lid := f.lid, frame := f.frameW, fab := true }
/-- R233, R235: hits in a fabric, by register and value matched: a record of each, and ACTION 1 and 2 stop the group. -/
def State.fabHits (s : State) (core e : Nat) (t : Task) (l : List (Nat × W64)) : State :=
  let d := s.dbgOf t.pdom
  let s := l.foldl (fun s h => s.note 4 core e t.pdom t.lid
    [0#64, h.2, pack [(d.action h.1, 5), (regWp h.1, 4), (regIndex h.1, 0)]]) s
  match l.find? fun h => d.action h.1 % 3 != 0 with
  | none => s
  | some h =>
    if d.stopped && d.stopHas t then s.alsoHit t.pdom (1 + regWp h.1) (regIndex h.1) (8 * core + 7)
    else s.stopGroup t.pdom (d.regGroup h.1) (1 + regWp h.1) (regIndex h.1) (8 * core + 7)
/-- Each watchpoint that sees a live lane is hit by the first. -/
def State.watchF (s : State) (core e space size : Nat) (write : Bool) (l : List (Nat × Nat)) : State :=
  let t := (s.fab core).task
  s.fabHits core e t ((List.range 4).filterMap fun j =>
    (l.find? fun x => s.watchSees t (watchAddr space x.2) size write 4 j).map fun x =>
      (0x200 + 0x20 * j, watchAddr space x.2))

/-! ### Firings that start an access -/

/-- R373: the ORDER token an access needs; an act when it must wait or finds another token. -/
def Fabric.orderTok (f : Fabric) (e u k : Nat) (n : Node) : Except Act (List (Nat × Tok)) :=
  if !n.ordIn || (n.oinit && (f.unit e u).order == 0) then .ok []
  else match f.head e u 2 with
    | none => .error (.wait 5)
    | some t => if t.kind == kOrder then .ok [(2, t)] else if t.isAligned then .error (.wait 5) else .error (.bad k 2 5)

/-- What a firing does with its access: nothing to wait for, a request now, or a request in the egress latch. -/
inductive Send where
  | none
  | now (r : Req)
  | latch (r : Req)
/-- The bytes that an access touches. -/
def Send.keys : Send → List Nat
  | .none => []
  | .now r | .latch r => r.keys
/-- The class of a wait for a bank: missing on m for a load, blocked on the output for a store. -/
def Send.bankClass : Send → Nat
  | .latch _ => 7
  | _ => 6

/-- R363: accesses of a unit outstanding. -/
def Unit_.accesses (x : Unit_) : Nat := x.pend.countP fun p => p.pass.isNone
/-- R137: why an access cannot start now: blocked on an output, or by throttling (R223), or at a bank that a store needs;
missing its ORDER token; missing on port m. -/
def State.memWait (s : State) (core e k : Nat) (n : Node) (outs : List Nat) (cnt : Nat) (access : Send) : Option Nat :=
  let u := unitSlot e k
  let f := s.fab core
  let po := if n.ordOut then [1] else []
  let busy := s.bankBusy access.keys
  let held := (f.unit e u).accesses
  match (f.roomAll e u outs cnt).or (f.roomAll e u po 1) with
  | some x => some (7 + x)
  | none =>
    if (held < 64 && 64 ≤ held + f.heldBack e u 8) || (busy && access.bankClass == 7) then some 7
    else match f.orderTok e u k n with
      | .error (.wait c) => some c
      | _ => if 64 ≤ held || busy then some 6 else none

/-- Takes tokens, reserves `cnt` tokens on each data output and one ORDER, and starts the access. `spend` is false for
a firing that is not the last of its permit. -/
def State.startMem (s : State) (core e k : Nat) (n : Node) (takes : List (Nat × Tok)) (outs : List Nat) (cnt : Nat)
    (p : Pend) (access : Send) (spend : Bool) (g : Carry → Carry) : Act :=
  let u := unitSlot e k
  let f := s.fab core
  match s.memWait core e k n outs cnt access with
  | some c => .wait c
  | none => match f.orderTok e u k n with
    | .error a => a
    | .ok o =>
      let po := if n.ordOut then [1] else []
      let taken := ((f.unit e u).port 0).taken
      let p := { p with before := if takes.any fun x => x.1 == 0 then taken else taken - 1 }
      let f := f.takeAll e u (takes ++ o)
      let f := outs.foldl (fun f x => f.hold e u x cnt) f
      let f := po.foldl (fun f x => f.hold e u x 1) f
      let p := match access with
        | .none => p
        | .now _ => { p with req := some s.mem.nextReq }
        | .latch _ => { p with latched := true }
      let f := f.updUnit e u fun x => { x with pend := x.pend ++ [p], order := 1, car := g x.car }
      let f := match access with
        | .latch r => { f with egress := f.egress ++ [⟨e, k, r⟩] }
        | _ => f
      let f := if spend then f.spend e u else f
      let s := (s.setFab core f).useBanks access.keys
      .full (match access with | .now r => s.issue r | _ => s)

/-- R370: LDCN sets TAINT on every token it writes. -/
def Node.tainted (n : Node) (t : Tok) : Tok := { t with taint := t.taint || n.opc == 0x43 }
/-- A stop or DONE that passes in order (R363, R370). -/
def State.passMem (s : State) (core e k : Nat) (n : Node) (takes : List (Nat × Tok)) (t : Tok) : Act :=
  let u := unitSlot e k
  let f := s.fab core
  match f.roomAll e u n.dataOuts 1 with
  | some x => .wait (7 + x)
  | none =>
    let f := n.dataOuts.foldl (fun f x => f.hold e u x 1) (f.takeAll e u takes)
    let f := f.updUnit e u fun x => { x with pend := x.pend ++ [{ req := none, addr := {}, pass := some (n.tainted t) }] }
    .full (s.setFab core (f.spend e u))

def whoUnit (core e k : Nat) : Agent := .unit core e (unitSlot e k)

/-- A translation that the unit lacks is asked for; the row cycle counts as missing on the address port (R56, R137). -/
def State.missMem (s : State) (core e k va acc : Nat) : Act :=
  .waitS (s.want (whoUnit core e k) (s.fab core).pdom (w64 va) acc) 3

/-- R135: a fault of a later access of a token that port a has already given: word 1 does not count that token. -/
def Act.ofTaken (f : Fabric) (e u : Nat) : Act → Act
  | .flt k kind 0 d w => .fltI k kind (((f.unit e u).port 0).taken - 1) d w
  | a => a
/-- R49, R209: a read that a unit makes at once waits for earlier accesses that must come before it. -/
def State.readFree (s : State) (r : Req) : Bool := s.mem.reqs.all fun e => !e.2.any fun a => mustPrecede a r

/-- What else happens with a firing. -/
def Act.also (a : Act) (g : State → State) : Act :=
  match a with
  | .full s => .full (g s)
  | a => a

/-- Reaches the ranges of an access, or waits, or raises the fault that names `port`. The lanes `wl` of `wn` bytes meet
the watchpoints of path F when the access goes ahead. -/
def State.withReach (s : State) (core e k space acc n port : Nat) (l : List Nat) (wn : Nat) (wl : List (Nat × Nat))
    (g : List (List Nat) → Option Nat → Act) : Act :=
  match s.reach (whoUnit core e k) core (s.fab core).pdom space acc n l with
  | .keys ks d => (g ks d).also fun s => s.watchF core e space wn (acc == 1) wl
  | .miss va => s.missMem core e k va acc
  | .fault c va => if space = 0 then .flt k 4 port va 0 else .flt k 7 port c 0

/-! ### LDN, LDCN, LDFE (R370, R371, R375) -/

/-- R145: the barrier of the ring slot that a token names: whether the slot is complete, and its bytes; none when the
entry is no ring. -/
def State.ringSlot (s : State) (core tid slot : Nat) : Option (Bool × List Nat) :=
  match ringShape (s.tid core tid) with
  | none => none
  | some (T, _, _, BB, BASE) =>
    some (T ≤ SMap.get 0 s.mem.arrive (core * 64 + BB + slot),
      (List.range T).filterMap fun i => s.spaceKey core 1 (BASE + slot * T + i))

/-- R217: the bytes of a complete slot are visible to every path. -/
def State.releaseKeys (s : State) (keys : List Nat) : State := s.release (fun _ => true) fun x => keys.contains x.key

/-- R370: a load in ring mode waits for its slot's arrival barrier; a token that makes no access needs no ring entry. -/
def State.whenFilled (s : State) (core k : Nat) (t : Tok) (g : State → Act) : Act :=
  if t.ring then match s.ringSlot core t.tid t.slot with
    | none => if t.pred = 0#16 then g s else .flt k 7 0 5 0
    | some (done, keys) => if done then g (s.releaseKeys keys) else .wait 6
  else g s

/-- A load of the live lanes of an access; `t` is the token kept for its result. -/
def State.loadLanes (s : State) (core e k : Nat) (n : Node) (a t : Tok) (l : List (Nat × Nat)) : Act :=
  let sz := elemBytes t.fmt
  if s.lanesBad core t.space t.fmt n.els l then .flt k 7 0 5 0
  else s.withReach core e k t.space 0 sz 0 (elemAddrs n.els sz l) (n.els * sz) l fun ks d =>
    s.startMem core e k n [(0, a)] n.dataOuts 1 { req := none, addr := t }
      (.now { by_ := whoUnit core e k, path := 1, kind := .read, va := (l.head?.map Prod.snd).getD 0, dev := d,
              rd := ks.flatten, consume := n.opc == 0x43, dep := a.taint }) true id

/-- R370: an index token as lane addresses of the entry that the unit copied; none for an index out of range. -/
def idxAddrs (g : Gen) (t : Tok) : Option (List (Nat × Nat)) :=
  let l := ((List.range 16).filter t.live).map fun i => (i, sextNat (t.lane i).toNat 32)
  if l.all fun x => 0 ≤ x.2 && x.2 < nth 0 g.ext 0 then
    some (l.map fun x => (x.1, addInt g.base.toNat (x.2 * nth 0 g.str 0)))
  else none

/-- Lane 3 of an address token. -/
def lane3 (tid slot : Nat) (rel ring : Bool) (fmt space : Nat) : W32 :=
  BitVec.ofNat 32 (tid * 2 ^ 14 + slot * 2 ^ 10 + rel.toNat * 2 ^ 9 + ring.toNat * 2 ^ 8 + fmt * 2 ^ 4 + space)

/-! Linked mode keeps in `car`: `on` a chain is open, `n` loads made, `n2` the next address, `n3` its space. -/

def Node.hops (n : Node) : Nat := n.e 42 16 + 1
def State.linkLoad (s : State) (core e k : Nat) (n : Node) (takes : List (Nat × Tok)) (a space cnt : Nat) (taint : Bool) : Act :=
  if a % 64 ≠ 0 ∨ 3 ≤ space ∨ (space ≠ 0 ∧ (s.spaceKey core space (a + 63)).isNone = true) then .flt k 7 0 5 0
  else s.withReach core e k space 0 64 0 [a] 64 [(0, a)] fun ks d =>
    s.startMem core e k n takes n.dataOuts 2 { req := none, addr := { taint := taint } }
      (.now { by_ := whoUnit core e k, path := 1, kind := .read, va := a, dev := d, rd := ks.flatten, dep := taint }) false
      fun c => { c with on := true, n := cnt + 1, n2 := a, n3 := space, taint := taint }

def ldnLinked (s : State) (core e k : Nat) (f : Fabric) (n : Node) (u : Nat) (c : Carry) : Act :=
  if c.on then
    if !(f.unit e u).pend.isEmpty then .wait 6 else (s.linkLoad core e k n [] c.n2 c.n3 c.n c.taint).ofTaken f e u
  else match f.look e u 0 with
    | .miss => .wait 3
    | .align _ => .wait (f.lack e u 0)
    | .bad sub => .bad k 0 sub
    | .tok t =>
      if t.isData then
        if !(f.unit e u).pend.isEmpty then .wait 6 else s.linkLoad core e k n [(0, t)] t.addr t.space 0 t.taint
      else s.passMem core e k n [(0, t)] (if t.isStop then { t with kind := t.kind + 1 } else t)

def ldnAct (s : State) (core e k : Nat) (f : Fabric) (n : Node) (u : Nat) (c : Carry) : Act :=
  if bits n.fn 0 2 = 2 then ldnLinked s core e k f n u c
  else match f.look e u 0 with
    | .miss => .wait 3
    | .align _ => .wait (f.lack e u 0)
    | .bad sub => .bad k 0 sub
    | .tok t =>
      if !t.isData then s.passMem core e k n [(0, t)] t
      else if bits n.fn 0 2 = 1 then
        let g := (f.unit e u).gen
        match idxAddrs g t with
        | none => .flt k 7 0 5 0
        | some l => s.loadLanes core e k n t { t with
            lanes := [0#32, 0#32, 0#32, lane3 n.tidNo 0 false false g.fmt g.space] } l
      else s.whenFilled core k t fun s => s.loadLanes core e k n t t (t.laneAddrs t.pred)

/-- R375: a load as LDN's, of granules all full, which .clr empties at once. -/
def ldfeAct (s : State) (core e k : Nat) (f : Fabric) (n : Node) (u : Nat) (_ : Carry) : Act :=
  match f.look e u 0 with
  | .miss => .wait 3
  | .align _ => .wait (f.lack e u 0)
  | .bad sub => .bad k 0 sub
  | .tok t =>
    if !t.isData then s.passMem core e k n [(0, t)] t
    else s.whenFilled core k t fun s =>
      let l := t.laneAddrs t.pred
      let sz := elemBytes t.fmt
      if (t.space ≠ 1 ∧ l ≠ []) ∨ s.lanesBad core t.space t.fmt n.els l = true then .flt k 7 0 5 0
      else s.withReach core e k 1 0 sz 0 (elemAddrs n.els sz l) (n.els * sz) l fun ks _ =>
        let keys := ks.flatten
        let r : Req := { by_ := whoUnit core e k, path := 1, kind := .read, va := 0, rd := keys, applied := true }
        if !keys.all s.isFull || !s.readFree r then .wait 6
        else
          let go (s : State) (r : Req) : Act :=
            s.startMem core e k n [(0, t)] n.dataOuts 1 { req := none, addr := t } (.now r) true id
          match s.meets s.found (fun _ => 0) keys with
          | (s, some _) => go s { r with bad := 0xA }
          | (s, none) =>
            let s := s.readFresh 1 keys
            (go s { r with bytes := s.readBytes 1 0 keys }).also fun s =>
              if bits n.fn 0 1 = 1 then s.setFull keys false else s

/-! ### STN, STFE (R372, R375) -/

/-- R119, R126: the tokens of the ports that a node takes together. -/
def Fabric.withHeads (f : Fabric) (e u k : Nat) (ps : List Nat) (g : List Tok → List (Nat × Tok) → Act) : Act :=
  match f.heads e u ps with
  | .miss p => .wait (3 + p)
  | .bad p sub => .bad k p sub
  | .toks l => g (l.map Prod.snd) l

/-- A firing that writes nothing: its tokens are taken. -/
def Fabric.swallow (f : Fabric) (e u : Nat) (l : List (Nat × Tok)) : Act := .ok ((f.takeAll e u l).spend e u)

/-- Writes to the log (R128, R129, R372): a granule of the unit takes the new bytes, or a new entry holds the granule as it
stands with them; another device's is what it returns (log entry 16). -/
def State.logGranule (s : State) (k : Nat) (log : List LogE) (w : Nat × Byte) : List LogE :=
  let g := w.1 / 64
  if log.any fun x => x.k == k && x.kind == 0 && x.key == g then
    log.map fun x => if x.k == k && x.kind == 0 && x.key == g then
      { x with wr := if x.wr.any fun y => y.1 == w.1 then x.wr.map fun y => if y.1 == w.1 then w else y else x.wr ++ [w] } else x
  else log ++ [⟨k, 0, (keyRange (64 * g) 64).map fun a =>
      (a, if a = w.1 then w.2 else if isLocal a then s.byte a else Config.remoteByte s.clk.tick (a % 64)), 0, g, 0⟩]
def State.logBytes (s : State) (k : Nat) (log : List LogE) (l : List (Nat × Byte)) : List LogE :=
  l.foldl (s.logGranule k) log
def Fabric.log (f : Fabric) (e : Nat) : List LogE := SMap.get [] f.logs e
def Fabric.setLog (f : Fabric) (e : Nat) (l : List LogE) : Fabric := { f with logs := SMap.set [] f.logs e l }

/-- A firing whose effect enters the tile's log, when it has room (R129). -/
def State.logMem (s : State) (core e k : Nat) (n : Node) (takes : List (Nat × Tok)) (log : List LogE) (addr : Nat) : Act :=
  if 256 < log.length then .waitLog addr
  else match s.startMem core e k n takes [] 0 { req := none, addr := {} } .none true id with
    | .full s => .full (s.updFab core fun f => f.setLog e log)
    | a => a

/-- Bytes that a store writes: the lanes live in both tokens. -/
def storeBytes (n : Node) (fmt : Nat) (b : Tok) (ks : List (List Nat)) (l : List (Nat × Nat)) : List (Nat × Byte) :=
  ks.flatten.zip (l.flatMap fun x => laneToBytes n fmt (b.lane x.1))

def stnAct (s : State) (core e k : Nat) (f : Fabric) (n : Node) (u : Nat) (_ : Carry) : Act :=
  f.withHeads e u k [0, 1] fun ts l =>
    let a := nth {} ts 0
    let b := nth {} ts 1
    if !a.isData then f.swallow e u l
    else
      let la := a.laneAddrs (a.pred &&& b.pred)
      let sz := elemBytes a.fmt
      if s.lanesBad core a.space a.fmt n.els la then .flt k 7 0 5 0
      else s.withReach core e k a.space 1 sz 0 (elemAddrs n.els sz la) (n.els * sz) la fun ks d =>
        let wr := storeBytes n a.fmt b ks la
        if bits n.fn 0 1 = 1 ∨ a.space = 2 then
          s.logMem core e k n l (s.logBytes k (f.log e) wr) ((la.head?.map Prod.snd).getD 0 / 64 * 64)
        else s.startMem core e k n l [] 0 { req := none, addr := {} }
          (.latch { by_ := whoUnit core e k, path := 1, kind := .write, va := (la.head?.map Prod.snd).getD 0, dev := d,
                    wr := wr, dep := a.taint || b.taint }) true id

/-- R375: granules of the live lanes all empty, then written and set full, at once, as the egress latch releases them. -/
def stfeAct (s : State) (core e k : Nat) (f : Fabric) (n : Node) (u : Nat) (_ : Carry) : Act :=
  f.withHeads e u k [0, 1] fun ts l =>
    let a := nth {} ts 0
    let b := nth {} ts 1
    if !a.isData then f.swallow e u l
    else
      let la := a.laneAddrs (a.pred &&& b.pred)
      let sz := elemBytes a.fmt
      if (a.space ≠ 1 ∧ la ≠ []) ∨ s.lanesBad core a.space a.fmt n.els la = true then .flt k 7 0 5 0
      else s.withReach core e k 1 1 sz 0 (elemAddrs n.els sz la) (n.els * sz) la fun ks _ =>
        if ks.flatten.any s.isFull then .wait 7
        else s.startMem core e k n l [] 0 { req := none, addr := {} }
          (.latch { by_ := whoUnit core e k, path := 1, kind := .write, va := (la.head?.map Prod.snd).getD 0, circ := 3
                    wr := storeBytes n a.fmt b ks la, dep := a.taint || b.taint }) true id

/-! ### LDVN, STVN, RECLN (R374) -/

def Tok.version (t : Tok) : Nat := (t.lane 0).toNat + bits (t.lane 1).toNat 0 16 * 2 ^ 32
/-- Whether the word's address and version are ones a node refuses. -/
def State.wordBad (s : State) (core size : Nat) (a v : Tok) : Bool :=
  a.addr % size != 0 || bits (v.lane 1).toNat 16 16 != 0 || 3 ≤ a.space ||
    (a.space != 0 && (s.spaceKey core a.space (a.addr + size - 1)).isNone)

def ldvnAct (s : State) (core e k : Nat) (f : Fabric) (n : Node) (u : Nat) (_ : Carry) : Act :=
  f.withHeads e u k [0, 1] fun ts l =>
    let a := nth {} ts 0
    let v := nth {} ts 1
    let taint := a.taint || v.taint
    if !a.isData then s.passMem core e k n l { a with taint := taint }
    else
      let sz := 2 ^ bits n.fn 0 2
      if s.wordBad core sz a v then .flt k 7 0 5 0
      else if (f.unit e u).pend.any fun p => match p.req with
          | some i => match s.req i with | some r => !r.applied | none => false
          | none => false then .wait 6
      else s.withReach core e k a.space 0 sz 0 [a.addr] sz [(0, a.addr)] fun ks d =>
        s.startMem core e k n l n.dataOuts 1 { req := none, addr := { taint := taint } }
          (.now { by_ := whoUnit core e k, path := 1, kind := .vload, va := a.addr, dev := d, rd := ks.flatten,
                  ver := v.version, dep := taint, heldAt := some s.clk.fab }) true id

def stvnAct (s : State) (core e k : Nat) (f : Fabric) (n : Node) (u : Nat) (_ : Carry) : Act :=
  f.withHeads e u k [0, 1, 2] fun ts l =>
    let a := nth {} ts 0
    let b := nth {} ts 1
    let v := nth {} ts 2
    if !a.isData then f.swallow e u l
    else
      let sz := 2 ^ bits n.fn 0 2
      if s.wordBad core sz a v then .flt k 7 0 5 0
      else s.withReach core e k a.space 1 sz 0 [a.addr] sz [(0, a.addr)] fun ks _ =>
        let x := (b.lane 0).toNat + (b.lane 1).toNat * 2 ^ 32
        s.logMem core e k n l (f.log e ++ [⟨k, 1, ks.flatten.zip (leBytes x sz), v.version, nth 0 ks.flatten 0, a.addr⟩]) a.addr

def reclnAct (s : State) (core e k : Nat) (f : Fabric) (n : Node) (u : Nat) (_ : Carry) : Act :=
  f.withHeads e u k [0, 1] fun ts l =>
    let a := nth {} ts 0
    let v := nth {} ts 1
    if !a.isData then f.swallow e u l
    else if s.wordBad core 1 a v then .flt k 7 0 5 0
    else s.withReach core e k a.space 1 1 0 [a.addr] 1 [] fun ks _ =>
      s.logMem core e k n l (f.log e ++ [⟨k, 2, [], v.version, nth 0 ks.flatten 0, a.addr⟩]) a.addr

/-! ### ATN, ORDJ (R373, R376) -/

/-- R376: one update per lane live in the address token, in lane order. -/
def atnAct (s : State) (core e k : Nat) (f : Fabric) (n : Node) (u : Nat) (_ : Carry) : Act :=
  f.withHeads e u k [0, 1] fun ts l =>
    let a := nth {} ts 0
    let b := nth {} ts 1
    let taint := a.taint || b.taint
    if !a.isData then s.passMem core e k n l { a with taint := taint }
    else
      let la := a.laneAddrs a.pred
      if s.lanesBad core a.space a.fmt 1 la || (la != [] && elemBytes a.fmt != 4) then .flt k 7 0 5 0
      else s.withReach core e k a.space 1 4 0 (la.map Prod.snd) 4 la fun ks d =>
        s.startMem core e k n l n.dataOuts 1 { req := none, addr := { a with taint := taint } }
          (.latch { by_ := whoUnit core e k, path := 1, kind := .atomic, va := (la.head?.map Prod.snd).getD 0, dev := d,
                    ats := (ks.zip la).map fun x =>
                      ⟨nth 0 x.1 0, bits n.fn 0 4, false, n.ty == 1, none, w64 (b.lane x.2.1).toNat⟩,
                    dep := taint }) true id

def ordjAct (e k : Nat) (f : Fabric) (n : Node) (u : Nat) (_ : Carry) : Act :=
  match n.ports.find? fun p => match f.head e u p with | some t => t.isAligned | none => true with
  | some p => .wait (3 + p)
  | none =>
    let l := n.ports.filterMap fun p => (f.head e u p).map fun t => (p, t)
    match l.find? fun x => x.2.kind != kOrder with
    | some x => .bad k x.1 5
    | none => f.step e u l (outsOf n.omask) [ctlTok kOrder (l.any fun x => x.2.taint)] id

/-! ### SCAT (R377): `toks` holds the index token, `n` the live lane's place, `n2` the row's next token -/

def scatRow (s : State) (core e k : Nat) (n : Node) (g : Gen) (takes : List (Nat × Tok)) (t b : Tok) (c : Carry) : Act :=
  let live := (List.range 16).filter t.live
  let i := nth 0 live c.n
  let idx := sextNat (t.lane i).toNat 32
  let rch := n.e 23 4 + 1
  if idx < 0 ∨ (nth 0 g.ext 1 : Int) ≤ idx then .flt k 7 0 5 0
  else
    let sz := elemBytes g.fmt
    let row := addInt g.base.toNat (idx * nth 0 g.str 1 + (c.n2 * 16 * n.els * sz : Nat))
    let la := ((List.range 16).filter b.live).map fun j => (j, (row + j * n.els * sz) % 2 ^ 64)
    if s.lanesBad core g.space g.fmt n.els la then .flt k 7 0 5 0
    else s.withReach core e k g.space 1 sz 0 (elemAddrs n.els sz la) (n.els * sz) la fun ks d =>
      let rowEnd := c.n2 + 1 == rch
      let fin := rowEnd && c.n + 1 == live.length
      s.startMem core e k n takes [] 0 { req := none, addr := {} }
        (.latch { by_ := whoUnit core e k, path := 1, kind := .write, va := row, dev := d,
                  wr := storeBytes n g.fmt b ks la, dep := t.taint || b.taint }) fin
        fun c => if fin then {} else { c with toks := [t], n := if rowEnd then c.n + 1 else c.n, n2 := if rowEnd then 0 else c.n2 + 1 }

def scatAct (s : State) (core e k : Nat) (f : Fabric) (n : Node) (u : Nat) (c : Carry) : Act :=
  let g := (f.unit e u).gen
  let row (takes : List (Nat × Tok)) (t : Tok) : Act := match f.look e u 1 with
    | .miss => .wait 4
    | .align _ => .wait (f.lack e u 1)
    | .bad sub => .bad k 1 sub
    | .tok b => if b.isData then scatRow s core e k n g (takes ++ [(1, b)]) t b c else .bad k 1 4
  match c.toks with
  | t :: _ => (row [] t).ofTaken f e u
  | [] => match f.look e u 0 with
    | .miss => .wait 3
    | .align _ => .wait (f.lack e u 0)
    | .bad sub => .bad k 0 sub
    | .tok t =>
      if t.isData then (if t.pred = 0#16 then f.swallow e u [(0, t)] else row [(0, t)] t)
      else match f.look e u 1 with
        | .miss => .wait 4
        | .align _ => .wait (f.lack e u 1)
        | .bad sub => .bad k 1 sub
        | .tok b => match pairBad t b with
          | some p => .bad k p 4
          | none => f.swallow e u [(0, t), (1, b)]

/-! ### RPORT (R148, R378): `pos` is the position in the window, in 64-byte units -/

def rportCore (core : Nat) (n : Node) : Nat := clusterOf core * 32 + bits n.param 0 5
def rportAct (s : State) (core e k : Nat) (f : Fabric) (n : Node) (u : Nat) (_ : Carry) : Act :=
  match f.look e u 0 with
  | .miss => .wait 3
  | .align _ => .wait (f.lack e u 0)
  | .bad sub => .bad k 0 sub
  | .tok t =>
    let wr := bits n.fn 0 1 = 1
    if !t.isData then (if wr then f.swallow e u [(0, t)] else s.passMem core e k n [(0, t)] t)
    else
      let rlen := n.e 39 16 + 1
      let pos := (f.unit e u).pos
      let o := (n.e 23 16 + pos) * 64
      match s.spKey (rportCore core n) o, s.spKey (rportCore core n) (o + 63) with
      | some key, some _ =>
        let by_ := whoUnit core e k
        let a := if wr then
            let l := (List.range 16).filter t.live
            s.startMem core e k n [(0, t)] [] 0 { req := none, addr := {} }
              (.latch { by_ := by_, path := 1, kind := .write, dep := t.taint, circ := if bits n.fn 1 1 = 1 then 2 else 1
                        wr := l.flatMap fun i => bytesAt (key + 4 * i) (leBytes (t.lane i).toNat 4) }) true id
          else
            s.startMem core e k n [(0, t)] n.dataOuts 1 { req := none, addr := { taint := t.taint, pred := t.pred } }
              (.now { by_ := by_, path := 1, kind := .read, rd := keyRange key 64, dep := t.taint }) true id
        let la := if wr then ((List.range 16).filter t.live).map fun i => (i, o + 4 * i) else [(0, o)]
        a.also fun s => (s.updFab core fun f => f.updUnit e u fun x => { x with pos := (pos + 1) % rlen }).watchF core e 1
          (if wr then 4 else 64) wr la
      | _, _ => .flt k 7 0 5 0

def execLdn (core elem k : Nat) (s : State) : Result := .next (s.alone core elem k 0x41 (ldnAct s core elem k))
def execLdcn (core elem k : Nat) (s : State) : Result := .next (s.alone core elem k 0x43 (ldnAct s core elem k))
def execStn (core elem k : Nat) (s : State) : Result := .next (s.alone core elem k 0x42 (stnAct s core elem k))
def execLdvn (core elem k : Nat) (s : State) : Result := .next (s.alone core elem k 0x44 (ldvnAct s core elem k))
def execStvn (core elem k : Nat) (s : State) : Result := .next (s.alone core elem k 0x45 (stvnAct s core elem k))
def execLdfe (core elem k : Nat) (s : State) : Result := .next (s.alone core elem k 0x46 (ldfeAct s core elem k))
def execStfe (core elem k : Nat) (s : State) : Result := .next (s.alone core elem k 0x47 (stfeAct s core elem k))
def execAtn (core elem k : Nat) (s : State) : Result := .next (s.alone core elem k 0x48 (atnAct s core elem k))
def execOrdj (core elem k : Nat) (s : State) : Result := .next (s.alone core elem k 0x49 (ordjAct elem k))
def execScat (core elem k : Nat) (s : State) : Result := .next (s.alone core elem k 0x4B (scatAct s core elem k))
def execRport (core elem k : Nat) (s : State) : Result := .next (s.alone core elem k 0x4C (rportAct s core elem k))
def execRecln (core elem k : Nat) (s : State) : Result := .next (s.alone core elem k 0x4D (reclnAct s core elem k))

end Sys2Proof.Machine
end

