-- ==== Sys2Proof/Machine/Agen.lean ====
section
/-! DEFINITION. Address generators (R124, R364 to R369). -/

namespace Sys2Proof.Machine

def Fabric.updGen (f : Fabric) (e : Nat) (g : Gen → Gen) : Fabric := f.updUnit e 0 fun x => { x with gen := g x.gen }

/-- R364: whether a shape is one that the walk may use. -/
def Node.shapeOk (n : Node) (g : Gen) : Bool :=
  let e : Int := n.els
  let sz : Int := fmtBytes g.fmt
  let s0 := nth 0 g.str 0
  let dims := if n.selA = 1 then g.ndim - 1 else g.ndim
  n.e 23 3 + n.e 26 3 ≤ dims && (n.els == 1 || (s0 == sz && nth 0 g.ext 0 % n.els == 0)) &&
    decide (-2 ^ 31 ≤ e * s0) && decide (e * s0 < 2 ^ 31)

/-- R368: what a BOUND value does to the shape; none for a configuration fault. -/
def Node.boundShape (n : Node) (g : Gen) (t : Tok) : Option Gen :=
  let v := (t.lane 0).toNat + (t.lane 1).toNat * 2 ^ 32
  let sel := v / 2 ^ 60
  if g.ring.isSome then none
  else if sel = 0 then
    some { g with base := if g.space = 0 then ((sextNat v 57) % 2 ^ 64) else (v % 2 ^ 32 : Nat) }
  else
    let d := sel - 1
    let x := v % 2 ^ 25
    let g' := { g with ext := setNth g.ext d x }
    if 5 < sel ∨ x = 0 ∨ 2 ^ 24 < x ∨ g.ndim ≤ d ∨ n.shapeOk g' = false then none else some g'

/-- A token of port b that is not aligned: a BOUND token is taken, and with BWAIT the round needs no more. -/
def boundAct (f : Fabric) (e : Nat) (n : Node) (t : Tok) : Act :=
  if ((f.unit e 0).port 1).done then .bad 0 1 1
  else if t.isDone then .ok (f.take e 0 1 t)
  else if t.kind ≠ kBound then .bad 0 1 5
  else match n.boundShape (f.unit e 0).gen t with
    | none => .flt 0 5 1 0 0
    | some g => .ok ((f.take e 0 1 t).updUnit e 0 fun x => { x with
        gen := { g with bound := bits n.fn 0 1 == 1 }, car := { x.car with taint := x.car.taint || t.taint } })

/-- R368: whether the round may begin: nothing (yes), or what the unit does first. -/
def boundFirst (f : Fabric) (e : Nat) (n : Node) (g : Gen) : Option Act :=
  if n.selB ≠ 2 ∨ g.bound = true then none
  else match f.look e 0 1 with
    | .align _ => if bits n.fn 0 1 = 1 then some (.wait 4) else none
    | .miss => if bits n.fn 0 1 = 1 then some (.wait 4) else none
    | _ => match f.head e 0 1 with
      | some t => some (boundAct f e n t)
      | none => none

/-- Dimensions that a walk goes through: all of them, or all but the last in indexed mode; a ring walks slots. -/
def Node.walkDims (n : Node) (g : Gen) : Nat := if n.selA = 1 then g.ndim - 1 else g.ndim
/-- R365: after a row, the counters of dimensions 1 and up, and the dimensions whose runs have just completed. -/
def odometer (ext : List Nat) : Nat → Nat → List Nat → List Nat × Nat
  | 0, d, _ => ([], d)
  | fuel + 1, d, idx =>
    let i := idx.headD 0 + 1
    if i < nth 1 ext d then (i :: idx.tail, d)
    else
      let r := odometer ext fuel (d + 1) idx.tail
      (0 :: r.1, r.2)

/-- The row of the walk in an ordinary shape; `idx` are the counters of dimensions 1 and up. -/
def Gen.row (g : Gen) (last : Int) : Int :=
  (g.idx.zip (g.str.drop 1)).foldl (fun a x => a + x.1 * x.2) (g.base + last)

/-- An address token. -/
def addrTok (a : Nat) (ls : Int) (l3 : W32) (live : BitVec 16) (taint : Bool) : Tok :=
  { taint := taint, pred := live,
    lanes := [BitVec.ofNat 32 a, BitVec.ofNat 32 (a / 2 ^ 32), BitVec.ofNat 32 (wrapInt ls 32), l3] ++ List.replicate 12 0#32 }

/-- R323: whether a generator holds the translation of an address, and its page is one that R369 asks for. -/
def Gen.holds (g : Gen) (pdom a : Nat) : Bool := g.pages.any fun p => tlbHit pdom (va57 (w64 a)) p && rightOk 3 p
/-- Addresses of space 0 whose pages a token touches and the generator does not hold. -/
def Gen.lacks (g : Gen) (pdom n : Nat) (t : Tok) : List Nat :=
  if t.space ≠ 0 then []
  else ((t.laneAddrs t.pred).flatMap fun x => if n ≤ 1 then [x.2] else [x.2, (x.2 + n - 1) % 2 ^ 64]).filter fun a =>
    !g.holds pdom a
/-- R369: the first of those that the core's TLBs lack or whose translation fails. -/
def State.agenPages (s : State) (core e : Nat) (l : List Nat) : Reach :=
  s.reach (.unit core e 0) core (s.fab core).pdom 0 3 1 l
/-- R323: the translations of a domain that its core's TLB holds, which address generators copy. -/
def State.heldPages (s : State) (core pdom : Nat) : List TlbE := (SMap.get [] s.xl.tlbs core).filter (·.pdom == pdom)
/-- The generator keeps what it has translated. -/
def State.keepPages (s : State) (core pdom : Nat) (l : List Nat) (g : Gen) : Gen :=
  { g with pages := g.pages ++ (s.heldPages core pdom).filter fun p => l.any fun a => tlbHit pdom (va57 (w64 a)) p }

/-- One token of the walk: the token, and the walk after it. -/
def Node.walk (n : Node) (g : Gen) (taint : Bool) : Tok × Gen :=
  let e := n.els
  match g.ring with
  | some (T, N, _, _) =>
    let sz := elemBytes n.ty
    let w := nth 0 g.idx 0
    let slot := (g.round + w) % N
    let cnt := Nat.min 16 ((T - g.col + e * sz - 1) / (e * sz))
    let fin := T ≤ g.col + 16 * e * sz
    let rounds := w + 1 == n.e 29 4 + 1
    let t := addrTok (g.base.toNat + slot * T + g.col) (e * sz : Nat)
      (lane3 (bits n.param 0 8) slot (fin && w == 0) true n.ty 1) (firstLanes cnt) taint
    (t, { g with
      col := if fin then 0 else g.col + 16 * e * sz
      idx := if fin then [if rounds then 0 else w + 1] else g.idx
      last := fin && rounds
      round := if fin && rounds then g.round + 1 else g.round
      stops := if fin then
          ((List.range (if rounds then 2 else 1)).filter fun d => n.e 23 3 ≤ d && d < n.e 23 3 + n.e 26 3).map fun d =>
            8 + (d - n.e 23 3)
        else [] })
  | none =>
    let lane := if n.selA = 1 then sextNat (g.lanes.headD 0) 32 * nth 0 g.str (g.ndim - 1) else 0
    let l3 := lane3 (bits n.param 0 8) 0 false false g.fmt g.space
    let s0 := nth 0 g.str 0
    let wrap (x : Int) : Nat := addInt 0 (if g.space = 0 then x else x % 2 ^ 32)
    if n.selA = 1 && g.ndim == 1 then
      (addrTok (wrap (g.base + sextNat (g.lanes.headD 0) 32 * s0)) (e * s0) l3 1#16 taint,
       { g with last := true, stops := [] })
    else
      let ext0 := nth 1 g.ext 0
      let cnt := Nat.min 16 ((ext0 - g.col + e - 1) / e)
      let t := addrTok (wrap (g.row lane + g.col * s0)) (e * s0) l3 (firstLanes cnt) taint
      if g.col + 16 * e < ext0 then (t, { g with col := g.col + 16 * e, stops := [] })
      else
        let D := n.walkDims g
        let r := odometer g.ext (D - 1) 1 g.idx
        let fsd := n.e 23 3
        let l := ((List.range r.2).filter fun d => fsd ≤ d && d < fsd + n.e 26 3).map fun d => 8 + (d - fsd)
        (t, { g with col := 0, idx := r.1, last := r.2 == D, stops := l })

/-- Bytes of one lane of a token. -/
def Node.laneSpan (n : Node) (g : Gen) : Nat := n.els * fmtBytes (if g.ring.isSome then n.ty else g.fmt)

/-- A token of the walk written when its pages translate; `fin` is what completes the walk when no stop follows. -/
def walkAct (s : State) (core e : Nat) (f : Fabric) (n : Node) (g : Gen) (taint : Bool) (fin : Fabric → Fabric) : Act :=
  let r := n.walk g taint
  let l := g.lacks f.pdom (n.laneSpan g) r.1
  match s.agenPages core e l with
  | .miss va => .waitS (s.want (.unit core e 0) f.pdom (w64 va) 3) 3
  | .fault _ va => .flt 0 4 0 va 0
  | .keys _ _ => match f.emit e 0 (outsOf n.omask) [r.1] with
    | .error c => .wait c
    | .ok f =>
      let f := f.updGen e fun _ => s.keepPages core f.pdom l r.2
      .ok (if r.2.stops.isEmpty && r.2.last then fin f else f)

/-- A stop of the walk written; after the last one of a completed walk, `fin`. -/
def stopAct (f : Fabric) (e : Nat) (n : Node) (g : Gen) (taint : Bool) (fin : Fabric → Fabric) : Act :=
  match f.emit e 0 (outsOf n.omask) [ctlTok (g.stops.headD 8) taint] with
  | .error c => .wait c
  | .ok f =>
    let f := f.updGen e fun g => { g with stops := g.stops.tail }
    .ok (if g.stops.tail.isEmpty && g.last then fin f else f)

/-- A round of a source ends: its permit is spent. -/
def sourceEnd (e : Nat) (f : Fabric) : Fabric :=
  (f.updUnit e 0 fun x => { x.spent with
    car := { x.car with taint := false }, gen := { x.gen with busy := false, last := false, bound := false } })

/-- R365, R367: a source. DONE follows the last stop of a permit marked LAST, or of any permit of a CSTRM. -/
def agenSource (s : State) (core e : Nat) (f : Fabric) (n : Node) (c : Carry) (g : Gen) : Act :=
  let done := (f.unit e 0).permits.headD false || !f.underCnt e 0
  let fin (f : Fabric) : Fabric :=
    if done && !g.stops.contains kDone then f.updGen e fun g => { g with stops := [kDone] } else sourceEnd e f
  if !g.busy then
    if (f.unit e 0).injectDue then .wait 0
    else match boundFirst f e n g with
    | some a => a
    | none => walkAct s core e f n { g with
        busy := true, col := 0, last := false, stops := []
        idx := if g.ring.isSome then [0] else List.replicate (g.ndim - 1) 0 } c.taint fin
  else if g.stops == [kDone] && f.doneHeld e 0 then .wait 0
  else if !g.stops.isEmpty then stopAct f e n g c.taint fin
  else walkAct s core e f n g c.taint fin

/-- R366: an index token walked lane by lane; `lanes` are the values still to walk. -/
def agenIndexed (s : State) (core e : Nat) (f : Fabric) (n : Node) (c : Carry) (g : Gen) : Act :=
  let fin (f : Fabric) : Fabric :=
    let f := f.updGen e fun g => { g with lanes := g.lanes.tail, busy := false, last := false }
    if (f.unit e 0).gen.lanes.isEmpty then
      (f.updUnit e 0 fun x => { x with gen := { x.gen with bound := false }, car := { x.car with taint := false } }).spend e 0
    else f
  if !g.stops.isEmpty then stopAct f e n g c.taint fin
  else match g.lanes with
    | x :: _ =>
      let i := sextNat x 32
      Act.ofTaken f e 0 <| if i < 0 ∨ (nth 0 g.ext (g.ndim - 1) : Int) ≤ i then .flt 0 7 0 5 0
      else walkAct s core e f n (if g.busy then g else { g with
        busy := true, col := 0, last := false, idx := List.replicate (g.ndim - 2) 0 }) c.taint fin
    | [] => match f.look e 0 0 with
      | .miss => .wait 3
      | .align _ => .wait (f.lack e 0 0)
      | .bad sub => .bad 0 0 sub
      | .tok t =>
        if t.isData then
          match boundFirst f e n g with
          | some a => a
          | none =>
            if t.pred = 0#16 then
              .ok (((f.take e 0 0 t).updUnit e 0 fun x => { x with
                gen := { x.gen with bound := false }, car := { x.car with taint := false } }).spend e 0)
            else .ok ((f.take e 0 0 t).updUnit e 0 fun x => { x with
              gen := { x.gen with lanes := t.values.map BitVec.toNat, busy := false }
              car := { x.car with taint := x.car.taint || t.taint } })
        else f.step e 0 [(0, t)] (outsOf n.omask) [if t.isStop then { t with kind := t.kind + n.e 26 3 } else t] id

/-- R364. BOUND tokens of an indexed generator are taken as its index token is about to be. -/
def agenAct (s : State) (core e : Nat) (f : Fabric) (n : Node) (_ : Nat) (c : Carry) : Act :=
  let g := (f.unit e 0).gen
  match f.head e 0 1 with
  | some t =>
    if n.selB = 2 ∧ t.kind ≠ kBound ∧ t.isAligned = false then boundAct f e n t
    else if n.selA = 1 then agenIndexed s core e f n c g else agenSource s core e f n c g
  | none => if n.selA = 1 then agenIndexed s core e f n c g else agenSource s core e f n c g

def execAgen (core elem k : Nat) (s : State) : Result :=
  .next (if isAg elem = true ∧ k = 0 then s.alone core elem 0 0x40 (agenAct s core elem) else s)

end Sys2Proof.Machine
end

