-- ==== Sys2Proof/Machine/Fibre.lean ====
section
/-! DEFINITION. Fibre operations: FSCAN, FINT, FUNI, FREP, FRED, FDROP (R388 to R399). A token stays at its port's head
until the last of its lanes is used, so that a fault names the tokens taken before it. -/

namespace Sys2Proof.Machine

/-- A firing that is not the last for its token: outputs and carried state only. -/
def Fabric.partStep (f : Fabric) (e : Nat) (os : List Nat) (l : List Tok) (g : Carry → Carry) : Act :=
  match f.emit e 0 os l with
  | .error c => .wait c
  | .ok f => .ok (f.updUnit e 0 fun x => { x with car := g x.car })
/-- Writes one token to each of several ports, takes tokens and updates what the unit carries. -/
def Fabric.stepEach (f : Fabric) (e : Nat) (takes : List (Nat × Tok)) (outs : List (Nat × Tok)) (g : Carry → Carry) : Act :=
  match outs.find? fun x => !f.room e 0 x.1 1 with
  | some x => .wait (7 + x.1)
  | none =>
    let f := outs.foldl (fun f x => f.put e 0 x.1 x.2) f
    let f := (f.takeAll e 0 takes).updUnit e 0 fun x => { x with car := g x.car }
    .ok (if takes.isEmpty then f else f.spend e 0)

/-- Live lanes of a token as numbers of its lanes. -/
def Tok.liveLanes (t : Tok) : List Nat := (List.range 16).filter t.live
def crd (w : W32) : Int := sextNat w.toNat 32
def bothOuts (n : Node) (l : List (Nat × Tok)) : List (Nat × Tok) := l.filter fun x => n.omask.getLsbD x.1

/-! ### FSCAN (R391, R392): `n` the parent's live lane, `n2` coordinates written of its fibre, `n3` lanes used of b's
head, `vals` the coordinates packed so far -/

/-- The next parent lane; the parents are taken with the last. -/
def scanNext (f : Fabric) (e : Nat) (n : Node) (parents : List (Nat × Tok)) (last taint : Bool) (c : Carry) : Act :=
  let s0 := stopTok 0 taint
  if last then f.stepEach e parents (bothOuts n [(0, s0), (1, s0)]) fun _ => { n3 := c.n3 }
  else f.stepEach e [] (bothOuts n [(0, s0), (1, s0)]) fun _ => { n := c.n + 1, n3 := c.n3 }

def denseAct (e : Nat) (f : Fabric) (n : Node) (c : Carry) : Act :=
  match f.look e 0 0 with
  | .miss => .wait 3
  | .align _ => .wait (f.lack e 0 0)
  | .bad sub => .bad 0 0 sub
  | .tok a =>
    if !a.isData then
      let t := if a.isStop then { a with kind := a.kind + 1 } else a
      f.stepEach e [(0, a)] (bothOuts n [(0, t), (1, t)]) id
    else if a.pred = 0#16 then f.stepEach e [(0, a)] [] id
    else
      let lanes := a.liveLanes
      let N := n.param % 2 ^ 24
      if c.n2 < N then
        let live := firstLanes (N - c.n2)
        let q := (a.lane (nth 0 lanes c.n)).toNat
        let t0 := dataTok live a.taint fun i => BitVec.ofNat 32 (c.n2 + i)
        let t1 := dataTok live a.taint fun i => BitVec.ofNat 32 (q * N + c.n2 + i)
        f.stepEach e [] (bothOuts n [(0, t0), (1, t1)]) fun c => { c with n2 := c.n2 + 16 }
      else scanNext f e n [(0, a)] (c.n + 1 == lanes.length) a.taint c

/-- Coordinates owed to a parent lane: taken from b's head into the packed token, or the token, or S0, written. -/
def cmpLane (e : Nat) (f : Fabric) (n : Node) (a p : Tok) (c : Carry) : Act :=
  let lanes := a.liveLanes
  let i := nth 0 lanes c.n
  let start := crd (a.lane i)
  let cnt := crd (p.lane i) - start
  let taint := a.taint || p.taint
  if cnt < 0 ∨ 2 ^ 24 < cnt then .bad 0 0 7
  else
    let owed := cnt.toNat - c.n2
    if c.vals.length = 16 ∨ (owed = 0 ∧ c.vals ≠ []) then
      let k0 := start + (c.n2 - c.vals.length : Nat)
      let t0 := packed c.vals (taint || c.taint)
      let t1 := dataTok (firstLanes c.vals.length) (taint || c.taint) fun i => BitVec.ofNat 32 (wrapInt (k0 + i) 32)
      f.stepEach e [] (bothOuts n [(0, t0), (1, t1)]) fun c => { c with vals := [], taint := false }
    else if owed = 0 then scanNext f e n [(0, a), (2, p)] (c.n + 1 == lanes.length) taint c
    else match f.look e 0 1 with
      | .miss => .wait 4
      | .align _ => .bad 0 1 4
      | .bad sub => .bad 0 1 sub
      | .tok b =>
        if b.isDone then .bad 0 1 4
        else
          let l := b.values.drop c.n3
          let m := Nat.min (Nat.min owed (16 - c.vals.length)) l.length
          let fin := m = l.length
          f.stepEach e (if fin then [(1, b)] else []) [] fun c => { c with
            vals := c.vals ++ l.take m, n2 := c.n2 + m, n3 := if fin then 0 else c.n3 + m
            taint := c.taint || (b.taint && m != 0) }

/-- R391, R398: what port b holds when its parents stand at an aligned token: dead lanes are skipped, and a coordinate
or DONE breaks the alignment. -/
def cmpRest (e : Nat) (f : Fabric) (a : Tok) (c : Carry) : Act :=
  match f.look e 0 1 with
  | .miss => .wait 4
  | .align t => if t.kind = a.kind then .wait (f.lack e 0 1) else .bad 0 1 4
  | .bad sub => .bad 0 1 sub
  | .tok b => if b.isData && (b.values.drop c.n3).isEmpty then f.stepEach e [(1, b)] [] fun c => { c with n3 := 0 } else .bad 0 1 4

def cmpAct (e : Nat) (f : Fabric) (n : Node) (c : Carry) : Act :=
  match f.heads e 0 [0, 2] with
  | .miss p => match f.head e 0 0, f.head e 0 2 with
    | some a, some b => if a.isAligned && b.isAligned then cmpRest e f a c else .wait (3 + p)
    | _, _ => .wait (3 + p)
  | .bad p sub => .bad 0 p sub
  | .toks l =>
    let a := nth {} (l.map Prod.snd) 0
    let p := nth {} (l.map Prod.snd) 1
    if a.isData then
      if a.pred ≠ p.pred then .bad 0 2 4
      else if a.pred = 0#16 then f.stepEach e l [] id
      else cmpLane e f n a p c
    else if a.isStop then
      let t := { a with kind := a.kind + 1, taint := a.taint || p.taint }
      f.stepEach e l (bothOuts n [(0, t), (1, t)]) id
    else match f.look e 0 1 with
      | .miss => .wait 4
      | .align _ => .bad 0 1 4
      | .bad sub => .bad 0 1 sub
      | .tok b =>
        if b.isDone then
          let t := { a with taint := a.taint || p.taint || b.taint }
          f.stepEach e (l ++ [(1, b)]) (bothOuts n [(0, t), (1, t)]) id
        else if b.values.drop c.n3 = [] then f.stepEach e [(1, b)] [] fun c => { c with n3 := 0 }
        else .bad 0 1 4

def singletonAct (e : Nat) (f : Fabric) (n : Node) : Act :=
  match f.heads e 0 [0, 1] with
  | .miss p => .wait (3 + p)
  | .bad p sub => .bad 0 p sub
  | .toks l =>
    let a := nth {} (l.map Prod.snd) 0
    let b := nth {} (l.map Prod.snd) 1
    let taint := a.taint || b.taint
    if a.isData then
      let live := a.pred &&& b.pred
      let t (x : Tok) : Tok := { taint := taint, pred := live, lanes := x.lanes }
      f.stepEach e l (bothOuts n [(0, t b), (1, t a)]) id
    else f.stepEach e l (bothOuts n [(0, { a with taint := taint }), (1, { a with taint := taint })]) id

def fscanAct (e : Nat) (f : Fabric) (n : Node) (_ : Nat) (c : Carry) : Act :=
  match bits n.fn 0 2 with
  | 0 => denseAct e f n c
  | 1 => cmpAct e f n c
  | _ => singletonAct e f n

/-! ### FINT and FUNI (R393, R394): `n`, `n2` lanes decided of the heads of a and b; `toks` the last tokens of each in
the open fibre -/

/-- R389: whether a token's coordinates rise, and lie above the fibre's previous one. -/
def rising (prev : Option W32) : List W32 → Bool
  | [] => true
  | x :: t => (match prev with | some p => decide (crd p < crd x) | none => true) && rising (some x) t

/-- Previous coordinates of ports a and b in the open fibre: `vals` with their flags in `flags`. -/
def Carry.prev (c : Carry) (p : Nat) : Option W32 :=
  let fl := nth (false, false) c.flags p
  if fl.1 then some (nth 0#32 c.vals p) else none
def Carry.setPrev (c : Carry) (p : Nat) (w : Option W32) : Carry :=
  let v := [nth 0#32 c.vals 0, nth 0#32 c.vals 1]
  let fl := [nth (false, false) c.flags 0, nth (false, false) c.flags 1]
  { c with vals := setNth v p (w.getD 0#32), flags := setNth fl p (w.isSome, false) }

/-- R393: a meeting that is none of DATA and level-0 stops, nor of two equal tokens; the port that R126 names. -/
def fibreBad (a b : Tok) : Option Nat :=
  if (a.isData || a.kind == 8) && (b.isData || b.kind == 8) then none else pairBad a b
/-- The heads of FINT and FUNI, checked: what is wrong first, port a's before port b's (R389), or both tokens. -/
def Fabric.fibrePair (f : Fabric) (e : Nat) (prev : Nat → Option W32) : Heads :=
  match f.look e 0 0, f.look e 0 1 with
  | .miss, _ => .miss 0
  | .align _, _ => .miss (f.lack e 0 0 - 3)
  | .bad sub, _ => .bad 0 sub
  | .tok _, .miss => .miss 1
  | .tok _, .align _ => .miss (f.lack e 0 1 - 3)
  | .tok a, .bad sub =>
    if a.isData && !rising (prev 0) a.values then .bad 0 8
    else if (f.head e 0 1).any (fun b => (b.isData || b.isStop || b.isDone) && fibreBad a b == some 0) then .bad 0 4
    else .bad 1 sub
  | .tok a, .tok b =>
    if a.isData && !rising (prev 0) a.values then .bad 0 8
    else match fibreBad a b with
      | some 0 => .bad 0 4
      | m =>
        if b.isData && !rising (prev 1) b.values then .bad 1 8
        else match m with
          | some p => .bad p 4
          | none => .toks [(0, a), (1, b)]

/-- R393: marks, for as many coordinates as a row cycle decides; lanes decided of a and of b and the marked lanes of
each. -/
def intersect (a b : List Nat) (x y : Nat → W32) : Nat → Nat → Nat → Nat × Nat × List Nat × List Nat
  | 0, i, j => (i, j, [], [])
  | 1, i, j =>
    if a.length ≤ i ∨ b.length ≤ j ∨ x (nth 0 a i) = y (nth 0 b j) then (i, j, [], [])
    else if crd (x (nth 0 a i)) < crd (y (nth 0 b j)) then (i + 1, j, [], [])
    else (i, j + 1, [], [])
  | left + 2, i, j =>
    if a.length ≤ i ∨ b.length ≤ j then (i, j, [], [])
    else
      let u := nth 0 a i
      let v := nth 0 b j
      if x u = y v then
        let r := intersect a b x y left (i + 1) (j + 1)
        (r.1, r.2.1, u :: r.2.2.1, v :: r.2.2.2)
      else if crd (x u) < crd (y v) then intersect a b x y (left + 1) (i + 1) j
      else intersect a b x y (left + 1) i (j + 1)

/-- FINT keeps the marked lanes so far in `toks` and `toks2` as predicates; `taint` and `on` gather taints for a, b. -/
def markOf (l : List Tok) : BitVec 16 := (nth {} l 0).pred
def predList (l : List Nat) : BitVec 16 := predOf l.contains

def fintAct (e : Nat) (f : Fabric) (n : Node) (_ : Nat) (c : Carry) : Act :=
  match f.fibrePair e c.prev with
  | .miss p => .wait (3 + p)
  | .bad p sub => .bad 0 p sub
  | .toks l =>
    let a := nth {} (l.map Prod.snd) 0
    let b := nth {} (l.map Prod.snd) 1
    if !a.isData && !b.isData then
      let t := { a with taint := a.taint || b.taint }
      f.stepEach e l (bothOuts n [(0, t), (1, t)]) fun _ => {}
    else
      let la := if a.isData then a.liveLanes else []
      let lb := if b.isData then b.liveLanes else []
      let r := intersect la lb a.lane b.lane 16 c.n c.n2
      let ma := markOf c.toks ||| predList r.2.2.1
      let mb := markOf c.toks2 ||| predList r.2.2.2
      let fa := a.isData && (la.length ≤ r.1 || !b.isData)
      let fb := b.isData && (lb.length ≤ r.2.1 || !a.isData)
      /- R388: a token gives its TAINT where it decides lanes of the other. -/
      let ta := c.taint || (b.taint && if b.isData then decide (c.n < r.1) else decide (c.n < la.length))
      let tb := c.on || (a.taint && if a.isData then decide (c.n2 < r.2.1) else decide (c.n2 < lb.length))
      f.stepEach e ((if fa then [(0, a)] else []) ++ (if fb then [(1, b)] else []))
        (bothOuts n ((if fa then [(0, { a with pred := ma, taint := a.taint || ta })] else []) ++
          (if fb then [(1, { b with pred := mb, taint := b.taint || tb })] else []))) fun c =>
        let c := { c with n := if fa then 0 else r.1, n2 := if fb then 0 else r.2.1
                          toks := if fa then [] else [{ pred := ma }], toks2 := if fb then [] else [{ pred := mb }]
                          taint := !fa && ta, on := !fb && tb }
        let c := if fa then c.setPrev 0 (match a.values.getLast? with | some w => some w | none => c.prev 0) else c
        if fb then c.setPrev 1 (match b.values.getLast? with | some w => some w | none => c.prev 1) else c

/-- R394: coordinates merged in order until `room` are found or a side runs out while the other goes on: value, in a,
in b. -/
def merge (a b : List W32) (ea eb : Bool) : Nat → Nat → Nat → Nat × Nat × List (W32 × Bool × Bool)
  | 0, i, j => (i, j, [])
  | room + 1, i, j =>
    let out (i' j' : Nat) (x : W32 × Bool × Bool) : Nat × Nat × List (W32 × Bool × Bool) :=
      let r := merge a b ea eb room i' j'
      (r.1, r.2.1, x :: r.2.2)
    match (a.drop i).head?, (b.drop j).head? with
    | some x, some y =>
      if x = y then out (i + 1) (j + 1) (x, true, true)
      else if crd x < crd y then out (i + 1) j (x, true, false)
      else out i (j + 1) (y, false, true)
    | some x, none => if eb then out (i + 1) j (x, true, false) else (i, j, [])
    | none, some y => if ea then out i (j + 1) (y, false, true) else (i, j, [])
    | none, none => (i, j, [])

/-- FUNI holds its packed token as `toks` (one token a lane: value, taint in a, in b); `n`, `n2` lanes used. -/
def funiHeld (n : Node) (c : Carry) : List (Nat × Tok) :=
  let lanes := c.toks.map fun t => t.lane 0
  let full := (lanes ++ List.replicate 16 0#32).take 16
  let t (p : Nat → Bool) : Tok := { taint := c.taint, pred := predOf fun i => decide (i < lanes.length) && p i, lanes := full }
  bothOuts n [(0, t fun _ => true), (1, t fun i => (nth {} c.toks i).pred.getLsbD 0), (2, t fun i => (nth {} c.toks i).pred.getLsbD 1)]

def funiAct (e : Nat) (f : Fabric) (n : Node) (_ : Nat) (c : Carry) : Act :=
  if c.toks.length = 16 then f.stepEach e [] (funiHeld n c) fun c => { c with toks := [], taint := false }
  else match f.fibrePair e c.prev with
    | .miss p => .wait (3 + p)
    | .bad p sub => .bad 0 p sub
    | .toks l =>
      let a := nth {} (l.map Prod.snd) 0
      let b := nth {} (l.map Prod.snd) 1
      if !a.isData && !b.isData then
        if c.toks ≠ [] then f.stepEach e [] (funiHeld n c) fun c => { c with toks := [], taint := false }
        else
          let t := { a with taint := a.taint || b.taint }
          f.stepEach e l (bothOuts n [(0, t), (1, t), (2, t)]) fun _ => {}
      else
        let va := if a.isData then a.values else []
        let vb := if b.isData then b.values else []
        let r := merge va vb (!a.isData) (!b.isData) (16 - c.toks.length) c.n c.n2
        let fa := a.isData && va.length ≤ r.1
        let fb := b.isData && vb.length ≤ r.2.1
        let taint := (r.2.2.any fun x => x.2.1) && a.taint || (r.2.2.any fun x => x.2.2) && b.taint
        f.stepEach e ((if fa then [(0, a)] else []) ++ (if fb then [(1, b)] else [])) [] fun c =>
          let c := { c with
            toks := c.toks ++ r.2.2.map fun x =>
              { pred := BitVec.ofNat 16 (x.2.1.toNat + 2 * x.2.2.toNat), lanes := [x.1] }
            taint := c.taint || taint, n := if fa then 0 else r.1, n2 := if fb then 0 else r.2.1 }
          let c := if fa then c.setPrev 0 (match va.getLast? with | some w => some w | none => c.prev 0) else c
          if fb then c.setPrev 1 (match vb.getLast? with | some w => some w | none => c.prev 1) else c

/-! ### FREP (R395): `v` the current value, `n` lanes used of a's head -/

/-- What port a gives: a value, nothing left, or what is there. -/
inductive NextA where
  | miss
  | bad (sub : Nat)
  | skip (t : Tok)
  | val (t : Tok) (w : W32) (fin : Bool)
  | ctl (t : Tok)
def Fabric.nextA (f : Fabric) (e n : Nat) : NextA :=
  match f.look e 0 0 with
  | .miss | .align _ => .miss
  | .bad sub => .bad sub
  | .tok t =>
    if !t.isData then .ctl t
    else match t.values.drop n with
      | [] => .skip t
      | w :: r => .val t w r.isEmpty

def frepAct (e : Nat) (f : Fabric) (n : Node) (_ : Nat) (c : Carry) : Act :=
  let os := outsOf n.omask
  let drop (t : Tok) : Act := f.stepEach e [(0, t)] [] fun c => { c with n := 0 }
  match f.look e 0 1 with
  | .miss => .wait 4
  | .align _ => .wait (f.lack e 0 1)
  | .bad sub => .bad 0 1 sub
  | .tok b =>
    if b.isData || b.kind == 8 then
      /- The fibre's value, then its tokens. -/
      let put (w : W32) (taint : Bool) (takes : List (Nat × Tok)) (n' : Nat) : Act :=
        let t := if b.isData then dataTok b.pred (b.taint || taint) fun _ => w else b
        f.stepEach e (takes ++ [(1, b)]) (os.map fun o => (o, t)) fun c => { c with
          n := n', v := if b.isData then some w else none, taint := b.isData && taint }
      match c.v with
      | some w => put w c.taint [] c.n
      | none => match f.nextA e c.n with
        | .miss => .wait 3
        | .bad sub => .bad 0 0 sub
        | .skip t => drop t
        | .val t w fin => put w t.taint (if fin then [(0, t)] else []) (if fin then 0 else c.n + 1)
        | .ctl _ => .bad 0 0 4
    else match f.nextA e c.n with
      | .miss => .wait 3
      | .bad sub => .bad 0 0 sub
      | .skip t => drop t
      | .val .. => .bad 0 0 4
      | .ctl a =>
        if (b.isStop && a.isStop && a.level + 1 == b.level) || (b.isDone && a.isDone) then
          f.stepEach e [(0, a), (1, b)] (os.map fun o => (o, { b with taint := a.taint || b.taint })) fun c =>
            { c with n := 0, v := none, taint := false }
        else .bad 0 0 4

/-! ### FRED (R396): `v` the fibre's value so far, `vals` the values packed -/

def fredIdentity (n : Node) : W32 :=
  let op := bits n.fn 2 3
  if isFp n.ty then
    let f := fmtOf n.ty
    if op = 0 then 0#32 else if op = 1 then BitVec.ofNat 32 f.infBits else BitVec.ofNat 32 (f.infBits + f.signBit)
  else if op = 0 then 0#32
  else if op = 1 then (if n.uns then 0xFFFFFFFF#32 else 0x7FFFFFFF#32)
  else if n.uns then 0#32 else 0x80000000#32

def fredAct (e : Nat) (f : Fabric) (n : Node) (u : Nat) (c : Carry) : Act :=
  let os := outsOf n.omask
  let g := combine n.ty n.rm (bits n.fn 2 3) n.uns
  match f.look e 0 0 with
  | .miss => .wait 3
  | .align _ => .wait (f.lack e 0 0)
  | .bad sub => .bad 0 0 sub
  | .tok t =>
    if t.isData then
      match treeReduce g (t.canon n.ty) with
      | none => f.stepEach e [(0, t)] [] id
      | some x => f.stepEach e [(0, t)] [] fun c => { c with
          v := some (match c.v with | some y => g y x | none => x), taint := c.taint || t.taint }
    else
      let closes := t.isStop && (t.level == 0 || !((f.unit e u).port 0).atEdge)
      let vals := if closes then c.vals ++ [c.v.getD (fredIdentity n)] else c.vals
      let taint := c.taint || (closes && t.taint)
      let held := if vals.length = 16 ∨ (vals ≠ [] ∧ (t.kind ≠ 8)) then [packed vals taint] else []
      let l := held ++ if t.kind = 8 then [] else [if t.isStop then { t with kind := t.kind - 1 } else t]
      f.step e u [(0, t)] os l fun c =>
        if held.isEmpty then { c with v := none, vals := vals, taint := taint } else { c with v := none, vals := [], taint := false }

/-! ### FDROP (R397): `on` the fibre has had a live lane -/

def fdropAct (e : Nat) (f : Fabric) (n : Node) (_ : Nat) (c : Carry) : Act :=
  let ps := if n.selB = 2 then [0, 1] else [0]
  match f.heads e 0 ps with
  | .miss p => .wait (3 + p)
  | .bad p sub => .bad 0 p sub
  | .toks l =>
    let a := nth {} (l.map Prod.snd) 0
    let keep := if a.isData then a.pred != 0#16 else if a.kind = 8 then c.on else true
    f.stepEach e l (if keep then l else []) fun c => { c with on := if a.isData then c.on || a.pred != 0#16 else false }

def execFscan (core elem k : Nat) (s : State) : Result := .next (if k = 0 then s.alone core elem 0 0x58 (fscanAct elem) else s)
def execFint (core elem k : Nat) (s : State) : Result := .next (if k = 0 then s.alone core elem 0 0x59 (fintAct elem) else s)
def execFuni (core elem k : Nat) (s : State) : Result := .next (if k = 0 then s.alone core elem 0 0x5A (funiAct elem) else s)
def execFrep (core elem k : Nat) (s : State) : Result := .next (if k = 0 then s.alone core elem 0 0x5B (frepAct elem) else s)
def execFred (core elem k : Nat) (s : State) : Result := .next (if k = 0 then s.alone core elem 0 0x5C (fredAct elem) else s)
def execFdrop (core elem k : Nat) (s : State) : Result := .next (if k = 0 then s.alone core elem 0 0x5D (fdropAct elem) else s)

end Sys2Proof.Machine
end

