-- ==== Sys2Proof/Machine/Tile.lean ====
section
/-! DEFINITION. Events of memory tiles and elements: results, waits, the egress latch, ring slots, replays, element
Winter (R129, R132, R143 to R147, R220, R223, R363, R371 to R375). -/

namespace Sys2Proof.Machine

/-! ### Ring slots (R146, R223) -/

/-- R136: the stall limit of a cluster, in cycles of its agents. -/
def State.stallLimit (s : State) (cl : Nat) : Nat := 2 ^ (s.clu cl).vstall

/-- How long throttling holds a notice of a core for its producer, in row cycles. -/
def State.noticeDelay (s : State) (core : Nat) (to_ : Agent) : Nat :=
  let cl := clusterOf core
  let own := s.throttleOf cl cl
  match to_ with
  | .larder ld _ => if ld < 32 then Nat.max own (s.throttleOf (8 + ld / 4) cl) else own
  | _ => own
/-- A slot released: count 0, granules empty, a notice to the bound producer, if there is one. -/
def State.releaseSlot (s : State) (core e tid slot : Nat) : State :=
  match ringShape (s.tid core tid) with
  | none => s
  | some (T, _, _, BB, BASE) =>
    let keys := (List.range (T / 16)).filterMap fun i => s.spaceKey core 1 (BASE + slot * T + 16 * i)
    let sent (a : Agent) : Notice :=
      let d := s.noticeDelay core a * (s.fab core).divOf e
      ⟨core, tid, a, if d = 0 then 0 else s.clk.fab + d⟩
    (s.setFull keys false).updMem fun m => { m with
      arrive := SMap.set 0 m.arrive (core * 64 + BB + slot) 0
      notices := m.notices ++ ((SMap.get {} m.rings (core * 256 + tid)).bound.map sent).toList }

/-- A notice counts for its producer only while the ring is bound to it. -/
def MemSt.land (m : MemSt) (n : Notice) : MemSt :=
  let r := SMap.get {} m.rings (n.core * 256 + n.ring)
  if r.bound = some n.to_ then { m with rings := SMap.set {} m.rings (n.core * 256 + n.ring) { r with notices := r.notices + 1 } } else m
def execFreedSlotNoticeArrive (i : Nat) (s : State) : Result :=
  .next (match s.mem.notices[i]? with
    | some n =>
      if n.hold ≠ 0 then s
      else s.updMem fun m => { m.land n with notices := dropNth m.notices i }
    | none => s)
/-- Core and place of the held notices of channels and circuits. -/
def State.lateNotices (s : State) : List (Nat × Nat) :=
  s.fabs.flatMap fun e => (List.range e.2.late.length).map fun j => (e.1, j)
/-- R223: notice `i` is held no more: those of rings come first, then those of channels and circuits. -/
def execThrottledNoticeRelease (i : Nat) (s : State) : Result :=
  .next (match s.mem.notices[i]? with
    | some n =>
      if n.hold ≠ 0 ∧ n.hold ≤ s.clk.fab then s.updMem fun m => { m with notices := setNth m.notices i { n with hold := 0 } } else s
    | none => match s.lateNotices[i - s.mem.notices.length]? with
      | some (core, j) => s.updFab core fun f =>
        if (nth (0, 0, 0, 0) f.late j).2.2.2 ≤ s.clk.fab then { f with late := dropNth f.late j } else f
      | none => s)

/-- R145, R217: the bytes counted into a complete slot are visible to every path. -/
def execArrivalBarrierComplete (core b : Nat) (s : State) : Result :=
  .next ((s.ringsOf core).foldl (fun s r =>
    let (n, T, N, _, BB, _) := r
    if BB ≤ b ∧ b < BB + N ∧ T ≤ SMap.get 0 s.mem.arrive (core * 64 + b) then
      match s.ringSlot core n (b - BB) with
      | some (_, keys) => s.releaseKeys keys
      | none => s
    else s) s)

/-! ### Results (R363, R371, R373, R374, R376) -/

/-- Whether the access of an entry is over: data returned, or a write acknowledged. -/
def State.pendDone (s : State) (p : Pend) : Bool :=
  !p.latched && match p.req with
    | none => true
    | some i => match s.req i with
      | none => true
      | some r => r.applied && (r.acked || r.kind == .read || r.kind == .vload)

/-- What an entry writes to the data outputs. -/
def pendResult (n : Node) (p : Pend) (r : Req) : Option Tok :=
  match n.opc with
  | 0x41 | 0x43 | 0x46 =>
    some (if bits n.fn 0 2 = 2 ∧ n.opc ≠ 0x46 then tokOfLine allLive (p.addr.taint || n.opc == 0x43) r.bytes
      else tokOfBytes n p.addr.fmt p.addr.pred (p.addr.taint || n.opc == 0x43) r.bytes)
  | 0x44 =>
    let x := leNat r.bytes
    some (dataTok 7#16 p.addr.taint fun i =>
      if i = 0 then BitVec.ofNat 32 x else if i = 1 then BitVec.ofNat 32 (x / 2 ^ 32) else BitVec.ofNat 32 (if r.status = 2 then 1 else 0))
  | 0x48 =>
    let pos (i : Nat) : Nat := ((List.range i).filter p.addr.live).length
    some (dataTok p.addr.pred p.addr.taint fun i => (nth 0#64 r.vals (pos i)).setWidth 32)
  | 0x4C => if bits n.fn 0 1 = 0 then some (tokOfLine p.addr.pred p.addr.taint r.bytes) else none
  | _ => none

/-- Reserved tokens written to the data outputs. -/
def Fabric.fill (f : Fabric) (e u : Nat) (os : List Nat) (t : Tok) : Fabric :=
  os.foldl (fun f o => (f.unhold e u o).put e u o t) f

/-- R371: a linked load's data: the token, and S0 when the chain ends. -/
def Fabric.linkDone (f : Fabric) (e u : Nat) (n : Node) (t : Tok) : Fabric :=
  let c := (f.unit e u).car
  let pl := n.e 39 3
  let ptr := (t.lane (2 * pl)).toNat + (t.lane (2 * pl + 1)).toNat * 2 ^ 32
  let f := f.fill e u n.dataOuts t
  if ptr = 0 ∨ c.n = n.hops then
    ((f.fill e u n.dataOuts (stopTok 0 t.taint)).updUnit e u fun x => { x with car := {} }).spend e u
  else
    let f := n.dataOuts.foldl (fun f o => f.unhold e u o) f
    f.updUnit e u fun x => { x with car := { x.car with n2 := addInt ptr (sextNat (n.e 23 16) 16), taint := t.taint } }

def isLinked (n : Node) : Bool := (n.opc == 0x41 || n.opc == 0x43) && bits n.fn 0 2 == 2

/-- The oldest access of a unit is over: its result and its ORDER are written. -/
def State.resultOut (s : State) (core e k : Nat) (n : Node) (p : Pend) : State :=
  let u := unitSlot e k
  let r : Req := match p.req with
    | some i => (s.req i).getD { by_ := .unit core e u, path := 1, kind := .read }
    | none => { by_ := .unit core e u, path := 1, kind := .write }
  let s := match p.req with
    | some i => s.setReq i none
    | none => s
  let f := (s.fab core).updUnit e u fun x => { x with pend := x.pend.tail }
  if r.bad ≠ 0 then s.setFab core (if r.bad = 0xA then f.raise s.clk.fab core e k 7 3 0xA 0
    else f.raiseW s.clk.fab core e k 7 0 p.before r.bad 0)
  else
    let f := match p.pass with
      | some t => f.fill e u n.dataOuts t
      | none =>
        let f := match pendResult n p r with
          | some t => if isLinked n then f.linkDone e u n t else f.fill e u n.dataOuts t
          | none => f
        if n.ordOut then f.fill e u [1] (n.tainted (ctlTok kOrder p.addr.taint)) else f
    /- R223: a slot of a circuit that is free again. -/
    let d := s.holdCycles core
    let f := if n.opc = 0x4C ∧ d ≠ 0 then { f with late := f.late ++ [(e, u, 8, s.clk.fab + d * f.divOf e)] } else f
    let s := s.setFab core f
    if (n.opc = 0x41 ∨ n.opc = 0x43 ∨ n.opc = 0x46) ∧ p.pass.isNone = true ∧ p.addr.ring = true ∧ p.addr.rel = true then
      s.releaseSlot core e p.addr.tid p.addr.slot
    else s

def execLoadResultWrite (core elem k : Nat) (s : State) : Result :=
  let f := s.fab core
  .next (match (f.unit elem (unitSlot elem k)).pend with
    | [] => s
    | p :: _ =>
      if (f.st == .running || f.st == .frozen) && s.pendDone p then s.resultOut core elem k (f.node elem k) p else s)

/-- R203, R374: the version that an LDVN waits for exists. -/
def execLdvnSatisfied (core elem k : Nat) (s : State) : Result :=
  .next (((s.fab core).unit elem (unitSlot elem k)).pend.foldl (fun s p =>
    match p.req with
    | some i => s.carryOut i 0 [.vload]
    | none => s) s)

/-! ### Waits that end -/

/-- R143, R375: the granules of a waiting LDFE or STFE have changed. -/
def execFullEmptyWaitRelease (core elem k : Nat) (s : State) : Result :=
  .next (match ((s.fab core).node elem k).opc with
    | 0x46 => s.alone core elem k 0x46 (ldfeAct s core elem k)
    | 0x47 => s.alone core elem k 0x47 (stfeAct s core elem k)
    | _ => s)
/-- R129: a logged store that waited for room goes on. -/
def execLogSpaceFree (core elem k : Nat) (s : State) : Result :=
  .next (if ((s.fab core).unit elem (unitSlot elem k)).stuckAt.isNone then s
    else match ((s.fab core).node elem k).opc with
      | 0x42 => s.alone core elem k 0x42 (stnAct s core elem k)
      | 0x45 => s.alone core elem k 0x45 (stvnAct s core elem k)
      | 0x4D => s.alone core elem k 0x4D (reclnAct s core elem k)
      | _ => s)
/-- R129, R135: "log full" after the stall limit. -/
def execLogFullStallTimeout (core elem k : Nat) (s : State) : Result :=
  let f := s.fab core
  .next (match (f.unit elem (unitSlot elem k)).stuckAt with
    | some (t, a) =>
      if f.live elem (unitSlot elem k) && t + s.stallLimit (clusterOf core) * f.divOf elem ≤ s.clk.fab then
        s.setFab core (f.raise s.clk.fab core elem k 6 8 a 2)
      else s
    | none => s)

/-! ### The egress latch (R132) -/

def markSent (i : Nat) : List Pend → List Pend
  | [] => []
  | p :: t => if p.latched then { p with latched := false, req := some i } :: t else p :: markSent i t

/-- The oldest entry of its unit leaves. -/
def execEgressLatchRelease (core i : Nat) (s : State) : Result :=
  let f := s.fab core
  .next (match f.egress[i]? with
    | none => s
    | some x =>
      if (f.egress.take i).any fun y => y.elem == x.elem && y.k == x.k then s
      else
        let n := s.mem.nextReq
        let f := { f with egress := dropNth f.egress i }
        let f := f.updUnit x.elem (unitSlot x.elem x.k) fun y => { y with pend := markSent n y.pend }
        (s.setFab core f).issue x.req)

/-- A replay costs a row cycle, which counts as fired and in REPLAY (R137, R138). -/
def execTimingErrorReplay (core elem k : Nat) (s : State) : Result :=
  .next (s.updFab core fun f =>
    let u := unitSlot elem k
    if f.live elem u then (f.tally s.clk.fab elem u 1).updUnit elem u fun x => x.count 11 1 else f)

/-! ### Element Winter (R220) -/

def execElementWinterEntry (core elem : Nat) (s : State) : Result :=
  .next (s.updFab core fun f =>
    if f.st = .done ∧ f.powerOf elem = 0 ∧ SMap.get 0 f.idleSince elem + 4096 * f.divOf elem ≤ s.clk.fab then
      { f with power := SMap.set 2 f.power elem 1 }
    else f)
def execElementWakeComplete (core elem : Nat) (s : State) : Result :=
  .next (s.updFab core fun f =>
    match SMap.get none f.wakeAt elem with
    | some t =>
      if t + 64 ≤ s.clk.fab then { f with
        power := SMap.set 2 f.power elem 0
        wakeAt := SMap.set none f.wakeAt elem none
        idleSince := SMap.set 0 f.idleSince elem s.clk.fab }
      else f
    | none => f)

end Sys2Proof.Machine
end

