-- ==== Sys2Proof/Machine/Align.lean ====
section
/-! DEFINITION. Aligned tokens, commits, drains, and the end of a region by DONE or by a fault (R119, R128 to R134,
R351, R357, R386, R398). -/

namespace Sys2Proof.Machine

/-! ### When a unit takes an aligned token (R119, R351, R398) -/

/-- Operations that take an aligned token only between fibres. -/
def Fabric.betweenFibres (f : Fabric) (e : Nat) : Bool :=
  let n := f.node e 0
  (isVe e || isFu e) && (n.opc == 0x2D || n.opc == 0x2E || n.opc == 0x59 || n.opc == 0x5A || n.opc == 0x5B || n.opc == 0x5D ||
    (n.opc == 0x58 && bits n.fn 0 2 == 1))
/-- Whether such a unit stands between fibres. -/
def Fabric.edgeOk (f : Fabric) (e : Nat) : Bool :=
  let n := f.node e 0
  let u := f.unit e 0
  let c := u.car
  let p (i : Nat) : PortSt := u.port i
  match n.opc with
  | 0x5B => (p 0).atEdge && (p 1).atEdge && !(p 1).open1 && (p 0).fibres == (p 1).fibres1 && c.v.isNone
  | 0x58 => (p 0).atEdge && (p 2).atEdge && (p 0).fibres == (p 2).fibres && c.n == 0 && c.n2 == 0 && c.n3 == 0 && c.vals.isEmpty
  | 0x5D => (f.inPorts e 0).all fun i => (p i).atEdge && (p i).fibres == (p 0).fibres
  | o => (p 0).atEdge && (p 1).atEdge && (p 0).fibres == (p 1).fibres && c.toks.isEmpty && (o != 0x2D || (c.vals.isEmpty && c.n == 0))

inductive Align where
  | no
  | bad (p : Nat)
  /-- The fabric with the tokens taken, and the token to write. -/
  | go (f : Fabric) (t : Tok)

def Fabric.takeAligned (f : Fabric) (e u : Nat) (l : List (Nat × Tok)) : Align :=
  match l with
  | [] => .no
  | (_, t) :: _ =>
    if l.all fun x => x.2.isAligned && x.2.kind == t.kind then
      .go (f.takeAll e u l) { t with taint := l.any fun x => x.2.taint }
    else .no

/-- R389: a RAW load that has taken some of its four tokens. -/
def Fabric.inGroup (f : Fabric) (e : Nat) : Bool :=
  isVe e && (f.node e 0).opc == 0x60 && bits (f.node e 0).fn 0 1 == 1 && !(f.unit e 0).car.toks.isEmpty

/-- R119, R357: a source writes what its controller has injected, in its turn; a token that also comes to its ports is taken
there (log entry 30). A token that comes to its ports alone passes between its rounds. -/
def Fabric.alignSource (f : Fabric) (e u : Nat) : Align :=
  let x := f.unit e u
  let hs := (f.inPorts e u).map fun p => (p, f.head e u p)
  let l := hs.filterMap fun x => x.2.map fun y => (x.1, y)
  let own : Option Inject := match x.inject with
    | i :: _ => if i.ahead = 0 ∧ (!i.mid || x.gen.stops == [kDone] || x.car.n == 1) = true then some i else none
    | [] => none
  match own with
  | some i =>
    let g (f : Fabric) : Fabric := f.updUnit e u fun x => { x with inject := x.inject.tail }
    if !i.port then .go (g f) i.tok
    else if hs.all fun x => match x.2 with | some y => y.kind == i.tok.kind | none => false then
      .go (g (f.takeAll e u l)) { i.tok with taint := l.any fun x => x.2.taint }
    else .no
  | none =>
    if x.gen.busy || x.inject.any (·.port) || hs.any (fun x => x.2.isNone) then .no else f.takeAligned e u l

/-- The heads of a unit's ports, when each holds an aligned token of one kind. -/
def Fabric.alignHeads (f : Fabric) (e u : Nat) : Align :=
  let hs := (f.inPorts e u).map fun p => (p, f.head e u p)
  if hs.any fun x => x.2.isNone then .no else f.takeAligned e u (hs.filterMap fun x => x.2.map fun t => (x.1, t))

/-- R405: an aligned token that the element has passed goes out in its turn; a trigger port must hold the same kind. -/
def Fabric.alignSampler (f : Fabric) (e : Nat) : Align :=
  match (f.unit e 0).car.toks2 with
  | [] => .no
  | t :: r =>
    let g (f : Fabric) : Fabric := f.updUnit e 0 fun x => { x with car := { x.car with toks2 := r } }
    if !t.isAligned then .no
    else if (f.inPorts e 0).isEmpty then .go (g f) t
    else if (f.node e 0).selA = 1 ∧ (f.head e 0 0).any (fun y => y.kind != t.kind) = true then .bad 0
    else match f.alignHeads e 0 with
      | .go h t' => if t'.kind = t.kind then .go (g h) t else .bad 0
      | a => a

/-- R351, R398: an aligned token at a head in any position but between fibres, or one that meets another kind, breaks the
stream. Port b of a compressed FSCAN counts no fibres of its own. -/
def Fabric.alignFibres (f : Fabric) (e : Nat) : Align :=
  let hs := (f.inPorts e 0).map fun p => (p, f.head e 0 p)
  let isB (p : Nat) : Bool := (f.node e 0).opc == 0x58 && p == 1
  match hs.find? fun x => x.2.any Tok.isAligned with
  | none => .no
  | some x =>
    if isB x.1 then .no
    else if !f.edgeOk e || hs.any (fun y => y.2.any fun t =>
        (!isB y.1 || t.isAligned) && some t.kind != x.2.map Tok.kind) then .bad x.1
    else f.alignHeads e 0

def Fabric.aligned (f : Fabric) (e u : Nat) : Align :=
  if f.inGroup e then .no
  else if f.isSource e u then f.alignSource e u
  else if isVe e && (f.node e 0).opc == 0x63 then f.alignSampler e
  else if f.betweenFibres e then f.alignFibres e
  else f.alignHeads e u

/-- Whether every earlier firing of the unit has written its tokens. -/
def Fabric.settled (f : Fabric) (e u : Nat) : Bool :=
  let x := f.unit e u
  x.fly.isEmpty && x.pend.isEmpty && !(f.egress.any fun y => y.elem == e && unitSlot e y.k == u) &&
    x.gen.lanes.isEmpty && !(isMt e && isLinked (f.node e u) && x.car.on) &&
    (x.gen.stops.isEmpty || (x.gen.stops == [kDone] && (x.inject.head?.any fun y => y.mid && y.ahead == 0)))

/-- R344: what FILT compact holds is written first. -/
def Fabric.heldFirst (f : Fabric) (e u : Nat) : List Tok :=
  let n := f.node e u
  let c := (f.unit e u).car
  if n.opc = 0x2C ∧ (isVe e || isFu e) = true ∧ c.vals ≠ [] then [packed c.vals c.taint] else []

/-! ### Checkpoints (R130, R173, R352, R386, R398) -/

/-- A unit as its checkpoint holds it once COMMIT has passed it: of the permits held at the injection those not yet spent,
and a done signal owed for each spent since. DRAIN is injected again when the root is done again. -/
def Unit_.passed (x old : Unit_) : Unit_ := { x with
  permits := old.permits.drop (x.spentN - old.spentN)
  doneOwed := old.doneOwed + (x.spentN - old.spentN)
  published := 0
  inject := x.inject.filter fun t => t.2.kind != kDrain }
/-- A unit's state copied into the checkpoint of the commit that passes it: the one under way, or the last one, which may
have completed without it; what a commit under way holds of the unit goes on from there. -/
def Fabric.snapUnit (f : Fabric) (e u : Nat) (t : Tok) : Fabric :=
  let k := unitKey e u
  let put (x : Snap) : Snap := { x with units := SMap.set {} x.units k ((f.unit e u).passed (SMap.get {} x.units k)) }
  let own := f.newCkpt.any fun x => x.seqNo == (t.lane 0).toNat
  { f with newCkpt := f.newCkpt.map put, ckpt := if own then f.ckpt else put f.ckpt }

/-- R130: a commit is complete once it has passed every memory-tile unit that it reaches. -/
def State.commitDone (s : State) (core : Nat) : State :=
  let f := s.fab core
  match f.newCkpt with
  | none => s
  | some x =>
    if f.commitNeed.all f.commitSeen.contains then
      let s := s.setFab core { f with ckpt := x, newCkpt := none, commitNeed := [], commitSeen := [], atEdge := true }
      let d := s.dbgOf f.pdom
      s.fabHits core 0 f.task (((List.range 8).filter fun i =>
        let w := d.word (0x100 + 0x20 * i)
        bits w 0 1 == 1 && bits w 4 3 == 3 && d.word (0x108 + 0x20 * i) % 2 ^ 16 == x.seqNo &&
          groupHas (bits w 48 16) (bits w 10 1 == 1) (bits w 9 1 == 1) (d.word (0x110 + 0x20 * i)) f.task).map fun i =>
        (0x100 + 0x20 * i, w64 x.seqNo))
    else s

/-- An aligned token written to every output, after the tokens held; the unit's state copied on COMMIT, a counter's at the
injection. -/
def Fabric.forward (f : Fabric) (e u : Nat) (t : Tok) : Except Nat Fabric :=
  let held := f.heldFirst e u
  let t := if isMt e then (f.node e u).tainted t else t
  match f.emit e u (f.outPorts e u) (held ++ [t]) with
  | .error c => .error c
  | .ok f =>
    let f := if held.isEmpty then f else f.updUnit e u fun x => { x with car := { x.car with vals := [], taint := false } }
    .ok (if t.kind = kCommit ∧ isCn e = false then f.snapUnit e u t else f)

/-- The ves whose ISMPs name an ie element (R405). -/
def Fabric.samplersOf (f : Fabric) (ie : Nat) : List Nat :=
  (List.range 8).filter fun v => (f.node v 0).opc == 0x63 && 0x20 + 4 * rowOf v + bits (f.node v 0).param 0 2 == ie
/-- What an ie element passes reaches its ISMPs (R405). -/
def Fabric.tellSampler (f : Fabric) (ie : Nat) (t : Tok) : Fabric :=
  (f.samplersOf ie).foldl (fun f v => f.updUnit v 0 fun x => { x with car := { x.car with toks2 := x.car.toks2 ++ [t] } }) f

/-- R119 for a unit that is not of a memory tile. -/
def State.alignUnit (s : State) (core e u : Nat) : State :=
  s.act core e u fun f =>
    if isMt e || !f.used e u || !f.settled e u then .no
    else match f.aligned e u with
      | .no => .no
      | .bad p => .bad 0 p 4
      | .go g t => match g.forward e u t with
        | .error c => .wait c
        | .ok g => .ok (if isIe e then g.tellSampler e t else g)

def execAlignedTokenAlign (core elem k : Nat) (s : State) : Result := .next (s.alignUnit core elem (unitSlot elem k))

/-! ### Injection of COMMIT (R130, R357) -/

/-- What an injection records of the units in the checkpoint: every controller as it stands, and the permits that leaves
hold then; the rest of a leaf's state is copied when COMMIT passes it. -/
def Fabric.injected (f : Fabric) : SMap Unit_ :=
  allUnits.foldl (fun m x =>
    let k := unitKey x.1 x.2
    let y := f.unit x.1 x.2
    if isCn x.1 then SMap.set {} m k { y with inject := [] }
    else if (f.leafCtl x.1 x.2).isSome then SMap.set {} m k { SMap.get {} m k with
      permits := y.permits, doneOwed := y.doneOwed, spentN := y.spentN }
    else m) f.ckpt.units
/-- An injection of COMMIT by a controller: the next number, a checkpoint of every controller, the token to every
source of the subtree. -/
def Fabric.commitStart (f : Fabric) (now c : Nat) : Fabric :=
  let n := (f.seqNo + 1) % 2 ^ 16
  let src := f.sourcesUnder c
  let t : Tok := { kind := kCommit, lanes := BitVec.ofNat 32 n :: List.replicate 15 0#32 }
  let need := (f.reachFrom f.aligns 120 src).filter fun x => isMt x.1
  let snap : Snap := { fresh := false, seqNo := n, units := f.injected }
  { f.injectUnder now c t with
    seqNo := n, newCkpt := some snap, commitNeed := need.map fun x => unitKey x.1 x.2, commitSeen := [] }

/-- Whether a controller stands where its due commit goes: children caught up; after the final iteration of a round marked
LAST, a counter with controllers under it goes on to its stop and DONE first (log entry 31). -/
def Fabric.commitPoint (f : Fabric) (now c : Nat) : Bool :=
  let x := f.ctl c
  x.due != 0 && f.newCkpt.isNone && f.mayInject now c &&
    ((f.node c 0).opc != 0x38 || (f.cntCaught c &&
      ((f.children c).isEmpty || !(x.last && x.iter == x.trip) || (x.stopOut && x.started == 1))))

def execCommitPeriodInject (core elem : Nat) (s : State) : Result :=
  let f := s.fab core
  .next (if isCn elem && f.live elem 0 && f.commitPoint s.clk.fab elem then
      (s.setFab core ((f.updCtl elem fun x => { x with due := x.due - 1 }).commitStart s.clk.fab elem)).commitDone core
    else s)

/-! ### Memory-tile units (R128, R130, R133) -/

def State.noteFab (s : State) (cls type core e : Nat) (body : List W64) : State :=
  let f := s.fab core
  s.noteIf cls type core e f.pdom f.lid body

/-- Whether a unit's publication waits for a version slot: its request, if it has one. -/
def State.heldStore (s : State) (who : Agent) : Option (Nat × Req) :=
  s.mem.reqs.findSome? fun e => match e.2 with
    | some r => if r.by_ == who && r.kind == .vstore && r.dev.isNone then some (e.1, r) else none
    | none => none

/-- R31, R128: what a logged entry does to another device's memory is sent. -/
def State.publishFar (s : State) (who : Agent) (x : LogE) : State :=
  let far := x.wr.filter fun y => !isLocal y.1
  let r : Req := { by_ := who, path := 1, kind := .write, va := x.addr, wr := far }
  match x.kind with
  | 0 => match far with
    | [] => s
    | y :: _ => s.issue { r with dev := some (remoteDev y.1) }
  | 2 => if isLocal x.key then s
    else s.issue { r with kind := .retire, dev := some (remoteDev x.key), rd := [x.key], ver := x.ver, wr := [] }
  | _ => if isLocal x.key then s else s.issue { r with kind := .vstore, dev := some (remoteDev x.key), ver := x.ver, wr := x.wr }
/-- R130, R374: a unit's logged entries applied in order; the list left when a versioned store must wait. -/
def State.publishLog (s : State) (core e k : Nat) : List LogE → State × List LogE
  | [] => (s, [])
  | x :: t =>
    let who : Agent := .unit core e k
    if x.k ≠ k then let r := s.publishLog core e k t; (r.1, x :: r.2)
    else match x.kind with
      | 0 => ((s.write 1 who false (x.wr.filter fun y => isLocal y.1)).publishFar who x).publishLog core e k t
      | 2 => (if isLocal x.key then s.retireVersions x.key x.ver else s.publishFar who x).publishLog core e k t
      | _ =>
        match s.heldStore who with
        | some (i, r) => if r.applied then (s.setReq i none).publishLog core e k t else (s, x :: t)
        | none =>
          if !isLocal x.key then (s.publishFar who x).publishLog core e k t
          else if x.ver ≤ (s.wordVer x.key).newest then s.publishLog core e k t
          else if s.versionFull x.key then
            (s.issue { by_ := who, path := 1, kind := .vstore, va := x.addr, ver := x.ver, wr := x.wr, heldAt := some s.clk.fab }, x :: t)
          else (s.storeVersion 1 who false x.ver x.wr).publishLog core e k t

/-- A tile passes an aligned token: it is written, and noted in the fabric by `g`. -/
def State.passTile (s : State) (core e k kind : Nat) (pre : State → Except State State) (g : Fabric → Fabric) : State :=
  let f := s.fab core
  if !isMt e || !f.live e k || !f.used e k || !f.settled e k || !f.rested s.clk.fab e k then s
  else match f.aligned e k with
    | .bad p => s.setFab core (f.raise s.clk.fab core e k 1 p 4 0)
    | .no => s
    | .go _ t =>
      if t.kind ≠ kind then s
      else match pre s with
        | .error t => t.updFab core fun f => f.tally s.clk.fab e k 7
        | .ok s => match (s.fab core).aligned e k with
          | .go h t => match h.forward e k t with
            | .error c => s.updFab core fun f => f.tally s.clk.fab e k c
            | .ok h => (s.setFab core (g h)).fired s core e k
          | _ => s

/-- What a unit has sent to other devices and they have not yet applied. -/
def State.farBusy (s : State) (who : Agent) : Bool :=
  s.mem.reqs.any fun e => e.2.any fun r => r.by_ == who && r.dev.isSome && !r.acked && r.kind != .read && r.kind != .vload
/-- R130, R217: the COMMIT goes on once every entry of the unit is applied. -/
def execCommitPassTile (core elem k : Nat) (s : State) : Result :=
  let mine (l : List LogE) : Nat := l.countP fun x => x.k == k
  let count := mine ((s.fab core).log elem) + ((s.fab core).unit elem k).published
  let pre (s : State) : Except State State :=
    let l := (s.fab core).log elem
    let keys := (l.filter fun x => x.k == k && x.kind != 2).flatMap fun x => x.wr.map Prod.fst
    if s.bankBusy keys then .error s else
    let s := s.useBanks keys
    let r := s.publishLog core elem k l
    let t := r.1.updFab core fun f => (f.setLog elem r.2).updUnit elem k fun x => { x with
      published := x.published + (mine l - mine r.2) }
    if mine r.2 ≠ 0 ∨ t.farBusy (.unit core elem k) = true then .error t else .ok (t.releaseAll (· == .unit core elem k))
  let t := s.passTile core elem k kCommit pre fun f =>
    { f.updUnit elem k fun x => { x with published := 0 } with commitSeen := f.commitSeen ++ [unitKey elem k] }
  .next (if (t.fab core).commitSeen.length = (s.fab core).commitSeen.length then t
    else (t.noteFab 4 0x0C core elem [pack [(count, 24), (elem - 8, 16), ((s.fab core).seqNo, 0)]]).commitDone core)

/-- A unit of a memory tile. -/
def Agent.inTile (core e : Nat) : Agent → Bool
  | .unit c x _ => c == core && x == e
  | _ => false
/-- R133, R217: once the tile's immediate writes are applied, the writes of its units and those applied at it are visible to
every path. -/
def State.releaseTile (s : State) (core e : Nat) : Except State State :=
  if (s.fab core).egress.any (fun y => y.elem == e) || s.mem.reqs.any (fun x => x.2.any fun r =>
      r.by_.inTile core e && !r.applied && r.kind != .read && r.kind != .vload) then .error s
  else .ok (s.release (fun _ => true) fun x => x.by_.inTile core e || (isPool x.key && poolCore x.key == core && tileOf x.key + 8 == e))

def execDrainPassTile (core elem k : Nat) (s : State) : Result :=
  .next (s.passTile core elem k kDrain (fun s => s.releaseTile core elem) fun f =>
    { f with drained := f.drained ++ [unitKey elem k] })
def execBarrierTokenPass (core elem k : Nat) (s : State) : Result :=
  .next (s.passTile core elem k kBarrier (fun s => s.releaseTile core elem) id)

/-! ### The end of a region (R133, R134, R220) -/

def mtUnits : List (Nat × Nat) := allUnits.filter fun x => isMt x.1
/-- DRAIN has passed every memory tile. -/
def Fabric.allDrained (f : Fabric) : Bool :=
  f.draining && mtUnits.all fun x => !f.used x.1 x.2 || f.drained.contains (unitKey x.1 x.2)

/-- R91, R217: every write of a core's region, those over circuits among them, is acknowledged. -/
def State.writesOver (s : State) (core : Nat) : Bool :=
  s.mem.reqs.all fun e => match e.2 with
    | some r => !r.by_.unitOf core || r.kind == .read || r.kind == .vload
    | none => true
/-- The DONE join follows the drain and releases the region's writes. -/
def execRegionDoneJoin (core : Nat) (s : State) : Result :=
  let f := s.fab core
  .next (if f.st == .running && !f.halted && !f.held && f.faultWord.isEmpty && f.allDrained && f.egress.isEmpty && s.writesOver core then
      let els := allUnits.map Prod.fst
      let s := (s.releaseAll (Agent.unitOf core)).setFab core { f.idled s.clk.fab with
        st := .done, logs := [], held := f.ending, ending := false
        idleSince := els.foldl (fun m e => SMap.set 0 m e s.clk.fab) f.idleSince }
      match f.doneJoin with
      | some h => s.sendJoin h none
      | none => s
    else s)

/-- R134, R217: the record is written to FREC, visible to the handler that is joined then; the region stays frozen. -/
def State.faultRecord (s : State) (core : Nat) (f : Fabric) : State :=
  let w0 := (nth 0#64 f.faultWord 0).toNat + f.more * 2 ^ 16
  let ws := setNth f.faultWord 0 (w64 w0)
  let s := if f.frec = 0 then s else
    ((s.storeVa core f.pdom 1 (.unit core 0x40 0) (w64 f.frec) (wordsBytes ws)).1).releaseAll (· == .unit core 0x40 0)
  let s := s.noteFab 5 0x0D core (bits w0 44 8) (ws.take 4)
  match f.handler with
  | some h => s.sendJoin h none
  | none => s

end Sys2Proof.Machine
end

