-- ==== Sys2Proof/Machine/Alu.lean ====
section
/-! DEFINITION. Integer and address arithmetic (R282 to R285). -/

namespace Sys2Proof.Machine

/-- d from a and b; the taint of d is that of a or b (R280). -/
def State.alu (s : State) (rd ra rb : Reg) (f : W64 → W64 → W64) : State :=
  let x := s.ctx s.cur
  s.withRegs s.cur [rd, ra, rb]
    (s.finish s.cur rd (f (x.reg ra) (x.reg rb)) (x.taintOf ra || x.taintOf rb))
/-- The same for a multiplication (R277). -/
def State.aluSlow (s : State) (rd ra rb : Reg) (f : W64 → W64 → W64) : State :=
  let x := s.ctx s.cur
  s.withRegs s.cur [rd, ra, rb]
    (s.finishSlow s.cur rd (f (x.reg ra) (x.reg rb)) (x.taintOf ra || x.taintOf rb))
/-- d from a alone. -/
def State.alu1 (s : State) (rd ra : Reg) (f : W64 → W64) : State :=
  let x := s.ctx s.cur
  s.withRegs s.cur [rd, ra] (s.finish s.cur rd (f (x.reg ra)) (x.taintOf ra))
/-- R283: the division forms trap on a zero divisor. -/
def State.divide (s : State) (rd ra rb : Reg) (f : W64 → W64 → W64) : State :=
  let x := s.ctx s.cur
  s.withRegs s.cur [rd, ra, rb]
    (if x.reg rb = 0#64 then s.trap s.cur 6 0#64
     else s.finishSlow s.cur rd (f (x.reg ra) (x.reg rb)) (x.taintOf ra || x.taintOf rb))

/-- R282: bits [127:64] of the product. -/
def mulHigh (u : Bool) (a b : W64) : W64 :=
  if u then w64 (a.toNat * b.toNat / 2 ^ 64) else BitVec.ofInt 64 (a.toInt * b.toInt / 2 ^ 64)
/-- R283: trunc(a / b), floor for unsigned. -/
def divValue (u : Bool) (a b : W64) : W64 :=
  if u then w64 (a.toNat / b.toNat) else BitVec.ofInt 64 (a.toInt.tdiv b.toInt)
def remValue (u : Bool) (a b : W64) : W64 :=
  if u then w64 (a.toNat % b.toNat) else BitVec.ofInt 64 (a.toInt - b.toInt * a.toInt.tdiv b.toInt)
def minValue (u : Bool) (a b : W64) : W64 := if (if u then b.ult a else b.slt a) then b else a
def maxValue (u : Bool) (a b : W64) : W64 := if (if u then a.ult b else a.slt b) then b else a
def shlValue (a b : W64) : W64 := a <<< (b.toNat % 64)
def shrValue (a b : W64) : W64 := a >>> (b.toNat % 64)
def shaValue (a b : W64) : W64 := a.sshiftRight (b.toNat % 64)
/-- Leading zero bits, 64 for 0. -/
def clzValue (a : W64) : W64 := if a = 0#64 then 64#64 else w64 (63 - Nat.log2 a.toNat)
/-- One bits. -/
def popcValue (a : W64) : W64 := w64 ((List.range 64).filter fun i => a.getLsbD i).length
def sextValue (wd : BitVec 2) (a : W64) : W64 := BitVec.ofInt 64 (sextNat a.toNat (8 * 2 ^ wd.toNat))
def boolValue (b : Bool) : W64 := if b then 1#64 else 0#64

def execAdd (rd ra rb : Reg) (s : State) : Result := .next (s.alu rd ra rb fun a b => a + b)
def execSub (rd ra rb : Reg) (s : State) : Result := .next (s.alu rd ra rb fun a b => a - b)
def execMul (rd ra rb : Reg) (s : State) : Result := .next (s.aluSlow rd ra rb fun a b => a * b)
def execMulh (rd ra rb : Reg) (u : Bool) (s : State) : Result := .next (s.aluSlow rd ra rb (mulHigh u))
def execDiv (rd ra rb : Reg) (u : Bool) (s : State) : Result := .next (s.divide rd ra rb (divValue u))
def execRem (rd ra rb : Reg) (u : Bool) (s : State) : Result := .next (s.divide rd ra rb (remValue u))
def execAnd (rd ra rb : Reg) (s : State) : Result := .next (s.alu rd ra rb fun a b => a &&& b)
def execOr (rd ra rb : Reg) (s : State) : Result := .next (s.alu rd ra rb fun a b => a ||| b)
def execXor (rd ra rb : Reg) (s : State) : Result := .next (s.alu rd ra rb fun a b => a ^^^ b)
def execAndn (rd ra rb : Reg) (s : State) : Result := .next (s.alu rd ra rb fun a b => a &&& ~~~b)
def execShl (rd ra rb : Reg) (s : State) : Result := .next (s.alu rd ra rb shlValue)
def execShr (rd ra rb : Reg) (s : State) : Result := .next (s.alu rd ra rb shrValue)
def execSha (rd ra rb : Reg) (s : State) : Result := .next (s.alu rd ra rb shaValue)
def execMin (rd ra rb : Reg) (u : Bool) (s : State) : Result := .next (s.alu rd ra rb (minValue u))
def execMax (rd ra rb : Reg) (u : Bool) (s : State) : Result := .next (s.alu rd ra rb (maxValue u))
def execClz (rd ra : Reg) (s : State) : Result := .next (s.alu1 rd ra clzValue)
def execPopc (rd ra : Reg) (s : State) : Result := .next (s.alu1 rd ra popcValue)
def execSext (rd ra : Reg) (wd : BitVec 2) (s : State) : Result := .next (s.alu1 rd ra (sextValue wd))
def execCmp (rd ra rb : Reg) (cond : BitVec 3) (s : State) : Result :=
  .next (s.alu rd ra rb fun a b => boolValue (condHolds cond a b))
/-- R282: reads d, a and b. -/
def execSel (rd ra rb : Reg) (s : State) : Result :=
  let x := s.ctx s.cur
  .next (s.withRegs s.cur [rd, ra, rb]
    (s.finish s.cur rd (if x.reg rd ≠ 0#64 then x.reg ra else x.reg rb)
      (x.taintOf rd || x.taintOf ra || x.taintOf rb)))

def execAddi (rd ra : Reg) (imm : BitVec 14) (s : State) : Result := .next (s.alu1 rd ra fun a => a + sx imm)
def execAndi (rd ra : Reg) (imm : BitVec 14) (s : State) : Result := .next (s.alu1 rd ra fun a => a &&& sx imm)
def execOri (rd ra : Reg) (imm : BitVec 14) (s : State) : Result := .next (s.alu1 rd ra fun a => a ||| sx imm)
def execXori (rd ra : Reg) (imm : BitVec 14) (s : State) : Result := .next (s.alu1 rd ra fun a => a ^^^ sx imm)
def execShli (rd ra : Reg) (imm : BitVec 6) (s : State) : Result :=
  .next (s.alu1 rd ra fun a => shlValue a (imm.setWidth 64))
def execShri (rd ra : Reg) (imm : BitVec 6) (s : State) : Result :=
  .next (s.alu1 rd ra fun a => shrValue a (imm.setWidth 64))
def execShai (rd ra : Reg) (imm : BitVec 6) (s : State) : Result :=
  .next (s.alu1 rd ra fun a => shaValue a (imm.setWidth 64))
def execCmpi (rd ra : Reg) (cond : BitVec 3) (imm : BitVec 11) (s : State) : Result :=
  .next (s.alu1 rd ra fun a => boolValue (condHolds cond a (sx imm)))

/-- R285: d is sext(imm44, 44), untainted; two words. -/
def execLimm (rd : Reg) (imm : BitVec 44) (s : State) : Result :=
  .next (s.withRegs s.cur [rd] ((s.setReg s.cur rd (sx imm) false).advance s.cur 8))
/-- R285: d is pc + sext(imm44, 44), pc the address of the first word. -/
def execAddpc (rd : Reg) (imm : BitVec 44) (s : State) : Result :=
  .next (s.withRegs s.cur [rd] ((s.setReg s.cur rd ((s.ctx s.cur).pc + sx imm) false).advance s.cur 8))

end Sys2Proof.Machine
end

