-- ==== Sys2Proof/Machine/Integ.lean ====
section
/-! DEFINITION. Integrator elements and the nodes that couple them to dense values: ISTEP, IRSTEP, ILD, ISMP, IENC, IDEC
(R161 to R178, R400 to R408). -/

namespace Sys2Proof.Machine

/-! ### An integrator slot (R162, R163, R401) -/

def Node.imode (n : Node) : Nat := n.e 0 2
def Node.fy (n : Node) : Nat := n.e 2 6
def Node.qb (n : Node) : Nat := n.e 8 6
def Node.ky1 (n : Node) : Nat := n.e 14 4
def Node.ky2 (n : Node) : Nat := n.e 18 4
def Node.sdy1 (n : Node) : Nat := n.e 22 10
def Node.sdy2 (n : Node) : Nat := n.e 32 10
def Node.sdx (n : Node) : Nat := n.e 42 10
def selKind (sel : Nat) : Nat := bits sel 7 2
def selIdx (sel : Nat) : Nat := bits sel 0 4
/-- The integrators that selectors of one kind name. -/
def linked (kind : Nat) (l : List Nat) : List Nat := (l.filter fun x => selKind x == kind).map selIdx
/-- Whether the slot's integrator steps; an empty slot is off. -/
def Node.stepping (n : Node) : Bool := n.opc != 0 && n.imode != 0

def inY (y : Int) : Bool := -2 ^ 47 ≤ y && y < 2 ^ 47
def inDz (d : Int) : Bool := -8 ≤ d && d ≤ 7

/-- R163: a source's value from port tokens, direct and delayed links. -/
def srcVal (toks : List (Nat × Tok)) (dz dl : List Int) (sel : Nat) : Int :=
  let i := selIdx sel
  let v : Int := match selKind sel with
    | 0 => sextNat i 4
    | 1 => match toks.find? fun x => x.1 == bits sel 5 2 with
      | some x => sextNat (x.2.lane i).toNat 32
      | none => 0
    | 2 => nth 0 dz i
    | _ => nth 0 dl i
  if bits sel 9 1 = 1 then -v else v

/-- The state of an element under evaluation: values by integrator, and what is done. -/
structure Eval where
  y : List Int
  w : List Int
  /-- The step's increments. -/
  dz : List Int
  /-- Reverse: increments of the step before, and the remainders found. -/
  lb : List Int := List.replicate 16 0
  wo : List Int := List.replicate 16 0
  /-- Operations done: 16 * phase + integrator, phases 0 REC, 1 UN, 2 LB. -/
  did : List Nat := []

/-- What a step comes to: the element's new values, or a fault's kind, integrator and value. -/
abbrev Stepped := Except (Nat × Nat × Int) Eval

def ints16 (u : Unit_) : List Integ := (List.range 16).map fun i => nth {} u.ints i
def Unit_.eval (u : Unit_) : Eval where
  y := (ints16 u).map (·.y)
  w := (ints16 u).map fun x => (x.w : Int)
  dz := List.replicate 16 0

/-! ### The forward step (R165) -/

def fwdOne (n : Node) (toks : List (Nat × Tok)) (dl : List Int) (i : Nat) (v : Eval) : Stepped :=
  let v := { v with did := i :: v.did }
  if !n.stepping then .ok v
  else
    let y0 := nth 0 v.y i
    let y1 := y0 + srcVal toks v.dz dl n.sdy1 * 2 ^ n.ky1 + srcVal toks v.dz dl n.sdy2 * 2 ^ n.ky2
    if !inY y1 then .error (3, i, y1)
    else
      let trap := n.imode == 2
      let q := 2 ^ (if trap then n.qb + 1 else n.qb)
      let s := nth 0 v.w i + (if trap then y0 + y1 else y1) * srcVal toks v.dz dl n.sdx
      let d := s / q
      if !inDz d then .error (2, i, s)
      else .ok { v with y := setNth v.y i y1, w := setNth v.w i (s - d * q), dz := setNth v.dz i d }

/-- R164: the lowest-numbered integrator whose direct sources have been evaluated, again and again. -/
def fwdAll (node : Nat → Node) (toks : List (Nat × Tok)) (dl : List Int) : Nat → Eval → Stepped
  | 0, v => .ok v
  | fuel + 1, v =>
    let ready (i : Nat) : Bool := !v.did.contains i && (!(node i).stepping ||
      (linked 2 [(node i).sdy1, (node i).sdy2, (node i).sdx]).all v.did.contains)
    match (List.range 16).find? ready with
    | none => .ok v
    | some i => match fwdOne (node i) toks dl i v with
      | .error e => .error e
      | .ok v => fwdAll node toks dl fuel v

/-! ### The reverse step (R170, R171) -/

/-- What an operation of the reverse step waits for. -/
def revNeeds (n : Node) (op : Nat) : List Nat :=
  let i := op % 16
  let x := [n.sdx]
  let dy := [n.sdy1, n.sdy2]
  if !n.stepping then []
  else match op / 16 with
    | 0 => linked 2 x ++ (linked 3 x).map (32 + ·)
    | 1 => i :: linked 2 dy ++ (linked 3 dy).map (32 + ·)
    | _ => (16 + i) :: (linked 2 x).map (32 + ·)

/-- What a register of `n` bits in two's complement holds of a value (R161; log entry 93). -/
def signed (n : Nat) (x : Int) : Int := sextNat (wrapInt x n) n

def revOne (n : Node) (toks : List (Nat × Tok)) (step op : Nat) (v : Eval) : Stepped :=
  let i := op % 16
  let v := { v with did := op :: v.did }
  let q : Int := 2 ^ n.qb
  let y := nth 0 v.y i
  if !n.stepping then .ok v
  else match op / 16 with
    | 0 =>
      let w := nth 0 v.w i
      let p := y * srcVal toks v.dz v.lb n.sdx
      let wo := (w - p) % q
      let rz := (p + wo - w) / q
      if !inDz rz then .error (2, i, p + wo)
      else .ok { v with wo := setNth v.wo i wo, dz := setNth v.dz i rz }
    | 1 => .ok { v with
        y := setNth v.y i (signed 48 (y - srcVal toks v.dz v.lb n.sdy1 * 2 ^ n.ky1 - srcVal toks v.dz v.lb n.sdy2 * 2 ^ n.ky2))
        w := setNth v.w i (nth 0 v.wo i) }
    | _ =>
      if step = 1 ∨ ¬(selKind n.sdx = 0 ∨ selKind n.sdx = 2) then .ok v
      else
        let t := y * srcVal toks v.lb v.lb n.sdx
        let w := nth 0 v.w i
        .ok { v with lb := setNth v.lb i (signed 4 ((t + (w - t) % q - w) / q)) }

/-- REC operations first, then UN and LB, each once what it waits for is done. -/
def revAll (node : Nat → Node) (toks : List (Nat × Tok)) (step : Nat) : Nat → Eval → Stepped
  | 0, v => .ok v
  | fuel + 1, v =>
    match (List.range 48).find? fun op => !v.did.contains op && (revNeeds (node (op % 16)) op).all v.did.contains with
    | none => .ok v
    | some op => match revOne (node (op % 16)) toks step op v with
      | .error e => .error e
      | .ok v => revAll node toks step fuel v

/-! ### Samples (R175, R176) -/

def Tok.ofInts (l : List Int) : Tok := dataTok allLive false fun i => BitVec.ofNat 32 (wrapInt (nth 0 l i) 32)
/-- The tokens of one sample of an element, as its ISMP of node `m` writes them. -/
def Fabric.sample (f : Fabric) (ie : Nat) (m : Node) : List Tok :=
  let u := f.unit ie 0
  let l := ints16 u
  if bits m.fn 1 1 = 1 then
    [Tok.ofInts (l.map (·.y)),
     Tok.ofInts (l.map fun x => (wrapInt x.y 48 / 2 ^ 32 + bits x.w 32 1 * 2 ^ 16 + wrapInt x.dl 4 * 2 ^ 20 : Nat)),
     Tok.ofInts (l.map fun x => (x.w : Int)),
     Tok.ofInts [(u.stepNo : Int)]]
  else
    [dataTok allLive false fun i => fpLane m.ty 0 (Fp.ofInt (nth {} l i).y (-((f.node ie i).fy : Int)))]
/-- After a step: a trigger sample always, a count sample when STEP is a nonzero multiple of P. -/
def Fabric.sampleNow (f : Fabric) (ie : Nat) : Fabric :=
  (f.samplersOf ie).foldl (fun f v =>
    let m := f.node v 0
    let st := (f.unit ie 0).stepNo
    if bits m.fn 0 1 = 1 ∨ (st ≠ 0 ∧ st % (bits m.param 2 16 + 1) = 0) then
      f.updUnit v 0 fun x => { x with car := { x.car with toks2 := x.car.toks2 ++ f.sample ie m } }
    else f) f
/-- R405: a sample of the element is still untaken. -/
def Fabric.sampleHeld (f : Fabric) (ie : Nat) : Bool :=
  (f.samplersOf ie).any fun v => (f.unit v 0).car.toks2.any Tok.isData

/-! ### A firing of an ie element (R164, R166, R172) -/

def Fabric.applyStep (f : Fabric) (ie : Nat) (v : Eval) (dl : List Int) (step : Nat) : Fabric :=
  f.updUnit ie 0 fun x => { x with
    ints := (List.range 16).map fun i => { y := nth 0 v.y i, w := (nth 0 v.w i).toNat, dl := nth 0 dl i }
    stepNo := step }

/-- One step, forward or reverse, and its increments. -/
def Fabric.intStep (f : Fabric) (ie : Nat) (rev : Bool) (l : List (Nat × Tok)) :
    Except (Nat × Nat × Int) (Fabric × List Int) :=
  let u := f.unit ie 0
  let node (i : Nat) : Node := f.node ie i
  if !rev then
    match fwdAll node l ((ints16 u).map (·.dl)) 16 u.eval with
    | .error e => .error e
    | .ok v => .ok (f.applyStep ie v v.dz (Nat.min (u.stepNo + 1) (2 ^ 32 - 1)), v.dz)
  else if u.stepNo = 0 then .ok (f, List.replicate 16 0)
  else match revAll node l u.stepNo 48 u.eval with
    | .error e => .error e
    | .ok v => .ok (f.applyStep ie v v.lb (u.stepNo - 1), v.dz)

def ieAct (ie : Nat) (rev : Bool) (f : Fabric) : Act :=
  let os := f.outPorts ie 0
  let ps := f.inPorts ie 0
  let taken := ps.filterMap fun p => (f.head ie 0 p).map fun t => (p, t)
  let lead := (taken.head?.map Prod.snd).getD (f.ownLead ie 0)
  let taint := taken.any fun x => x.2.taint
  f.permitted ie 0 <| match f.roomAll ie 0 os 1 with
    | some o => .wait (7 + o)
    | none => match ps.find? fun p => (f.head ie 0 p).isNone with
      | some p => .wait (if f.sampleHeld ie then 7 else 3 + p)
      | none =>
        if ps.isEmpty && (f.unit ie 0).injectDue then .wait 0
        else if !taken.isEmpty && lead.isAligned && taken.all (fun x => x.2.kind == lead.kind) then .no
        else match taken.find? fun x => (f.badHead ie 0 x.1 x.2).isSome with
          | some x => .bad 0 x.1 ((f.badHead ie 0 x.1 x.2).getD 0)
          | none => match ((taken.find? fun x => x.2.isAligned).map Prod.fst).or (mismatch taken) with
            | some p => .bad 0 p 4
            | none =>
              if !lead.isData then
                let t := { lead with taint := taint }
                .ok ((((f.takeAll ie 0 taken).putAll ie 0 os t).tellSampler ie t).spend ie 0)
              else if f.sampleHeld ie then .wait 7
              else match f.intStep ie rev taken with
                | .error (kind, i, v) => .fltI i kind (f.unit ie 0).stepNo (wrapInt v 64) 0
                | .ok (g, dz) =>
                  .ok ((((g.takeAll ie 0 taken).putAll ie 0 os { Tok.ofInts dz with taint := taint }).sampleNow ie).spend ie 0)

/-- A firing of an element, at its lowest slot that is not empty. -/
def State.ieFire (s : State) (core e k code : Nat) (rev : Bool) : State :=
  s.act core e 0 fun f => if isIe e && f.firstSlot e == some k && (f.node e k).opc == code then ieAct e rev f else .no

def execIstep (core elem k : Nat) (s : State) : Result := .next (s.ieFire core elem k 0x61 false)
def execIrstep (core elem k : Nat) (s : State) : Result := .next (s.ieFire core elem k 0x62 true)

/-! ### ILD (R174, R404) -/

/-- A load fault at the element: lane and VALUE. -/
def Fabric.loadFault (f : Fabric) (now core ie lane : Nat) (v : Int) : Fabric :=
  f.raiseW now core ie lane 3 0 (f.unit ie 0).stepNo (wrapInt v 64) 0
/-- Y of a lane, or the fault's VALUE. -/
def ildY (ty fy : Nat) (w : W32) : Except Int Int :=
  match laneFp ty w with
  | .fin n m e =>
    let y := Fp.toInt 0 (-2 ^ 63) (2 ^ 63 - 1) (.fin n m (e + fy))
    if inY y then .ok y else .error y
  | _ => .error (-2 ^ 63)
def Fabric.ild (f : Fabric) (now core ie ty : Nat) (t : Tok) : Fabric :=
  let live := (List.range 16).filter t.live
  let y (i : Nat) : Except Int Int := ildY ty (f.node ie i).fy (t.lane i)
  match live.findSome? fun i => match y i with | .error v => some (i, v) | .ok _ => none with
  | some (i, v) => f.loadFault now core ie i v
  | none =>
    if live.isEmpty then f
    else f.updUnit ie 0 fun x => { x with
      stepNo := 0
      ints := (List.range 16).map fun i =>
        let n := f.node ie i
        match t.live i, y i with
        | true, .ok v =>
          { y := v, w := if n.e 52 1 = 0 then 0 else 2 ^ (if n.imode = 2 then n.qb else n.qb - 1), dl := 0 }
        | _, _ => nth {} x.ints i }

/-- R176: the four tokens of a RAW load. -/
def Fabric.ildRaw (f : Fabric) (now core ie : Nat) (l : List Tok) : Fabric :=
  let g (j i : Nat) : Nat := ((nth {} l j).lane i).toNat
  match (List.range 16).find? fun i => bits (g 1 i) 17 3 != 0 || bits (g 1 i) 24 8 != 0 with
  | some i => f.loadFault now core ie i i
  | none => f.updUnit ie 0 fun x => { x with
      stepNo := g 3 0
      ints := (List.range 16).map fun i =>
        { y := sextNat (g 0 i + bits (g 1 i) 0 16 * 2 ^ 32) 48, w := g 2 i + bits (g 1 i) 16 1 * 2 ^ 32,
          dl := sextNat (bits (g 1 i) 20 4) 4 } }

def ildRawAct (now core e k : Nat) (f : Fabric) (n : Node) : Act :=
  let c := (f.unit e 0).car
  let ie := rowIe e n
  f.permitted e 0 <| match f.look e 0 0 with
    | .miss => .wait 3
    | .align _ => if c.toks.isEmpty then .wait (f.lack e 0 0) else .bad k 0 9
    | .bad sub => .bad k 0 sub
    | .tok t =>
      if !t.isData then (if c.toks.isEmpty then f.step e 0 [(0, t)] (outsOf n.omask) [t] id else .bad k 0 9)
      else if c.toks.length < 3 then f.step e 0 [(0, t)] [] [] fun c => { c with toks := c.toks ++ [t] }
      else if (f.unit ie 0).frozen then .wait 7
      else (f.ildRaw now core ie (c.toks ++ [t])).step e 0 [(0, t)] [] [] fun c => { c with toks := [] }

def ildAct (now core e k : Nat) (f : Fabric) (n : Node) : Act :=
  if bits n.fn 0 1 = 1 then ildRawAct now core e k f n
  else match f.vecTake e k with
    | .error a => a
    | .ok (g, y) =>
      let l := n.operands y
      let t := dataTok (n.pred l) false fun i => (l0 {} l).lane i
      if !(y.lead (f.inPorts e 0)).isData then (g.vecDone e k y fun _ _ _ c => (t, c)).vecFired e k
      else if (f.unit (rowIe e n) 0).frozen then .wait 7
      else ((g.ild now core (rowIe e n) n.ty t).vecDone e k y fun _ _ _ c => (t, c)).vecFired e k

def State.couple (s : State) (core e k code : Nat) (g : Fabric → Node → Act) : State :=
  s.act core e 0 fun f => if isVe e && (f.node e k).opc == code then g f (f.node e k) else .no

def execIld (core elem k : Nat) (s : State) : Result := .next (s.couple core elem k 0x60 (ildAct s.clk.fab core elem k))

/-! ### ISMP (R175, R405) -/

/-- R405: an aligned token at the trigger port that meets another kind of the element's. -/
def Fabric.trigBad (f : Fabric) (e : Nat) : Bool := (f.node e 0).selA == 1 && (f.head e 0 0).any Tok.isAligned
/-- RAW: the trigger token goes with the first of the four tokens; `n` counts those written. -/
def ismpRaw (e : Nat) (f : Fabric) (n : Node) (t : Tok) : Act :=
  let c := (f.unit e 0).car
  let os := outsOf n.omask
  let next (c : Carry) : Carry := { c with toks2 := c.toks2.tail, n := if t.isData then (c.n + 1) % 4 else 0 }
  let go (f : Fabric) (l : List (Nat × Tok)) : Act :=
    match f.emit e 0 os [{ t with taint := t.taint || l.any fun x => x.2.taint }] with
    | .error b => .wait b
    | .ok f =>
      let f := (f.takeAll e 0 l).updUnit e 0 fun x => { x with car := next x.car }
      .ok (if !t.isData || c.n == 3 then f.spend e 0 else f)
  if c.n ≠ 0 ∨ (f.inPorts e 0).isEmpty = true then go f []
  else if f.trigBad e then .bad 0 0 4
  else match f.heads e 0 (f.inPorts e 0) with
    | .miss p => .wait (3 + p)
    | .bad p sub => .bad 0 p sub
    | .toks l => if l.all fun x => x.2.kind == t.kind then go f l else .bad 0 0 4

def ismpAct (e : Nat) (f : Fabric) (n : Node) : Act :=
  match (f.unit e 0).car.toks2 with
  | [] => .wait 0
  | t :: _ =>
    if t.isAligned then .no
    else f.permitted e 0 <| if bits n.fn 1 1 = 1 then ismpRaw e f n t
    else
      let ps := f.inPorts e 0
      match f.roomAll e 0 (f.outPorts e 0) 1 with
      | some o => .wait (7 + o)
      | none =>
        let go (l : List (Nat × Tok)) : Act :=
          let g (p : Nat) : Tok := match l.find? fun x => x.1 == p with | some x => x.2 | none => {}
          let f := (f.outPorts e 0).foldl (fun f o => f.hold e 0 o 1) (f.takeAll e 0 l)
          let f := f.updUnit e 0 fun x => { x with car := { x.car with toks2 := x.car.toks2.tail } }
          .ok (f.vecDone e 0 ⟨0, g 0, g 1, g 2, t⟩ fun n l _ c =>
            (dataTok (if bits n.fn 0 1 = 1 then (l0 {} l).pred else allLive) false t.lane, c))
        if ps.isEmpty then go []
        else if f.trigBad e then .bad 0 0 4
        else match f.heads e 0 ps with
          | .miss p => .wait (3 + p)
          | .bad p sub => .bad 0 p sub
          | .toks l => match l.find? fun x => x.2.kind != t.kind with
            | some x => .bad 0 x.1 4
            | none => go l

def execIsmp (core elem k : Nat) (s : State) : Result :=
  .next (if k = 0 then s.couple core elem 0 0x63 (ismpAct elem) else s)

/-! ### IENC and IDEC (R177, R178, R406 to R408): `res` holds RES or D by slot and lane -/

/-- A lane's result: the new carried value and the lane written, or a fault's kind and word 2. -/
abbrev LaneStep := Except (Nat × Int) (Int × Int)

def iencLane (n : Node) (res : Int) (live : Bool) (w : W32) : LaneStep :=
  let ke := sextNat (bits n.param 0 6) 6
  let u : Option Int :=
    if !live then some 0
    else match (if isFp n.ty then laneFp n.ty w else Fp.ofInt (sextNat w.toNat 32) 0) with
      | .fin b m x =>
        let x := x + ke + 32
        let r : Nat := if 0 ≤ x then m * 2 ^ x.toNat else roundBits 0 b m (-x).toNat false
        some (if b then -(r : Int) else r)
      | _ => none
  match u with
  | none => .error (2, -2 ^ 63)
  | some u =>
    let m : Int := 2 ^ 32
    if bits n.fn 0 1 = 0 then
      let a := res + u
      if inDz (a / m) then .ok (a % m, a / m) else .error (2, a)
    else
      let old := (res - u) % m
      let e := (old + u - res) / m
      if inDz e then .ok (old, e) else .error (2, old + u)

def idecLane (n : Node) (d : Int) (_live : Bool) (w : W32) : LaneStep :=
  let x := sextNat w.toNat 32 * 2 ^ bits n.param 0 4
  let d := if bits n.fn 0 1 = 0 then d + x else d - x
  if !inY d then .error (3, d)
  else .ok (d, if n.ty = 1 then ((fp32.encode 0 (Fp.ofInt d (-(bits n.param 4 6 : Nat)))) : Nat)
    else clampInt d (-2 ^ 31) (2 ^ 31 - 1))

/-- Tokens that the unit took before the one of firing `y` at slot `k`. -/
def Fabric.before (f : Fabric) (e k : Nat) : Nat :=
  match f.inPorts e 0 with
  | [] => 0
  | p :: _ =>
    let x := f.unit e 0
    (x.port p).taken - (if f.firstSlot e = some k then 0 else x.fly.countP fun z => z.next ≤ k)

def codecAct (e k : Nat) (lane : Node → Int → Bool → W32 → LaneStep) (f : Fabric) (n : Node) : Act :=
  match f.vecTake e k with
  | .error a => a
  | .ok (g, y) =>
    if !(y.lead (f.inPorts e 0)).isData then (g.vecDone e k y fun _ _ _ c => ({}, c)).vecFired e k
    else
      let t := l0 {} (n.operands y)
      let old := SMap.get [] (f.unit e 0).res k
      let r (i : Nat) : LaneStep := lane n (nth 0 old i) (t.live i) (t.lane i)
      match (List.range 16).findSome? fun i => match r i with | .error x => some (i, x) | .ok _ => none with
      | some (i, kind, v) => .fltI k kind (f.before e k) (wrapInt v 64) i
      | none =>
        let out (i : Nat) : Int × Int := match r i with | .ok x => x | .error _ => (0, 0)
        let g := g.updUnit e 0 fun x => { x with res := SMap.set [] x.res k ((List.range 16).map fun i => (out i).1) }
        Fabric.vecFired (e := e) (k := k) (g.vecDone e k y fun _ _ _ c => (Tok.ofInts ((List.range 16).map fun i => (out i).2), c))

def execIenc (core elem k : Nat) (s : State) : Result := .next (s.couple core elem k 0x64 (codecAct elem k iencLane))
def execIdec (core elem k : Nat) (s : State) : Result := .next (s.couple core elem k 0x65 (codecAct elem k idecLane))

end Sys2Proof.Machine
end

