-- ==== Sys2Proof/Machine/Matrix.lean ====
section
/-! DEFINITION. The matrix node: MLDB, MROW, GTHR, MSEL, MACZ, MOUT (R191, R192, R380 to R386). -/

namespace Sys2Proof.Machine

/-! ### Families (R381) -/

/-- Planes that a firing reads. -/
def Node.planes (n : Node) : Nat := match n.fn % 4 with | 0 => 8 | 1 => 6 | 2 => 4 | _ => 2
/-- Records of 32 elements per row or column. -/
def Node.records (n : Node) : Nat := match n.planes with | 4 => 4 | 2 => 8 | _ => 2
/-- The ranges of bytes, address and length, that hold a row or a column at an address. -/
def Node.ranges (n : Node) (a : Nat) : List (Nat × Nat) :=
  if isPb n.ty then (List.range n.records).map fun i => ((a + i * pbBytes n.ty) % 2 ^ 64, 1 + 4 * n.planes)
  else [(a, 64)]
def Node.rowBytes (n : Node) : Nat := if isPb n.ty then n.records * (1 + 4 * n.planes) else 64

/-- R191: the accumulator plus the products of 16-bit elements, rounded once. -/
def dotFp (t : Nat) (acc : W32) (a b : List Byte) : W32 :=
  let x (l : List Byte) (i : Nat) : Fp := (fmtOf t).decode (leNat ((l.drop (2 * i)).take 2))
  fpLane 1 0 (Fp.sum 0 (laneFp 1 acc :: (List.range 32).map fun i => (x a i).mul (x b i)))
/-- R192: plane blocks; `n` planes, `m` records. -/
def dotPb (n m : Nat) (acc : W32) (a b : List Byte) : W32 :=
  let part (l : List Byte) (i : Nat) : List Byte := (l.drop (i * (1 + 4 * n))).take (1 + 4 * n)
  fpLane 1 0 (Fp.sum 0 (laneFp 1 acc :: (List.range m).map fun i =>
    let x := part a i
    let y := part b i
    match scaleValue (pbScale x), scaleValue (pbScale y) with
    | some p, some q =>
      (p.mul q).mul (Fp.ofInt ((List.range 32).foldl (fun d j => d + pbElem x n j * pbElem y n j) 0) 0)
    | _, _ => .nan))
/-- R192: the exact sum of an INT8 firing. -/
def dotInt (acc : W32) (a b : List Byte) : Int :=
  (a.zip b).foldl (fun t e => t + sextNat e.1.toNat 8 * sextNat e.2.toNat 8) (sextNat acc.toNat 32)

/-- One column of a firing: the new accumulator, and whether an INT32 sum overflowed. -/
def Node.mac (n : Node) (acc : W32) (a b : List Byte) : W32 × Bool :=
  if isPb n.ty then (dotPb n.planes n.records acc a b, false)
  else if n.ty = 4 then
    let t := dotInt acc a b
    (BitVec.ofNat 32 (wrapInt t 32), decide (t < -2 ^ 31) || decide (2 ^ 31 - 1 < t))
  else (dotFp n.ty acc a b, false)

/-! ### Bytes on path M -/

/-- The keys of a list of ranges, in order, or why they cannot be read. -/
def State.spans (s : State) (core e space : Nat) : List (Nat × Nat) → Reach
  | [] => .keys [] none
  | (a, n) :: t =>
    let m := Nat.min n (65536 - a % 65536)
    let who : Agent := .unit core e 0
    let pdom := (s.fab core).pdom
    let one (a n : Nat) : Reach :=
      if n = 0 then .keys [] none
      else if space ≠ 0 ∧ (s.spaceKey core space (a + n - 1)).isNone = true then .fault 5 a
      else s.reach who core pdom space 0 n [a]
    match one a m, one ((a + m) % 2 ^ 64) (n - m), s.spans core e space t with
    | .keys k d, .keys k' d', .keys l d'' => .keys (k ++ k' ++ l) (d.or (d'.or d''))
    | .keys _ _, .keys _ _, r => r
    | .keys _ _, r, _ => r
    | r, _, _ => r

def Mat.inactive (m : Mat) : Latch := if m.active then m.l0 else m.l1
def Mat.current (m : Mat) : Latch := if m.active then m.l1 else m.l0
def Mat.setInactive (m : Mat) (l : Latch) : Mat := if m.active then { m with l0 := l } else { m with l1 := l }
def Mat.setCurrent (m : Mat) (l : Latch) : Mat := if m.active then { m with l1 := l } else { m with l0 := l }
def Fabric.mat (f : Fabric) (e : Nat) : Mat := (f.unit e 0).mat
def Fabric.updMat (f : Fabric) (e : Nat) (g : Mat → Mat) : Fabric := f.updUnit e 0 fun x => { x with mat := g x.mat }

/-! ### MLDB (R382) -/

/-- The ranges of the 64 columns. -/
def colRanges (n : Node) (base : Nat) (stride : Int) : List (Nat × Nat) :=
  (List.range 64).flatMap fun j => n.ranges (addInt base (j * stride))
/-- The read of a latch's columns: the request sent, and the latch LOADING. -/
def State.startLatch (s : State) (core e : Nat) (keys : List Nat) (dev : Option Nat) (l : Latch) : State × Latch :=
  (s.issue { by_ := .unit core e 0, path := 3, kind := .read, va := l.base, dev := dev, rd := keys },
   { l with st := 1, req := some s.mem.nextReq, cols := [] })

/-- A slot's wait for a translation counts as missing on the address port (R56, R137). -/
def State.missMat (s : State) (core e va cls : Nat) : Act :=
  .waitS (s.want (.unit core e 0) (s.fab core).pdom (w64 va) 0) cls

def mldbAct (s : State) (core e k : Nat) (f : Fabric) (n : Node) : Act :=
  match f.look e 0 1 with
  | .miss => .wait 4
  | .align _ => .wait (f.lack e 0 1)
  | .bad sub => .bad k 1 sub
  | .tok t =>
    if !t.isData then f.swallow e 0 [(1, t)]
    else if (f.mat e).inactive.st ≠ 0 then .wait 6
    else if t.addr % 16 ≠ 0 ∨ 3 ≤ t.space then .flt k 7 1 5 0
    else match s.spans core e t.space (colRanges n t.addr t.stride) with
      | .miss va => s.missMat core e va 4
      | .fault c va => if t.space = 0 then .flt k 4 1 va 0 else .flt k 7 1 c 0
      | .keys ks d =>
        let taken := ((f.unit e 0).port 1).taken
        let r := s.startLatch core e ks.flatten d ⟨0, none, t.addr, t.stride, t.space, t.taint, taken, []⟩
        /- R139: a wait for a bank adds a row cycle. -/
        let w := (64 * n.rowBytes + 63) / 64 + 8 + (s.bankBusy ks.flatten).toNat
        .full ((r.1.setFab core ((((f.take e 0 1 t).updMat e fun m => m.setInactive r.2).updUnit e 0 fun x =>
          { x with loadAt := s.clk.fab + w * f.divOf e }).spend e 0)).useBanks ks.flatten)

/-- The slot that holds an operation of an mn element. -/
def Fabric.mnSlot (f : Fabric) (e opc : Nat) : Option Nat := (List.range 4).find? fun k => (f.node e k).opc == opc

/-- R386: a latch that is not EMPTY is LOADING from its base: a request, a wait for a translation, or a fault as MLDB's. -/
def State.reloadLatch (s : State) (core e : Nat) (get : Mat → Latch) (put : Mat → Latch → Mat) : State :=
  let f := s.fab core
  let k := (f.mnSlot e 0x50).getD 0
  let l := get (f.mat e)
  let set (s : State) (l : Latch) : State := s.updFab core fun f => f.updMat e fun m => put m l
  if l.st = 0 then s
  else
    let u := set s { l with st := 1, req := none, cols := [] }
    match s.spans core e l.space (colRanges (f.node e k) l.base l.stride) with
    | .keys ks d =>
      let r := s.startLatch core e ks.flatten d l
      set r.1 r.2
    | .miss va => u.want (.unit core e 0) f.pdom (w64 va) 0
    | .fault c va => u.updFab core fun f =>
      if l.space = 0 then f.raise s.clk.fab core e k 4 1 va 0 else f.raise s.clk.fab core e k 7 1 c 0

/-- A LOADING latch whose bytes have arrived becomes READY; one that has no request yet asks for them. -/
def State.latchReady (s : State) (core e : Nat) (get : Mat → Latch) (put : Mat → Latch → Mat) : State :=
  let f := s.fab core
  let l := get (f.mat e)
  match l.req with
  | none => if f.live e 0 && l.st == 1 then s.reloadLatch core e get put else s
  | some i => match s.req i with
    | none => s
    | some r =>
      if l.st ≠ 1 ∨ r.applied = false ∨ s.clk.fab < (f.unit e 0).loadAt then s
      else
        let k := (f.mnSlot e 0x50).getD 0
        let s := s.setReq i none
        if r.bad ≠ 0 then s.setFab core (if r.bad = 0xA then f.raise s.clk.fab core e k 7 3 0xA 0
          else f.raiseW s.clk.fab core e k 7 1 l.before r.bad 0)
        else
          let b := (f.node e k).rowBytes
          let cols := (List.range 64).map fun j => (r.bytes.drop (j * b)).take b
          s.setFab core (f.updMat e fun m => put m { l with st := 2, req := none, cols := cols })

def execMldbLoadComplete (core elem : Nat) (s : State) : Result :=
  let f := s.fab core
  .next (if isMn elem && (f.st == .running || f.st == .frozen) then
      (s.latchReady core elem (·.l0) fun m l => { m with l0 := l }).latchReady core elem (·.l1) fun m l => { m with l1 := l }
    else s)

/-- R386: after a restart each READY or LOADING latch is read again from its base. -/
def State.reloadLatches (s : State) (core e : Nat) : State :=
  (s.reloadLatch core e (·.l0) fun m l => { m with l0 := l }).reloadLatch core e (·.l1) fun m l => { m with l1 := l }

/-! ### Slots that a stop triggers (R385) -/

def isTrig (opc : Nat) : Bool := 0x52 ≤ opc && opc ≤ 0x54
/-- The next slot to act on a stop of a level. -/
def Fabric.nextTrig (f : Fabric) (e lvl : Nat) : Option Nat :=
  (List.range 4).find? fun k =>
    let n := f.node e k
    (f.mat e).acted ≤ k && isTrig n.opc && n.fn % 8 == lvl

def mselDo (e : Nat) (f : Fabric) (_ : Node) : Act := .ok (f.updMat e fun m => m.setCurrent {})
/-- The accumulator rows that a test picks are zero. -/
def Mat.clear (m : Mat) (p : Nat → Bool) : Mat := { m with
  acc := m.acc.filter fun x => !p (x.1 / 64)
  tainted := m.tainted.filter fun r => !p r }
def maczDo (e : Nat) (f : Fabric) (n : Node) : Act := .ok (f.updMat e fun m => m.clear fun r => bits (n.e 23 32) r 1 == 1)
def moutDo (e : Nat) (f : Fabric) (n : Node) : Act :=
  let nr := n.param % 32 + 1
  let os := outsOf n.omask
  let m := f.mat e
  /- R112, R121: the stop that triggers the slot, and the tokens that the row's sums come from. -/
  let stop := match f.head e 0 0 with | some t => t.taint | none => false
  let row (j : Nat) : Tok := dataTok allLive (stop || m.tainted.contains (j / 4)) fun i => SMap.get 0#32 m.acc (16 * j + i)
  match f.emit e 0 os ((List.range (4 * nr)).map row) with
  | .error c => .wait c
  | .ok g => .ok (if bits n.fn 3 1 = 0 then g
      else g.updMat e fun m => m.clear (· < nr))

/-- A slot acts when its turn has come for the stop at port a. -/
def trigAct (e k : Nat) (f : Fabric) (n : Node) (g : Nat → Fabric → Node → Act) : Act :=
  match f.look e 0 0 with
  | .tok t =>
    if t.isStop && f.nextTrig e t.level == some k then
      match g e f n with
      | .ok h => .ok (h.updMat e fun m => { m with acted := k + 1 })
      | a => a
    else .no
  | _ => .no

/-! ### MROW (R383) -/

/-- A stop or DONE taken at port a, once every slot it triggers has acted. -/
def mrowPass (e : Nat) (f : Fabric) (t : Tok) : Act :=
  if t.isStop && (f.nextTrig e t.level).isSome then .no
  else match f.emit e 0 (f.outPorts e 0) [t] with
    | .error c => .wait c
    | .ok f =>
      let clear := t.isStop && match f.mnSlot e 0x4A with
        | some j => bits (f.node e j).fn 2 3 == t.level
        | none => false
      .ok ((((f.take e 0 0 t).updMat e fun m => { m with
        acted := 0
        p := if t.isStop then 0 else m.p
        gather := if clear then [] else m.gather
        gatherFull := m.gatherFull && !clear
        gatherTaint := m.gatherTaint && !clear }).spend e 0))

/-- The products of a row added to accumulator row p. -/
def Mat.addRow (m : Mat) (n : Node) (row : List Byte) (taint : Bool) : Mat :=
  let r := (List.range 64).map fun j => n.mac (SMap.get 0#32 m.acc (64 * m.p + j)) row (nth [] m.current.cols j)
  { m with
    acc := (r.zip (List.range 64)).foldl (fun a x => SMap.set 0#32 a (64 * m.p + x.2) x.1.1) m.acc
    tainted := if (taint || m.current.taint) && !m.tainted.contains m.p then m.tainted ++ [m.p] else m.tainted
    ovf := m.ovf || r.any Prod.snd
    p := m.p + 1 }

def mrowAct (s : State) (core e k : Nat) (f : Fabric) (n : Node) : Act :=
  match f.look e 0 0 with
  | .miss => .wait 3
  | .align _ => .wait (f.lack e 0 0)
  | .bad sub => .bad k 0 sub
  | .tok t =>
    let m := f.mat e
    let gm := bits n.fn 2 1 = 1
    let m := if m.current.st = 0 ∧ m.inactive.st = 2 then { m with active := !m.active } else m
    if !t.isData then mrowPass e f t
    else if m.current.st ≠ 2 then .wait 6
    else if 32 ≤ m.p then .flt k 7 0 5 0
    else if gm ∧ m.gather.length ≤ m.p then .wait 6
    else
      let a := if gm then (nth 0 m.gather m.p + t.addr) % 2 ^ 64 else t.addr
      let space := if gm then (f.unit e 0).gen.space else t.space
      if 3 ≤ space then .flt k 7 0 5 0
      else match s.spans core e space (n.ranges a) with
        | .miss va => s.missMat core e va 3
        | .fault c va => if space = 0 then .flt k 4 0 va 0 else .flt k 7 0 c 0
        | .keys ks _ =>
          if s.bankBusy ks.flatten || !s.readFree { by_ := .unit core e 0, path := 3, kind := .read, rd := ks.flatten } then .wait 6
          else match s.meets s.found (fun _ => a) ks.flatten with
            | (s, some _) => .fltM s k
            | (s, none) =>
              let row := s.readKeys 3 (Config.readAge s.clk.tick) ks.flatten
              .full ((s.setFab core (((f.take e 0 0 t).updMat e fun _ =>
                m.addRow n row (t.taint || (gm && m.gatherTaint))).spend e 0)).useBanks ks.flatten)

/-! ### GTHR (R384) -/

def gthrAct (e k : Nat) (f : Fabric) : Act :=
  let m := f.mat e
  let g := (f.unit e 0).gen
  if m.gatherFull then .wait 6
  else match f.look e 0 2 with
    | .miss => .wait 5
    | .align _ => .wait (f.lack e 0 2)
    | .bad sub => .bad k 2 sub
    | .tok t =>
      if t.isData then
        let l := ((List.range 16).filter t.live).map fun i => sextNat (t.lane i).toNat 32
        if 32 < m.gather.length + l.length ∨ ¬ l.all (fun x => 0 ≤ x && x < (nth 0 g.ext 1 : Nat)) = true then .flt k 7 2 5 0
        else .ok (((f.take e 0 2 t).updMat e fun m => { m with
          gather := m.gather ++ l.map fun x => addInt g.base.toNat (x * nth 0 g.str 1)
          gatherTaint := m.gatherTaint || t.taint }).spend e 0)
      else
        let full := t.isStop && (t.level == 0 || !((f.unit e 0).port 2).atEdge)
        .ok (((f.take e 0 2 t).updMat e fun m => { m with gatherFull := full }).spend e 0)

/-! ### The unit: at most one slot per row cycle, the lowest-numbered that can fire (R380) -/

def mnTry (s : State) (core e : Nat) (f : Fabric) (k : Nat) : Act :=
  let n := f.node e k
  match n.opc with
  | 0x4A => gthrAct e k f
  | 0x50 => mldbAct s core e k f n
  | 0x51 => mrowAct s core e k f n
  | 0x52 => trigAct e k f n maczDo
  | 0x53 => trigAct e k f n moutDo
  | 0x54 => trigAct e k f n mselDo
  | _ => .no

/-- The class that an act that does not fire counts; none for a firing, a fault, or a slot that waits for nothing. -/
def Act.waits : Act → Option Nat
  | .wait c => some c
  | .waitS _ c => some c
  | _ => none
def Act.fires : Act → Bool
  | .no | .wait _ | .waitS .. => false
  | _ => true
/-- R380: blocked, else missing on the lowest-lettered port at which a slot waits for a token, else on port m. -/
def mnClass (l : List Nat) : Nat :=
  match l.find? (7 ≤ ·) with
  | some c => c
  | none => l.foldl Nat.min 6

def State.mnFire (s : State) (core e k code : Nat) : State :=
  s.act core e 0 fun f =>
    if !isMn e || (f.node e k).opc != code then .no
    else f.permitted e 0 <|
      let l := (List.range 4).map (mnTry s core e f)
      match (List.range 4).find? fun j => (nth .no l j).fires with
      | some j => if j = k then nth .no l k else .no
      | none =>
        let c := mnClass (l.filterMap Act.waits)
        match nth .no l k with
        | .waitS t _ => .waitS t c
        | _ => .wait c

def execGthr (core elem k : Nat) (s : State) : Result := .next (s.mnFire core elem k 0x4A)
def execMldb (core elem k : Nat) (s : State) : Result := .next (s.mnFire core elem k 0x50)
def execMrow (core elem k : Nat) (s : State) : Result := .next (s.mnFire core elem k 0x51)
def execMacz (core elem k : Nat) (s : State) : Result := .next (s.mnFire core elem k 0x52)
def execMout (core elem k : Nat) (s : State) : Result := .next (s.mnFire core elem k 0x53)
def execMsel (core elem k : Nat) (s : State) : Result := .next (s.mnFire core elem k 0x54)

end Sys2Proof.Machine
end

