-- ==== Sys2Proof/Machine/NodeWord.lean ====
section
/-! DEFINITION. Node words and the checks of item 1 of R117 on one slot (R269 to R274, R324 to R353, R360 to R390, R400 to
R407). -/

namespace Sys2Proof.Machine

/-- R269, R325: a node word and its extension word. -/
def nodeOf (w ext : Nat) : Node where
  opc := bits w 54 8
  ty := bits w 50 4
  selA := bits w 47 3
  selB := bits w 44 3
  selC := bits w 41 3
  omask := BitVec.ofNat 4 (bits w 37 4)
  pm := bits w 35 2
  rm := bits w 33 2
  px := bits w 32 1 == 1
  fn := bits w 24 6
  param := bits w 0 24
  ext := bits ext 32 30 * 2 ^ 30 + bits ext 0 30

def isRp (e : Nat) : Bool := 0x50 ≤ e && e < 0x52
/-- R107: input and output ports of an element. -/
def inCount (e : Nat) : Nat := if isAg e then 2 else if isCn e || isRp e then 1 else 3
def outCount (e : Nat) : Nat := if isVe e || isFu e || isAg e then 4 else if isRp e then 1 else 2

/-- R273: whether an element hosts an operation. -/
def hosted (opc e : Nat) : Bool :=
  let r (lo hi : Nat) : Bool := lo ≤ opc && opc ≤ hi
  (isVe e && (r 0x01 0x21 || r 0x28 0x33 || opc == 0x60 || r 0x63 0x65)) ||
  (isFu e && (r 0x28 0x33 || r 0x58 0x5D)) ||
  (isMt e && (r 0x32 0x33 || r 0x41 0x49 || opc == 0x4B || opc == 0x4D)) ||
  (isMn e && (opc == 0x4A || r 0x50 0x54)) ||
  (isIe e && r 0x61 0x62) || (isCn e && r 0x38 0x3B) || (isAg e && opc == 0x40) || (isRp e && opc == 0x4C)

/-! ### Common checks -/

def Node.sels (n : Node) : List Nat := [n.selA, n.selB, n.selC]
/-- Sources written in order: how many; none when a gap stands before one. -/
def Node.arity (n : Node) : Option Nat :=
  let k := (n.sels.takeWhile (· != 0)).length
  if (n.sels.drop k).all (· == 0) then some k else none
def Node.selIs (n : Node) (a b c : Nat) : Bool := n.sels == [a, b, c]
def Node.outs (n : Node) : Nat := n.omask.toNat
/-- R325: depths from 0 to 8. -/
def Node.depthsOk (n : Node) : Bool := n.e 0 4 ≤ 8 && n.e 4 4 ≤ 8 && n.e 8 4 ≤ 8
/-- Nothing in the extension word but depths. -/
def Node.depthsOnly (n : Node) : Bool := n.depthsOk && n.e 12 48 == 0
def fpTys : List Nat := [1, 2, 3]
def intTys : List Nat := [4, 5, 6]
/-- R271, R107: a legal predicate mode, output ports that exist. -/
def Node.common (n : Node) (e : Nat) : Bool := n.pm != 3 && n.outs < 2 ^ outCount e
/-- R331: flags that the operation takes, on types that they apply to. -/
def Node.flags (n : Node) (mask : Nat) : Bool :=
  Nat.land n.fn mask == n.fn && (bits n.fn 0 2 == 0 || !isFp n.ty) && (bits n.fn 5 1 == 0 || n.ty == 2 || n.ty == 3)

/-! ### Vector and predicate operations (R332 to R343) -/

def vecTys : Nat → List Nat
  | 0x01 | 0x02 | 0x03 | 0x06 | 0x07 | 0x08 | 0x09 | 0x12 | 0x14 => fpTys ++ intTys
  | 0x04 | 0x05 | 0x16 | 0x17 | 0x18 | 0x19 => fpTys
  | 0x0E | 0x0F | 0x10 | 0x1A | 0x21 => intTys
  | 0x11 | 0x15 => [6]
  | 0x1B => [4, 5]
  | 0x1C | 0x1D => [1, 2, 3, 6]
  | 0x20 => [0, 1, 2, 3, 4, 5, 6, 8, 9, 10]
  | _ => [0]
def vecArity (opc fn : Nat) : Nat :=
  match opc with
  | 0x08 | 0x09 | 0x0D | 0x14 | 0x15 | 0x16 | 0x17 | 0x18 | 0x19 | 0x1C | 0x1D | 0x1F | 0x20 | 0x21 | 0x2B | 0x30 => 1
  | 0x04 | 0x05 | 0x13 | 0x1A | 0x1B => 3
  | 0x1E => if fn % 4 = 0 then 2 else 1
  | _ => 2
def Node.vecFn (n : Node) : Bool :=
  match n.opc with
  | 0x01 | 0x02 | 0x03 | 0x08 | 0x09 => n.flags 0x21
  | 0x04 | 0x05 | 0x16 | 0x17 | 0x18 | 0x19 => n.flags 0x20
  | 0x06 | 0x07 => n.flags 0x22
  | 0x1A | 0x1B => n.flags 1
  | 0x11 | 0x15 => bits n.fn 0 1 == 0 && intTys.contains (bits n.fn 2 4)
  | 0x12 =>
    n.cond ≤ 5 && (bits n.fn 1 1 == 0 || !isFp n.ty) && (bits n.fn 5 1 == 0 || n.ty == 2 || n.ty == 3) &&
      (bits n.fn 0 1 == 0 || (bits n.fn 5 1 == 0 && n.ty != 4 && n.ty != 5))
  | 0x14 => bits n.fn 0 2 == 0 && 1 ≤ bits n.fn 2 4 && bits n.fn 2 4 ≤ 6 && bits n.fn 2 4 != n.ty
  | 0x1C | 0x1D =>
    bits n.fn 5 1 == 0 && n.cond ≤ (if n.opc = 0x1C then 5 else 2) && (n.cond < 3 || n.ty == 6) &&
      (bits n.fn 1 1 == 0 || n.ty == 6)
  | 0x1E => n.fn < 4
  | 0x28 | 0x29 | 0x2A => n.fn < 2
  | _ => n.fn == 0
/-- R274, R189: operations that round on this type; FP16 and BF16 to FP32 are exact. -/
def Node.vecRounds (n : Node) : Bool :=
  match n.opc with
  | 0x01 | 0x02 | 0x03 | 0x04 | 0x05 => isFp n.ty
  | 0x14 => (isFp n.ty && !(n.ty != 1 && bits n.fn 2 4 == 1)) || (!isFp n.ty && isFp (bits n.fn 2 4))
  | 0x1C | 0x1D => isFp n.ty && n.cond == 0
  | _ => false
/-- R326: no bit set in PARAM beside those that the immediate of the TYPE takes. -/
def Node.immOk (n : Node) : Bool :=
  match n.ty with
  | 4 => n.param < 2 ^ 8
  | 2 | 3 | 5 => n.param < 2 ^ 16
  | _ => true
/-- R274, R326; a shift reads the whole of PARAM as its immediate (R332). -/
def Node.vecParam (n : Node) : Bool :=
  match n.opc with
  | 0x1E => if n.fn % 4 = 0 then n.param == 0 else n.param < 16 && (n.fn % 4 != 3 || (1 ≤ n.param && n.param ≤ 4))
  | 0x1F => n.param < 16
  | 0x0E | 0x0F | 0x10 => n.sels.contains 5 || n.param == 0
  | _ => if n.sels.contains 5 then n.immOk else n.param == 0
/-- R270, R326: source codes of a slot of a ve or fu. -/
def Node.codesOk (n : Node) (e k : Nat) (imm : Bool) : Bool :=
  n.sels.all fun c => c ≤ 3 || (c == 4 && isVe e && 1 ≤ k) || (c == 5 && imm && n.ty < 8)
/-- Operations that define their own predicates. -/
def vecOwnPred (opc : Nat) : Bool := [0x1C, 0x1D, 0x1E, 0x1F, 0x28, 0x29, 0x2A, 0x2B, 0x30].contains opc
def Node.vecOk (n : Node) (e k : Nat) : Bool :=
  (vecTys n.opc).contains n.ty && n.arity == some (vecArity n.opc n.fn) && n.vecFn && n.vecParam &&
    n.codesOk e k (n.opc != 0x1E && n.opc != 0x1F && n.opc != 0x30) && (n.rm == 0 || n.vecRounds) &&
    (n.pm == 0 || !vecOwnPred n.opc) && (k == 0 || !n.px) && n.depthsOnly &&
    (n.opc != 0x30 || (n.selA ≤ 3 && 2 ≤ (outsOf n.omask).length))

/-! ### Stream and fibre operations that stand alone (R344 to R350, R390) -/

def Node.streamOk (n : Node) : Bool :=
  n.pm == 0 && match n.opc with
  | 0x2C => n.ty == 0 && n.selIs 1 0 0 && n.fn < 2 && n.param == 0 && n.rm == 0 && n.depthsOnly
  | 0x2D | 0x2E => n.ty == 0 && n.selIs 1 2 0 && n.fn == 0 && n.param == 0 && n.rm == 0 && n.depthsOnly
  | 0x2F => n.ty == 0 && n.selIs 1 2 0 && n.outs == 3 && n.fn == 0 && n.param == 0 && n.rm == 0 && n.depthsOnly
  | 0x31 => n.ty ≤ 6 && n.selIs 1 0 0 && n.fn < 32 && n.rm == 0 && n.immOk && n.depthsOnly
  | 0x32 =>
    n.ty ≤ 6 && n.selIs 0 0 0 && n.immOk && Nat.land n.fn 0x21 == n.fn && (bits n.fn 5 1 == 0 || n.ty == 2 || n.ty == 3)
  | 0x33 =>
    n.ty == 0 && n.arity.isSome && n.selA != 0 && (n.sels.filter (· != 0)).all (· ≤ 3) &&
      (n.sels.filter (· != 0)).eraseDups == n.sels.filter (· != 0) && n.outs == 0 && n.fn == 0 && n.param == 0 && n.rm == 0 && n.depthsOnly
  | _ => false
/-- R349: SRC's count word, and RM where its ramp rounds. -/
def Node.srcExt (n : Node) : Bool :=
  n.px && n.e 0 12 == 0 && n.e 40 20 == 0 && (n.rm == 0 || (bits n.fn 0 1 == 1 && isFp n.ty))

def Node.fibreOk (n : Node) : Bool :=
  let da := n.e 0 4
  let db := n.e 4 4
  let dc := n.e 8 4
  n.px && n.depthsOnly && n.pm == 0 && (n.rm == 0 || (n.opc == 0x5C && n.cond == 0 && isFp n.ty)) && match n.opc with
  | 0x58 =>
    n.ty == 6 && (n.outs == 1 || n.outs == 3) && match n.fn with
    | 0 => n.selIs 1 0 0 && 1 ≤ da && da ≤ 7
    | 1 => n.selIs 1 2 3 && n.param == 0 && 1 ≤ da && da ≤ 7 && db == 0 && dc == da
    | 2 => n.selIs 1 2 0 && n.param == 0 && db == da
    | _ => false
  | 0x59 => n.ty == 6 && n.selIs 1 2 0 && 1 ≤ n.outs && n.outs ≤ 3 && n.fn == 0 && n.param == 0 && da == db && 1 ≤ da
  | 0x5A =>
    n.ty == 6 && n.selIs 1 2 0 && n.outs % 2 == 1 && n.outs < 8 && n.fn == 0 && n.param == 0 && da == db && 1 ≤ da
  | 0x5B => n.ty == 0 && n.selIs 1 2 0 && n.outs != 0 && n.fn == 0 && n.param == 0 && db == da + 1
  | 0x5C =>
    [1, 2, 3, 6].contains n.ty && n.selIs 1 0 0 && n.outs != 0 && n.cond ≤ 2 && bits n.fn 0 1 == 0 && bits n.fn 5 1 == 0 &&
      (bits n.fn 1 1 == 0 || n.ty == 6) && n.param == 0 && 1 ≤ da
  | 0x5D =>
    n.ty == 0 && n.fn == 0 && n.param == 0 && 1 ≤ da &&
      ((n.selIs 1 0 0 && n.outs == 1) || (n.selIs 1 2 0 && n.outs == 3 && db == da))
  | _ => false

/-! ### Memory-tile operations (R360, R370 to R377) -/

/-- An entry copied at install (R160): strides in bytes. -/
def genOf (ws : List W64) : Gen :=
  let w (i : Nat) : Nat := (nth 0#64 ws i).toNat
  let fmt := bits (w 0) 56 4
  let nd := bits (w 0) 53 3
  { space := bits (w 0) 60 4, fmt := fmt, ndim := nd, base := (w 1 : Nat)
    ext := (List.range nd).map fun d => bits (w (3 + d)) 39 25
    str := (List.range nd).map fun d => sextNat (w (3 + d)) 39 * (if isPb fmt then pbBytes fmt else 1 : Nat)
    ring := (ringShape ws).map fun r => (r.1, r.2.1, r.2.2.1, r.2.2.2.1) }

def plainTys : List Nat := fpTys ++ intTys
/-- Port c is the order port exactly with ORDIN; o1 is in OMASK exactly with ORDOUT (R373). -/
def Node.orderOk (n : Node) (data : Nat) : Bool :=
  n.selC == (if n.ordIn then 3 else 0) && (if n.ordOut then n.outs / 2 == 1 && n.outs % 2 ≤ data else n.outs ≤ data)
def Node.noOrder (n : Node) : Bool := n.e 12 3 == 0
def Node.pkOk (n : Node) : Bool := bits n.fn 5 1 == 0 || n.ty == 2 || n.ty == 3
def Node.fnIn (n : Node) (mask : Nat) : Bool := Nat.land n.fn mask == n.fn
def Node.opf0 (n : Node) : Bool := n.e 23 37 == 0
def Node.tid0 (n : Node) : Bool := n.e 15 8 == 0

def Node.memOk (n : Node) (tid : Nat → List W64) : Bool :=
  let plain := plainTys.contains n.ty && n.pkOk
  let fmt := (genOf (tid n.tidNo)).fmt
  let ab := n.selA == 1 && n.selB == 2
  let a := n.selA == 1 && n.selB == 0
  n.depthsOk && n.param == 0 && match n.opc with
  | 0x41 | 0x43 => a && n.orderOk 1 && match bits n.fn 0 2 with
    | 0 => plain && n.fnIn 0x20 && n.opf0 && n.tid0
    | 1 => plain && n.fnIn 0x21 && n.opf0 && n.els == 1 && plainFmt fmt
    | 2 => n.ty == 0 && n.fn == 2 && n.rm == 0 && n.tid0 && n.e 58 2 == 0 && n.e 23 16 % 64 == 0
    | _ => false
  | 0x42 => ab && n.orderOk 0 && plain && n.fnIn 0x21 && n.opf0 && n.tid0
  | 0x44 => n.selIs 1 2 0 && n.outs ≤ 1 && n.ty == 0 && n.fn < 4 && n.rm == 0 && n.e 12 48 == 0
  | 0x45 => n.selIs 1 2 3 && n.outs == 0 && n.ty == 0 && n.fn < 4 && n.rm == 0 && n.e 12 48 == 0
  | 0x4D => n.selIs 1 2 0 && n.outs == 0 && n.ty == 0 && n.fn == 0 && n.rm == 0 && n.e 12 48 == 0
  | 0x46 => a && n.orderOk 1 && plain && n.fnIn 0x21 && n.opf0 && n.tid0
  | 0x47 => ab && n.orderOk 0 && plain && n.fnIn 0x20 && n.opf0 && n.tid0
  | 0x48 =>
    ab && n.orderOk 1 && n.opf0 && n.tid0 && n.rm == 0 && n.fn ≤ 8 &&
      (n.ty == 6 || (n.ty == 1 && [0, 4, 5, 8].contains n.fn))
  | 0x49 =>
    n.arity.isSome && n.selA != 0 && (n.sels.filter (· != 0)).all (· ≤ 3) &&
      (n.sels.filter (· != 0)).eraseDups == n.sels.filter (· != 0) &&
      n.ty == 0 && n.fn == 0 && n.rm == 0 && n.e 12 48 == 0
  | 0x4B => ab && n.orderOk 0 && plain && n.fnIn 0x20 && n.e 27 33 == 0 && plainFmt fmt
  | _ => false

/-! ### Address generators, remote ports, matrix nodes (R364, R378, R380 to R385) -/

def Node.agenOk (n : Node) (tid : Nat → List W64) : Bool :=
  let g := genOf (tid (bits n.param 0 8))
  let fsd := n.e 23 3
  let sd := n.e 26 3
  n.px && (n.selA ≤ 1) && (n.selB == 0 || n.selB == 2) && n.selC == 0 && n.fnIn 0x21 && n.pkOk && n.rm == 0 &&
    n.param < 256 && n.e 12 11 == 0 && n.e 33 27 == 0 && n.depthsOk && fsd ≤ 4 && sd ≤ 5 &&
    (plainTys.contains n.ty || isPb n.ty) &&
    match g.ring with
    | some (_, N, _, _) =>
      n.selA == 0 && (outsOf n.omask).length ≤ 1 && n.e 29 4 + 1 ≤ N && fsd + sd ≤ 2 && !isPb n.ty
    | none => (plainFmt g.fmt || isPb g.fmt) && n.e 29 4 == 0 && n.shapeOk g

/-- R378: the keys of a remote window, both ends in one tile. -/
def Node.rportOk (n : Node) (rd : Nat → Option Nat) : Bool :=
  let lo := n.e 23 16 * 64
  let hi := lo + (n.e 39 16 + 1) * 64 - 1
  n.selIs 1 0 0 && n.ty == 0 && n.rm == 0 && n.fn < 4 && n.fn != 2 && n.param < 32 && n.depthsOk && n.e 12 11 == 0 &&
    n.e 55 5 == 0 && (if bits n.fn 0 1 = 1 then n.outs == 0 else n.outs ≤ 1) &&
    match rd lo, rd hi with
    | some a, some b => tileOf a == tileOf b
    | _, _ => false

def Node.matOk (n : Node) (tid : Nat → List W64) : Bool :=
  let famTy := n.ty == 2 || n.ty == 3 || n.ty == 4 || isPb n.ty
  /- R188: no more planes than the record holds. -/
  let fam := famTy && (if isPb n.ty then n.planes ≤ planesOf n.ty else n.fn % 4 == 0)
  let low := n.depthsOnly && n.param == 0
  match n.opc with
  | 0x50 => n.selIs 2 0 0 && fam && n.fn < 4 && n.rm == 0 && low && n.outs == 0
  | 0x51 => n.selIs 1 0 0 && fam && n.fn < 8 && (n.rm == 0 || n.ty != 4) && low
  | 0x4A =>
    let f := (genOf (tid n.tidNo)).fmt
    n.selIs 3 0 0 && n.ty == 0 && n.fnIn 0x1C && n.rm == 0 && n.param == 0 && n.depthsOk && n.noOrder && n.opf0 &&
      (f == 2 || f == 3 || f == 4 || isPb f)
  | 0x54 => n.selIs 0 0 0 && n.ty == 0 && n.fn < 8 && n.rm == 0 && low
  | 0x52 => n.selIs 0 0 0 && n.ty == 0 && n.fn < 8 && n.rm == 0 && n.depthsOk && n.param == 0 && n.e 12 11 == 0 && n.e 55 5 == 0
  | 0x53 => n.selIs 0 0 0 && n.ty == 0 && n.fn < 16 && n.rm == 0 && n.depthsOnly && n.param < 32
  | _ => false

/-! ### Controllers (R353), integrators (R162, R163, R400, R401), couplings (R404 to R407) -/

def Node.cnOk (n : Node) : Bool :=
  let cnt := n.opc == 0x38
  n.px && n.ty == 0 && n.rm == 0 && n.pm == 0 && n.selB == 0 && n.selC == 0 && n.e 55 5 == 0 &&
    (cnt || (n.selA == 0 && n.outs == 0 && n.fn == 0 && n.param == 0 && n.e 29 26 == 0)) &&
    (!cnt || (n.selA ≤ 1 && 1 ≤ n.outs && n.outs ≤ 3 && n.fn < 8)) &&
    (n.opc == 0x3A || n.e 9 4 == 0) && (!n.isRoot || (n.e 0 4 == 0 && n.e 5 4 == 0))

def okSelector (x : Nat) : Bool :=
  bits x 4 1 == 0 && (selKind x != 0 || bits x 5 2 == 0) && (selKind x != 1 || bits x 5 2 != 3)
/-- `low`: the element's lowest slot that is not empty. -/
def Node.ieOk (n : Node) (low : Bool) : Bool :=
  n.px && n.ty == 0 && n.selIs 0 0 0 && n.pm == 0 && n.rm == 0 && n.fn == 0 &&
    (if low then 1 ≤ n.outs && n.outs ≤ 3 && n.param < 2 ^ 12 &&
        bits n.param 0 4 ≤ 8 && bits n.param 4 4 ≤ 8 && bits n.param 8 4 ≤ 8
      else n.outs == 0 && n.param == 0) &&
    n.imode != 3 && n.fy ≤ 40 && 1 ≤ n.qb && n.qb ≤ 32 && n.e 53 7 == 0 &&
    [n.sdy1, n.sdy2, n.sdx].all okSelector

/-- `ies`: whether the image configures an ie element. -/
def Node.coupleOk (n : Node) (e k : Nat) (ies : Nat → Bool) : Bool :=
  let one := n.arity == some 1 && (n.selA ≤ 3 || (n.selA == 4 && 1 ≤ k))
  n.rm == 0 && (k == 0 || !n.px) && n.depthsOnly && match n.opc with
  | 0x60 =>
    n.param < 4 && ies (rowIe e n) &&
      (if bits n.fn 0 1 = 1 then n.fn == 1 && n.ty == 0 && n.selIs 1 0 0 else n.fn == 0 && fpTys.contains n.ty && one)
  | 0x63 =>
    k == 0 && n.param < 2 ^ 18 && ies (rowIe e n) && n.fn < 4 && n.selIs (bits n.fn 0 1) 0 0 &&
      (if bits n.fn 1 1 = 1 then n.ty == 0 else fpTys.contains n.ty)
  | 0x64 => one && [1, 2, 3, 6].contains n.ty && n.fn < 2 && n.param < 2 ^ 7
  | 0x65 => k == 0 && one && [1, 6].contains n.ty && n.fn < 2 && n.param < 2 ^ 10 && bits n.param 4 6 ≤ 40
  | _ => false

/-- R274 for one slot of an element. -/
def Node.slotOk (n : Node) (e k : Nat) (tid : Nat → List W64) (rd : Nat → Option Nat) (ies : Nat → Bool) (low : Bool) :
    Bool :=
  hosted n.opc e && n.common e &&
    if n.opc = 0x32 then n.streamOk && n.srcExt
    else if n.opc = 0x33 then n.streamOk
    else if isMt e then n.memOk tid
    else if isMn e then n.matOk tid
    else if isIe e then n.ieOk low
    else if isCn e then n.cnOk
    else if isAg e then n.agenOk tid
    else if isRp e then n.rportOk rd
    else if 0x60 ≤ n.opc then n.coupleOk e k ies
    else if 0x58 ≤ n.opc then n.fibreOk
    else if (0x2C ≤ n.opc && n.opc ≤ 0x2F) || n.opc = 0x31 then n.streamOk && (k == 0 || !n.px)
    else n.vecOk e k

/-- Operations that stand alone in their unit (R327, R388, R404, R405). -/
def Node.standsAlone (n : Node) : Bool :=
  (0x2C ≤ n.opc && n.opc ≤ 0x2F) || (0x31 ≤ n.opc && n.opc ≤ 0x33) || (0x58 ≤ n.opc && n.opc ≤ 0x5D) ||
    (n.opc == 0x60 && bits n.fn 0 1 == 1) || (n.opc == 0x63 && bits n.fn 1 1 == 1)
def isMulOp (o : Nat) : Bool := [3, 4, 5, 0x1A, 0x1B].contains o
def isTransOp (o : Nat) : Bool := 0x16 ≤ o && o ≤ 0x19

/-- Checks of item 1 that a slot must meet beside the others of its element; `node` gives the element's slots. -/
def besideOk (e k : Nat) (node : Nat → Node) : Bool :=
  let n := node k
  let before := (List.range k).map node
  let others := ((List.range (slotsOf e)).filter (· != k)).map node
  if isVe e || isFu e then
    (!n.standsAlone || (k == 0 && others.all fun x => x.opc == 0)) &&
    before.all (fun x => x.omask &&& n.omask == 0#4) &&
    (!isVe e || k == 0 || n.ports.all (node 0).ports.contains) &&
    (!isMulOp n.opc || before.all fun x => !isMulOp x.opc) &&
    (!isTransOp n.opc || before.all fun x => !isTransOp x.opc) &&
    /- R404: one ILD for each ie element. -/
    (n.opc != 0x60 || before.all fun x => x.opc != 0x60 || x.param % 4 != n.param % 4) &&
    /- R406: prev may not read an IENC. -/
    (!n.sels.contains 4 || match (before.reverse.find? fun x => x.opc != 0) with
      | some x => x.opc != 0x64
      | none => true)
  else if isMn e then
    before.all (fun x => x.opc != n.opc) &&
    /- R380, R381: one family. -/
    (!(n.opc == 0x50 || n.opc == 0x51) || before.all fun x => !(x.opc == 0x50 || x.opc == 0x51) ||
      (if isPb n.ty then isPb x.ty && x.planes == n.planes else x.ty == n.ty))
  else true

end Sys2Proof.Machine
end

