-- ==== Sys2Proof/Machine/Cfg.lean ====
section
/-! DEFINITION. CFG: the region image, its checks in the order of R117, and the install (R109 to R118, R148, R160,
R265 to R269, R303, R354, R400). -/

namespace Sys2Proof.Machine

/-! ### The image read word by word (R265 to R269) -/

/-- The element and slot that a failed check names. -/
abbrev Named := Nat × Nat

structure Image where
  nodes : SMap Node := []
  /-- Stages by firing unit. -/
  stages : SMap Nat := []
  chans : List Nat := []
  divs : List Nat := []
  /-- Elements that a group configures. -/
  named : List Nat := []
  deriving DecidableEq, Repr

/-- The reading of an image: the element that structural faults name, the elements and stages of the open group,
its words to come, its next slot, a node word that awaits its extension word. -/
structure Parse where
  img : Image := {}
  elem : Nat := 0x40
  els : List Nat := []
  stg : List Nat := []
  left : Nat := 0
  slot : Nat := 0
  half : Option Nat := none
  deriving DecidableEq, Repr

def Image.node (m : Image) (e k : Nat) : Node := SMap.get {} m.nodes (unitKey e k)

def marked (w : Nat) : Bool := bits w 62 2 == 3 && bits w 30 2 == 3
/-- R267: the column of an element. -/
def colOf (e : Nat) : Nat :=
  if isVe e then 2 * (e % 2) + e / 2 % 2
  else if isMt e then 2 * (e % 2) + (1 - e / 2 % 2)
  else if isIe e || isCn e then e % 4
  else if isFu e || isAg e then e % 4
  else 0
/-- Elements of one kind. -/
def kindOf (e : Nat) : List Nat :=
  let r (lo n : Nat) : List Nat := (List.range n).map (lo + ·)
  if isVe e then r 0 8 else if isMt e then r 8 8 else if isMn e then r 0x10 2 else if isIe e then r 0x20 16
  else if isFu e then r 0x30 4 else if isAg e then r 0x38 4 else if isCn e then r 0x40 16 else r 0x50 2

/-- R267: the elements that a header configures; none where it breaks a rule. -/
def headerEls (w : Nat) : Option (List Nat) :=
  let e := bits w 42 8
  let rows := bits w 38 4
  let cols := bits w 34 4
  let els := if rows = 0 ∧ cols = 0 then [e]
    else (kindOf e).filter fun x => bits rows (rowOf x) 1 == 1 && bits cols (colOf x) 1 == 1
  if elemAssigned e && !els.isEmpty && bits w 32 2 == 0 && bits w 10 4 == 0 && (isMt e || bits w 14 12 == 0) &&
      1 ≤ bits w 0 10 && bits w 0 10 ≤ 64 && (rows == 0) == (cols == 0) then some els
  else none

/-- R267: a node word goes to the next slot of every element of its group. -/
def Parse.place (p : Parse) (n : Node) : Except Named Parse :=
  if slotsOf p.elem ≤ p.slot then .error (p.elem, 0)
  else .ok { p with
    half := none
    left := p.left - 1
    slot := p.slot + 1
    img := { p.img with
      nodes := p.els.foldl (fun m e => SMap.set {} m (unitKey e p.slot) n) p.img.nodes
      stages := p.els.foldl (fun m e => SMap.set 0 m (unitKey e (unitSlot e p.slot))
        (nth 0 p.stg (unitSlot e p.slot))) p.img.stages } }

/-- An empty-slot word (R269). -/
def emptyWord : Nat := 3 * 2 ^ 62 + 3 * 2 ^ 50 + 3 * 2 ^ 30

/-- One word after the image header. -/
def Parse.word (p : Parse) (w : Nat) : Except Named Parse :=
  if !marked w then .error (p.elem, 0)
  else match p.half with
    | some n => p.place (nodeOf n w)
    | none =>
      if bits w 54 8 ≠ 0 then
        if p.left = 0 then .error (p.elem, 0)
        else if bits w 32 1 = 0 then p.place (nodeOf w 0)
        else if p.left = 1 then .error (p.elem, 0)
        else .ok { p with half := some w, left := p.left - 1 }
      else match bits w 50 4 with
        | 3 =>
          if p.left = 0 then .error (p.elem, 0) else if w ≠ emptyWord then .error (p.elem, p.slot) else p.place {}
        | 0 =>
          if p.left ≠ 0 then .error (p.elem, 0)
          else match headerEls w with
            | none => .error (bits w 42 8, 0)
            | some els => .ok { p with
                img := { p.img with named := p.img.named ++ els }
                elem := bits w 42 8, els := els, left := bits w 0 10, slot := 0
                stg := (List.range 4).map fun i => bits w (26 - 4 * i) 4 }
        | 2 => if p.left ≠ 0 then .error (p.elem, 0) else .ok { p with img := { p.img with chans := p.img.chans ++ [w] } }
        | _ => .error (p.elem, 0)

def Parse.words (p : Parse) : List Nat → Except Named Parse
  | [] => if p.left = 0 then .ok p else .error (p.elem, 0)
  | w :: t => match p.word w with
    | .error e => .error e
    | .ok q => q.words t

/-- R266: the image header; its length, or none. -/
def headerLen (w : Nat) : Option Nat :=
  if marked w && bits w 54 8 == 0 && bits w 50 4 == 1 && bits w 48 2 == 0 && bits w 15 15 == 0 && 1 ≤ bits w 0 15 &&
      bits w 0 15 ≤ 29696 then some (bits w 0 15) else none

/-- An image's words read. -/
def readImage (ws : List Nat) : Except Named Image :=
  let w0 := nth 0 ws 0
  match headerLen w0 with
  | none => .error (0x40, 0)
  | some _ =>
    match ({ img := { divs := (List.range 4).map fun k => bits w0 (32 + 4 * k) 4 } } : Parse).words ws.tail with
    | .error e => .error e
    | .ok p => .ok p.img

/-! ### The checks (R117) -/

def elems : List Nat := (List.range 256).filter elemAssigned
def allSlots : List (Nat × Nat) := elems.flatMap fun e => (List.range (slotsOf e)).map fun k => (e, k)
/-- What the checks look at: the image as a fabric without tokens. -/
def Image.fabric (m : Image) (chans : List Chan) : Fabric :=
  { divs := m.divs
    nodes := m.nodes
    chans := chans
    units := m.stages.foldl (fun u x => SMap.set {} u x.1 { SMap.get {} u x.1 with stage := x.2 }) [] }

/-- Item 1: the lowest slot whose node word breaks R274 or an operation's own rules. -/
def Image.item1 (m : Image) (tid : Nat → List W64) (rd : Node → Nat → Option Nat) : Option Named :=
  let f := m.fabric []
  let ies (e : Nat) : Bool := isIe e && m.named.contains e
  allSlots.find? fun x =>
    let n := m.node x.1 x.2
    n.opc != 0 && !(n.slotOk x.1 x.2 tid (rd n) ies (f.firstSlot x.1 == some x.2) && besideOk x.1 x.2 (m.node x.1))

/-- Item 2 (R109). -/
def Image.item2 (m : Image) : Option Named :=
  ((List.range 4).find? fun k => !(1 ≤ nth 0 m.divs k && nth 0 m.divs k ≤ 8)).map fun k => (0x40 + 4 * k, 0)

/-- R268: a channel word. -/
def chanOf (w : Nat) : Chan where
  pelem := bits w 42 8
  pslot := bits w 38 4
  pport := bits w 34 4
  inc := bits w 33 1 == 1
  celem := bits w 22 8
  cslot := bits w 18 4
  cport := bits w 14 4
  depth := bits w 6 8 + 1

/-- Input ports that a unit reads: those of its sources, a counter's bound port, a generator's parameter port. -/
def Fabric.readPorts (f : Fabric) (e u : Nat) : List Nat := f.inPorts e u
/-- R111: which of a unit's ports carry increments. -/
def Fabric.incIn (f : Fabric) (e : Nat) : Bool := isIe e || (isVe e && (f.node e 0).opc == 0x65)
def Fabric.incOut (f : Fabric) (e o : Nat) : Bool :=
  isIe e || (isVe e && (f.usedSlots e).any fun k => (f.node e k).opc == 0x64 && (f.node e k).omask.getLsbD o)

/-- R111, R113, R268: what one channel word breaks; `l` are the channels before it. -/
def Fabric.chanBad (f : Fabric) (l : List Chan) (w : Nat) : Option Named :=
  let c := chanOf w
  let o := c.pport - 8
  if bits w 32 1 ≠ 0 ∨ bits w 0 6 ≠ 0 ∨ c.pport < 8 ∨ 11 < c.pport ∨ c.depth < 2 ∨ 256 ≤ l.length then some (c.celem, c.cslot)
  else if c.pslot ≠ 0 ∧ isMt c.pelem = false then some (c.pelem, 0)
  else if c.cslot ≠ 0 ∧ isMt c.celem = false then some (c.celem, 0)
  else if !(f.outPorts c.pelem c.pslot).contains o then some (c.pelem, c.pslot)
  else if !(f.readPorts c.celem c.cslot).contains c.cport ∨ c.inc ≠ f.incOut c.pelem o ∨ c.inc ≠ f.incIn c.celem ∨
      l.any (fun d => (d.pelem, d.pslot, d.pport) == (c.pelem, c.pslot, c.pport) ||
        (d.celem, d.cslot, d.cport) == (c.celem, c.cslot, c.cport)) = true then some (c.celem, c.cslot)
  else none

/-- The channels of an image, or the first that a rule refuses. -/
def Fabric.makeChans (f : Fabric) : List Chan → List Nat → Except Named (List Chan)
  | l, [] => .ok l
  | l, w :: t => match f.chanBad l w with
    | some e => .error e
    | none => f.makeChans (l ++ [chanOf w]) t

/-- R113: every port read is fed, and every port that an OMASK names feeds a channel; the slot that reads or names it. -/
def Fabric.portsBad (f : Fabric) : Option Named :=
  allUnits.findSome? fun x =>
    let (e, u) := x
    let bad (k : Nat) : Bool :=
      let n := f.node e k
      (if isIe e then n.intPorts else n.ports).any (fun p => !f.fed e u p) ||
        (outsOf n.omask).any fun o => !f.chans.any fun c => c.outOf e u o
    ((if isMt e then [u] else f.usedSlots e).find? bad).map fun k => (e, k)

/-- R114: places `n` slots of `size` bytes from byte `pos` of unit `unit`; the unit and byte after them. -/
def placeSlots (size : Nat) : Nat → Nat × Nat → Nat × Nat
  | 0, p => p
  | n + 1, (u, pos) =>
    if pos + size ≤ 65536 then placeSlots size n (u, pos + size) else placeSlots size n (u + 1, size)
/-- Item 4: the first channel that finds no room in `cb` units. -/
def spaceBad (cb : Nat) : Nat × Nat → List Chan → Option Named
  | _, [] => none
  | p, c :: t =>
    let q := placeSlots (if c.inc then 16 else 72) c.depth p
    if cb ≤ q.1 then some (c.celem, c.cslot) else spaceBad cb q t

/-! ### Item 5 (R169, R171, R400, R407) -/

/-- What `l` reaches. -/
def reachSet (succ : Nat → List Nat) : Nat → List Nat → List Nat
  | 0, l => l
  | fuel + 1, l =>
    let more := ((l.flatMap succ).filter fun x => !l.contains x).eraseDups
    if more.isEmpty then l else reachSet succ fuel (l ++ more)
def onCycle (succ : Nat → List Nat) (n v : Nat) : Bool := (reachSet succ n (succ v).eraseDups).contains v

/-- Integrators that feed integrator `i` by direct links. -/
def Fabric.directInto (f : Fabric) (e i : Nat) : List Nat :=
  let n := f.node e i
  if n.stepping then (linked 2 [n.sdy1, n.sdy2, n.sdx]).filter fun j => (f.node e j).stepping else []
/-- Elements that an element feeds by increment channels. -/
def Fabric.incNext (f : Fabric) (e : Nat) : List Nat := (f.chans.filter fun c => c.inc && c.pelem == e).map Chan.celem
def isReverse (n : Node) : Bool := n.opc == 0x62

/-- R171: integrators that a delayed link reads, and the direct dx sources of members. -/
def Fabric.lookback (f : Fabric) (e : Nat) : List Nat :=
  let n (i : Nat) : Node := f.node e i
  let seed := ((List.range 16).filter fun i => (n i).stepping).flatMap fun i => linked 3 [(n i).sdy1, (n i).sdy2, (n i).sdx]
  reachSet (fun i => linked 2 [(n i).sdx]) 16 seed.eraseDups
/-- R171 for one element: the slot that breaks it. -/
def Fabric.reverseBad (f : Fabric) (e : Nat) : Option Nat :=
  let n (i : Nat) : Node := f.node e i
  let back := f.lookback e
  match (List.range 16).find? fun i => (n i).stepping && !(isReverse (n i) && (n i).imode == 1) with
  | some i => some i
  | none => match (List.range 16).find? fun i => back.contains i && (n i).stepping &&
      (selKind (n i).sdx == 1 || selKind (n i).sdx == 3) with
    | some i => some i
    | none => ((List.range 48).find? fun op => onCycle (fun o => revNeeds (n (o % 16)) o) 48 op).map (· % 16)

def Fabric.item5 (f : Fabric) : Option Named :=
  let ies := (List.range 16).map (0x20 + ·)
  let rev := ies.any fun e => (f.usedSlots e).any fun k => isReverse (f.node e k)
  let coupled (e : Nat) : Bool := isIe e || (isVe e && (f.usedSlots e).any fun k => (f.node e k).opc == 0x64 || (f.node e k).opc == 0x65)
  let first := ies.findSome? fun e =>
    match (List.range 16).find? fun i => onCycle (f.directInto e) 16 i with
    | some i => some (e, i)
    | none =>
      match (f.usedSlots e).find? fun k => isReverse (f.node e k) != isReverse (f.node e ((f.firstSlot e).getD 0)) with
      | some k => some (e, k)
      | none => none
  first.orElse fun _ =>
  ((elems.find? fun e => coupled e && onCycle (fun x => (f.incNext x).filter coupled) 24 e).map fun e => (e, 0)).orElse fun _ =>
  (if rev then ies.findSome? fun e => (f.reverseBad e).map fun i => (e, i) else none).orElse fun _ =>
  allSlots.find? fun x =>
    let n := f.node x.1 x.2
    isVe x.1 && (n.opc == 0x64 || n.opc == 0x65) && (bits n.fn 0 1 == 1) != rev

/-! ### Item 6 (R354) -/

/-- A chain of parents that comes back. -/
def Fabric.parentLoop (f : Fabric) (c : Nat) : Bool :=
  onCycle (fun x => match f.parentOf x with | some p => [p] | none => []) 16 c
def Fabric.stageOf (f : Fabric) (e u : Nat) : Nat := (f.unit e u).stage
/-- A unit that reads no port. -/
def Fabric.portless (f : Fabric) (e u : Nat) : Bool :=
  if isAg e then (f.node e 0).selA == 0 else (f.inPorts e u).isEmpty

def Fabric.item6 (f : Fabric) : Option Named :=
  let cs := cns.filter fun c => f.used c 0
  let us := allUnits.filter fun x => !isCn x.1 && f.used x.1 x.2
  let opc (c : Nat) : Nat := (f.node c 0).opc
  let starts (c : Nat) : Bool := opc c == 0x38 || opc c == 0x3B
  let at_ (st : Nat) (p : Nat → Bool) : Bool := cs.any fun c => p c && f.stageOf c 0 == st
  let hasLeaf (c : Nat) : Bool := us.any fun x => !f.countSampler x.1 && f.stageOf x.1 x.2 == f.stageOf c 0
  let leafless (x : Nat × Nat) : Bool := f.portless x.1 x.2 && !at_ (f.stageOf x.1 x.2) starts
  let a := (cs.find? fun c => starts c && hasLeaf c &&
    cs.any fun d => d < c && starts d && f.stageOf d 0 == f.stageOf c 0).map fun c => (c, 0)
  a.orElse fun _ =>
  (us.find? fun x => at_ (f.stageOf x.1 x.2) fun c => !starts c).orElse fun _ =>
  (us.find? fun x =>
    if f.countSampler x.1 then leafless (rowIe x.1 (f.node x.1 0), 0) else leafless x).orElse fun _ =>
  ((cs.find? fun c => match f.parentOf c with | some p => !f.used p 0 | none => false).map fun c => (c, 0)).orElse fun _ =>
  ((cs.find? fun c => cs.any fun d => d < c && f.parentOf d == f.parentOf c && (f.parentOf c).isSome &&
    (f.node d 0).e 5 4 == (f.node c 0).e 5 4).map fun c => (c, 0)).orElse fun _ =>
  ((cs.find? fun c => !starts c && (f.children c).isEmpty).map fun c => (c, 0)).orElse fun _ =>
  ((cs.find? f.parentLoop).map fun c => (c, 0)).orElse fun _ =>
  match cs.filter fun c => (f.node c 0).isRoot with
  | [_] => none
  | _ :: c :: _ => some (c, 0)
  | [] => some (0x40, 0)

/-- Items 1 to 6 in order: the fabric that the image makes, or what the fault names. -/
def checkImage (m : Image) (tid : Nat → List W64) (rd : Node → Nat → Option Nat) (cb : Nat) : Except Named Fabric :=
  match (m.item1 tid rd).orElse fun _ => m.item2 with
  | some e => .error e
  | none => match (m.fabric []).makeChans [] m.chans with
    | .error e => .error e
    | .ok cs =>
      let f := m.fabric cs
      match (((f.portsBad.orElse fun _ => spaceBad cb (0, 0) cs).orElse fun _ => f.item5).orElse fun _ => f.item6) with
      | some e => .error e
      | none => .ok f

/-! ### Remote circuits (R148) -/

/-- The tiles that the RPORT nodes of a fabric of a core have circuits to. -/
def State.circuits (s : State) (core : Nat) (f : Fabric) : List (Nat × Nat) :=
  [0x50, 0x51].filterMap fun e =>
    let n := f.node e 0
    if n.opc = 0x4C then (s.spKey (rportCore core n) (n.e 23 16 * 64)).map fun k => (rportCore core n, tileOf k) else none
/-- The remote port whose circuit is refused. -/
def State.circuitBad (s : State) (core pdom : Nat) (f : Fabric) : Option Named :=
  let others := ((cores (clusterOf core)).filter (· != core)).flatMap fun c =>
    let g := s.fab c
    if g.st = .configured ∨ g.st = .running ∨ g.st = .frozen then s.circuits c g else []
  [0x50, 0x51].findSome? fun e =>
    let n := f.node e 0
    if n.opc ≠ 0x4C then none
    else
      let far := rportCore core n
      let before := if e = 0x51 then (s.circuits core f).take (if (f.node 0x50 0).opc = 0x4C then 1 else 0) else []
      let tile := (s.spKey far (n.e 23 16 * 64)).map fun k => (far, tileOf k)
      if ((List.range 4).any fun k => (s.ctx (4 * far + k)).run != .idle && (s.ctx (4 * far + k)).task.pdom != pdom) ||
          2 ≤ ((others ++ before).filter fun x => some x == tile).length then some (e, 0)
      else none

/-! ### The install (R116, R138, R160, R220) -/

/-- A unit as CFG leaves it. -/
def Fabric.freshUnit (f : Fabric) (tid : Nat → List W64) (pages : List TlbE) (now load e u : Nat) : Unit_ :=
  let n := f.node e u
  let slots := if isMt e then [u] else f.usedSlots e
  let gen := if isAg e then genOf (tid (bits n.param 0 8))
    else if n.opc = 0x4B ∨ ((n.opc = 0x41 ∨ n.opc = 0x43) ∧ bits n.fn 0 2 = 1) then genOf (tid n.tidNo)
    else match slots.find? fun k => (f.node e k).opc == 0x4A with
      | some k => genOf (tid (f.node e k).tidNo)
      | none => {}
  { stage := f.stageOf e u
    gen := if isAg e then { gen with pages := pages } else gen
    res := slots.foldl (fun r k =>
      if (f.node e k).opc = 0x64 ∧ bits (f.node e k).param 6 1 = 1 then
        SMap.set [] r k (List.replicate 16 (2 ^ 31)) else r) []
    counters := SMap.set 0 [] 1 load
    seen := now
    ctl := { trip := n.param } }

/-- Fabric cycles of an install: the image's words, and the wake of the elements it names. -/
def Fabric.loadTime (old : Fabric) (named : List Nat) (len : Nat) : Nat :=
  let wake := if named.any fun e => old.powerOf e == 2 then 512 else if named.any fun e => old.powerOf e == 1 then 64 else 0
  (len + 7) / 8 + 24 + wake

/-- The fabric with an image installed. -/
def State.installed (s : State) (core : Nat) (f : Fabric) (named : List Nat) (len pdom : Nat) : Fabric :=
  let old := s.fab core
  let load := old.loadTime named len
  let us := allUnits.filter fun x => f.used x.1 x.2 || named.contains x.1
  let units := us.foldl (fun m x =>
    SMap.set {} m (unitKey x.1 x.2)
      (f.freshUnit (s.tid core) (s.heldPages core pdom) s.clk.fab ((load + nth 1 f.divs (rowOf x.1) - 1) / nth 1 f.divs (rowOf x.1)) x.1 x.2)) []
  { f with
    st := .configured
    holder := old.holder
    orphans := old.orphans
    units := units
    power := elems.foldl (fun m e => SMap.set 2 m e (if named.contains e then 0 else 2)) []
    ckpt := { units := units }
    partWord := s.part core
    pdom := pdom
    interval := old.interval + 1
    quietSince := s.clk.fab }

/-! ### Reading (R303) -/

/-- R278 for an operation of a task of a core: the keys of 64 aligned bytes; none for a fault. -/
def State.lineKeys (s : State) (core pdom : Nat) (a : W64) : State × Option (List Nat) :=
  let n := a.toNat
  let at_ (k : Option Nat) : Option (List Nat) := k.map (keyRange · 64)
  if 0xFFFFFFFFFFFF0000 ≤ n then (s, none)
  else if 0xFFFFFF0000000000 ≤ n ∧ n < 0xFFFFFF0100000000 then (s, at_ (s.spKey core (n - 0xFFFFFF0000000000)))
  else if 0xFFFFFF0100000000 ≤ n ∧ n < 0xFFFFFF0200000000 then (s, at_ (s.acKey core (n - 0xFFFFFF0100000000)))
  else match s.xlateNow core pdom a 0 with
    | (s, .error _) => (s, none)
    | (s, .ok (pa, some d)) => (s, some (keyRange (remoteKey d pa) 64))
    | (s, .ok (pa, none)) => (s, at_ (s.physKey pa))
/-- Lines one after the other. -/
def State.linesKeys (s : State) (core pdom : Nat) : Nat → W64 → State × Option (List Nat)
  | 0, _ => (s, some [])
  | n + 1, a => match s.lineKeys core pdom a with
    | (s, none) => (s, none)
    | (s, some l) => match s.linesKeys core pdom n (a + 64#64) with
      | (s, none) => (s, none)
      | (s, some t) => (s, some (l ++ t))
/-- What CFG reads on path S. -/
def State.cfgBytes (s : State) (keys : List Nat) : List Byte := s.readKeys 0 (Config.readAge s.clk.tick) keys
/-- The words that an image's first line gives it, with its keys; none where reading faults. -/
def State.imageKeys (s : State) (core pdom : Nat) (a : W64) : State × Option (List Nat × Nat) :=
  match s.lineKeys core pdom a with
  | (s, none) => (s, none)
  | (s, some ks) => match headerLen (leNat ((s.cfgBytes ks).take 8)) with
    | none => (s, some (ks, 1))
    | some n => match s.linesKeys core pdom ((n + 7) / 8) a with
      | (s, none) => (s, none)
      | (s, some l) => (s, some (l, n))
/-- R209, R210, R280: no access that a context issued before request `i` holds up a read of these bytes. -/
def State.readsFree (s : State) (c i : Nat) (taint : Bool) (keys : List Nat) : Bool :=
  let b : Req := { by_ := .seq c, path := 0, kind := .read, rd := keys, dep := taint }
  s.mem.reqs.all fun e => match e.2 with
    | some a => !(e.1 < i && ((!a.applied && sameAgent a b) || fencedOff a b i))
    | none => true

/-! ### The operation -/

/-- A TL operation completes: it leaves its task, or the list of those whose task has ended; what that list still holds then
waits for a region that a CFG has dropped. -/
def State.tlDone (s : State) (core : Nat) (h : Op × Task × Nat × Bool) (g : Ctx → Ctx) : State :=
  if h.2.2.2 then s.updFab core fun f => { f with orphans := f.orphans.tail }
  else ((s.updFab core fun f => { f with orphans := [] }).updCtx h.2.2.1 fun x =>
    g { x with ops := x.ops.filter fun o => o.id != h.1.id }).blockFollows s h.2.2.1

/-- A failed CFG: the record, the join, RSTS.CFGFAIL; the fabric is unconfigured and free. -/
def State.cfgFailed (s : State) (core : Nat) (t : Task) (frec : Nat) (handler : Option Nat) (stage : Nat) (e : Named) : State :=
  let old := s.fab core
  let g : Fabric := { units := SMap.set {} [] (unitKey e.1 (unitSlot e.1 e.2)) { stage := stage } }
  let ws := g.faultWords core e.1 e.2 5 0 0 0 0
  let s := s.setFab core { holder := old.holder, orphans := old.orphans, pdom := t.pdom, lid := t.lid, interval := old.interval + 1 }
  let s := if frec = 0 then s else ((s.storeVa core t.pdom 1 (.unit core 0x40 0) (w64 frec) (wordsBytes ws)).1).releaseAll
    (· == .unit core 0x40 0)
  let s := s.noteIf 5 0x0D core e.1 t.pdom t.lid (ws.take 4)
  match handler with
  | some h => s.sendJoin h none
  | none => s

/-- A CFG that has read its descriptor, FREC and HANDLER, and its image: none where the reading faulted. -/
def State.cfgWith (s : State) (core : Nat) (h : Op × Task × Nat × Bool) (frec : Nat) (hd : Option Nat)
    (ws : Option (List Nat)) : State :=
  let t := h.2.1
  let fail (stage : Nat) (e : Named) : State :=
    (s.cfgFailed core t frec hd stage e).tlDone core h fun x =>
      { x with cfgFailed := true, csr := { x.csr with cfgFail := true } }
  match ws with
  | none => fail 0 (0x40, 0)
  | some ws => match readImage ws with
    | .error e => fail 0 e
    | .ok m =>
      let stage (e : Named) : Nat := SMap.get 0 m.stages (unitKey e.1 (unitSlot e.1 e.2))
      match checkImage m (s.tid core) (fun n => s.spKey (rportCore core n)) (partCB (s.part core)) with
      | .error e => fail (stage e) e
      | .ok f => match s.circuitBad core t.pdom f with
        | some e => fail (stage e) e
        | none =>
          ((s.clearUnitFaults core).setFab core { s.installed core f m.named ws.length t.pdom with
            frec := frec
            handler := hd
            lid := t.lid
            frameW := t.frame
            image := h.1.x.toNat
            imageWords := ws.map w64 }).tlDone core h id

/-- R303: the descriptor and the image are read once what the task's order puts before them is applied. -/
def State.cfgRun (s : State) (core : Nat) (h : Op × Task × Nat × Bool) : State :=
  let (op, t, c, _) := h
  let (s, dk) := s.lineKeys core t.pdom (op.y &&& ~~~(0x3F#64))
  let (s, ik) := s.imageKeys core t.pdom op.x
  let keys := dk.getD [] ++ match ik with | some k => k.1 | none => []
  if !s.readsFree c op.n op.taint keys then s
  else
    let d := match dk with | some k => wordsOf ((s.cfgBytes k).drop (op.y.toNat % 64)) 2 | none => [0, 0]
    let ws := if dk.isNone then none else ik.map fun k => wordsOf (s.cfgBytes k.1) k.2
    ((s.counterRecords core).askFar (.seq c) keys).cfgWith core h (nth 0 d 0 / 64 * 64)
      (if bits (nth 0 d 1) 63 1 = 1 then some (nth 0 d 1 % 2 ^ 32) else none) ws

def execCfgComplete (core : Nat) (s : State) : Result :=
  .next (match s.tlHead core with
    | some h => if h.1.form = .cfg ∧ s.cfgReady core h = true then s.cfgRun core h else s
    | none => s)

end Sys2Proof.Machine
end

