-- ==== Sys2Proof/Machine/Complete.lean ====
section
/-! DEFINITION. How outstanding operations complete: data and acknowledges, deferred faults, stall limits, CP and TL
operations (R86, R92, R136, R140, R159, R206, R279, R290, R293, R296 to R298, R304, R305, R307, R308, R322, R323). -/

namespace Sys2Proof.Machine

/-- An operation writes its scalar and is complete. -/
def State.opEnd (s : State) (c : Nat) (o : Op) (v : W64) : State :=
  s.updCtx c fun x => (match o.dst with | some r => x.setReg r v o.taint | none => x).dropOp o
/-- The same for an operation with a request, which ends with it. -/
def State.opEndReq (s : State) (c : Nat) (o : Op) (v : W64) : State :=
  (match o.req with | some i => s.setReq i none | none => s).opEnd c o v
/-- A failed access: the fault is owed, its scalar keeps its value. -/
def State.opFail (s : State) (c : Nat) (o : Op) (cause : Nat) : State :=
  let s := (s.owe c o cause).updCtx c (Ctx.dropOp · o)
  match o.req with | some i => s.setReq i none | none => s

/-! ### Loads and stores -/

/-- A load, a versioned load or the read of an atomic. -/
def State.loadDone (s : State) (c : Nat) (o : Op) (i : Nat) (r : Req) : State :=
  if !r.applied then s
  else if r.bad ≠ 0 then s.opFail c o r.bad
  else match o.form with
    | .ldvt =>
      /- R319: in issue order. -/
      if (s.ctx c).ops.any fun p => p.form == .ldvt && p.id < o.id then s
      else
        let s := s.updCtx c fun x => { x with csr := { x.csr with vstat := pushVstat x.csr.vstat r.status } }
        if r.status = 0 then (s.setReq i none).updCtx c (Ctx.dropOp · o) else s.opEndReq c o (wordOf r.bytes)
    | .amo =>
      if !o.inLd then s
      else
        let o' := { o with inLd := false }
        let s := s.updCtx c fun x =>
          match o.dst with | some d => x.setReg d (nth 0#64 r.vals 0) o.taint | none => x
        if o.inSt then s.updCtx c fun x => { x with ops := x.ops.map fun p => if p.id == o.id then o' else p }
        else (s.setReq i none).updCtx c (Ctx.dropOp · o)
    | _ => s.opEndReq c o (wordOf r.bytes)

/-- The operation of a context that a request belongs to. -/
def State.opOfReq (s : State) (c i : Nat) : Option Op := (s.ctx c).ops.find? fun o => o.req == some i

/-- The acknowledge of a write reaches its issuer. -/
def State.ackArrives (s : State) (i : Nat) (r : Req) : State :=
  let s := s.setReq i (some { r with acked := true })
  match r.by_ with
  | .seq c => match s.opOfReq c i with
    | none => s.setReq i none
    | some o => State.blockFollows (old := s) (c := c) <|
      if r.bad ≠ 0 then s.opFail c o r.bad
      else if o.form = .amo ∧ o.inLd = true then
        s.updCtx c fun x => { x with ops := x.ops.map fun p => if p.id == o.id then { p with inSt := false } else p }
      else if o.inSt then (s.setReq i none).updCtx c (Ctx.dropOp · o)
      else s
  | .unit core e k =>
    /- R59: an uncorrectable error of a unit's write is a memory error at port m. -/
    if r.bad ≠ 0 then (s.updFab core fun f => f.raise s.clk.fab core e k 7 (if r.bad = 0xA then 3 else 0) r.bad 0).setReq i none
    else if ((s.fab core).unit e k).pend.any fun p => p.req == some i then s
    else s.setReq i none
  | _ =>
    let s := s.setReq i none
    if r.bad = 0 then s
    else if r.bad = 9 then s.engineFail r 0xD (r.dev.getD 0) else s.engineFail r (0x10 + r.bad) r.va

def execWriteAcknowledgeArrive (i : Nat) (s : State) : Result :=
  .next (match s.req i with
    | some r =>
      if r.applied && !r.acked && r.kind != .read && r.kind != .vload then s.ackArrives i r else s
    | none => s)

/-! ### The stall limit (R136, R206) -/

/-- R136: the cluster of a cluster's, a memory slice's or a cellar slice's endpoint. -/
def leafCluster (ep : Nat) : Nat := if ep < 8 then ep else if ep < 40 then (ep - 8) / 4 else ep - 40
def State.stallClass (s : State) (a : Agent) : Nat × Nat :=
  match a with
  | .unit core e _ => (clusterOf core, (s.fab core).divOf e)
  | .seq c => (if isMgmt c then 0 else clusterOf (coreOf c), 1)
  | .eng ep _ _ => (if ep < 48 then leafCluster ep else 0, 1)
  | .larder ld _ => (leafCluster (8 + ld), 1)
  | _ => (0, 1)

/-- R206: a stamp or reply of an engine is lost and counted; a post whose TAIL it was ends in error (log entry 63). -/
def State.lostStamp (s : State) (i : Nat) (r : Req) : State :=
  let (ep, u) := r.by_.engineUnit
  let s := (s.setReq i none).lostReply ep u
  match r.by_ with
  | .eng _ _ _ => if r.reply then s else s.engineFail r 0x1B r.va
  | _ => s
def State.stallOut (s : State) (i : Nat) (r : Req) : State :=
  match r.by_ with
  | .seq c => match s.opOfReq c i with
    | some o => (s.opFail c o 0xB).blockFollows s c
    | none => s.setReq i none
  | .unit core e k =>
    let load := r.kind == .vload
    (s.updFab core fun f => f.raise s.clk.fab core e k 6 (if load then 3 else 8) (if r.va = 0 then 0 else r.va) (if load then 0 else 1)).setReq i none
  | .remote _ _ => (s.endBad i r 0xB).answered i
  | .port _ => if r.reply then s.lostStamp i r else (s.endBad i r 0xB).answered i
  | _ => s.lostStamp i r

def execVersionStallTimeout (i : Nat) (s : State) : Result :=
  .next (match s.req i with
    | none => s
    | some r => match r.heldAt with
      | none => s
      | some t =>
        let (cl, d) := s.stallClass r.by_
        if !r.applied && t + s.stallLimit cl * d ≤ s.clk.fab then s.stallOut i r else s)

/-! ### CP operations -/

/-- R86, R94, R296: a spawned record, or a refusal; reserved bits of the image are ignored (log entry 96). -/
def State.spawnRec (s : State) (t : Task) (target : W64) (ws : List Nat) : State × W64 :=
  let w2 := nth 0 ws 2
  let w3 := nth 0 ws 3
  let mx := bits t.recw3.toNat 58 3
  let cl := target.toNat
  match s.launchOf t.lid with
  | none => (s, 0#64)
  | some l =>
    if 8 ≤ cl ∨ l.cmask.getLsbD cl = false ∨ (gangCores (bits w3 52 6)).isNone = true then (s, 0#64)
    else match s.findSlot cl with
      | none => (s, 0#64)
      | some slot =>
        let r : Rec := {
          code := w64 (nth 0 ws 0)
          frame := w64 (nth 0 ws 1)
          join := bits w2 32 32
          pdom := t.pdom
          lid := t.lid
          prio := Nat.min (bits w3 61 3) mx
          maxPrio := mx
          gang := bits w3 52 6
          keep := bits t.recw3.toNat 51 1 == 1
          fab := bits w3 50 1 == 1
          notrig := !t.counted
          st := .pending }
        let h := handleOf cl (s.gen cl slot) slot
        ((s.writeRec cl slot r).updLaunch t.lid fun l =>
          { l with e := l.e + 1, u := if t.counted then l.u + 1 else l.u }, w64 h)

/-- R296: the image has come, and what the task issued before is acknowledged. -/
def State.spawnDone (s : State) (c : Nat) (o : Op) : State :=
  match o.req.bind s.req with
  | none => s
  | some r =>
    if !r.applied then s
    else if r.bad ≠ 0 then s.opFail c o r.bad
    else if (s.ctx c).ops.any fun p => p.id < o.id && (p.inSt || p.inCp) then s
    else if o.x.toNat < 8 && !s.clActive o.x.toNat then s
    else
      let q := s.spawnRec (s.ctx c).task o.x (wordsOf r.bytes 4)
      q.1.opEndReq c o q.2

/-- R92, R298: the word has been read: a monitor, when one is free at the word's owner. -/
def State.armDone (s : State) (c : Nat) (o : Op) : State :=
  match o.req.bind s.req with
  | none => s
  | some r =>
    let k := nth 0 r.rd 0
    let cl := if isPool k then clusterOf (poolCore k) else leafCluster (ownerOf k)
    if !r.applied then s
    else if r.bad ≠ 0 then s.opFail c o r.bad
    else if !isLocal k ∨ 1024 ≤ (s.sch.monitors.filter fun m => m.cl == cl).length then s.opEndReq c o 0#64
    else (s.updSch fun q => { q with monitors := q.monitors ++ [⟨cl, k, o.y.toNat, o.x.toNat⟩] }).opEndReq c o 1#64

/-- R322: whether a context may name a handle. -/
def State.mayName (s : State) (c : Nat) (h : W64) : Bool :=
  s.privileged c || bits h.toNat 48 16 == (s.ctx c).task.pdom
def State.capdDone (s : State) (c : Nat) (o : Op) : State :=
  if s.mayName c o.x then
    let q := s.capDerive o.x (o.y.toNat % 64) (bits o.y.toNat 16 16)
    q.1.opEnd c o q.2
  else s.opEnd c o 0#64
def State.capvDone (s : State) (c : Nat) (o : Op) : State :=
  if s.mayName c o.x && s.capValid o.x then
    (s.capRevoke (bits o.x.toNat 48 16) (bits o.x.toNat 36 12)).opEnd c o 1#64
  else s.opEnd c o 0#64

/-! ### TL operations -/

/-- R304: the root controller takes its first permit; in a stopped group the region runs to its next edge (R234). -/
def Fabric.runRegion (f : Fabric) (now : Nat) (join : Option Nat) (stop : Bool) : Fabric :=
  let f := { f with st := .running, doneJoin := join, quietSince := now, halted := false, stopAt := stop, atEdge := false }
  match cns.find? fun c => f.used c 0 && (f.node c 0).isRoot with
  | some c => f.permitTo true c
  | none => f

/-- A BOUND or INJ that the element's node does not take (R305). -/
def Fabric.notTaken (f : Fabric) (now core e port : Nat) : Fabric :=
  if f.st = .running then f.raise now core e 0 1 port 5 0 else f
/-- R305: a BOUND token enters the channel of port a of a counter or port b of an address generator. -/
def Fabric.boundIn (f : Fabric) (now core e : Nat) (v : W64) (taint : Bool) : Fabric :=
  let n := f.node e 0
  let p := if isCn e then 0 else 1
  let takes := if isCn e then n.opc == 0x38 && n.selA == 1 else n.opc == 0x40 && n.selB == 2
  let t : Tok := { kind := kBound, taint := taint, lanes := [v.setWidth 32, (v >>> 32).setWidth 32] ++ List.replicate 14 0#32 }
  if takes then { f with chans := f.chans.map fun c => if c.into e 0 p then { c with q := c.q ++ [t] } else c }
  else f.notTaken now core e p
/-- R305, R357: an aligned token injected by a controller. -/
def Fabric.injIn (f : Fabric) (now core e : Nat) (a : W64) (kind : Nat) : Fabric :=
  if !isCtl (f.node e 0).opc then f.notTaken now core e 0
  else if kind = kCommit then f.commitStart now e
  else
    let lane0 := (f.unit e 0).stage + a.toNat % 2 ^ 16 * 2 ^ 16
    f.injectUnder now e { kind := kBarrier, lanes := BitVec.ofNat 32 lane0 :: List.replicate 15 0#32 }

/-- R159: whether an entry keeps the table's limits; `sp` and `ac` are the sizes of scratchpad and accumulator store. -/
def tidOk (ws : List W64) (sp ac : Nat) : Bool :=
  let w (i : Nat) : Nat := (nth 0#64 ws i).toNat
  let space := bits (w 0) 60 4
  let fmt := bits (w 0) 56 4
  let nd := bits (w 0) 53 3
  let T := bits (w 3) 40 24
  let N := bits (w 3) 32 8
  let within (a : Nat) : Bool := if space = 0 then canonical (w64 a) else a < if space = 1 then sp else ac
  bits (w 0) 0 53 == 0 && 1 ≤ nd && nd ≤ 5 && space ≤ 2 && within (w 1) && (w 2 == 0 || within (w 2)) &&
    (List.range 5).all (fun d => d < nd || w (3 + d) == 0) &&
    if fmt = 15 then
      nd == 1 && space == 1 && T % 16 == 0 && 16 ≤ T && T ≤ 65536 && 1 ≤ N && N ≤ 16 && 1 ≤ bits (w 3) 24 8 &&
        bits (w 3) 24 8 ≤ N && bits (w 3) 16 8 + N ≤ 64 && bits (w 3) 0 16 == 0 && w 1 + N * T ≤ sp
    else
      (fmt ≤ 6 || isPb fmt) && (List.range nd).all fun d => 1 ≤ bits (w (3 + d)) 39 25 && bits (w (3 + d)) 39 25 ≤ 2 ^ 24

/-- R146: a configured region that reads a ring entry. -/
def Fabric.readsRing (f : Fabric) (n : Nat) : Bool :=
  (f.st == .configured || f.st == .running || f.st == .frozen) && (List.range 4).any fun i =>
    let d := f.node (0x38 + i) 0
    d.opc == 0x40 && bits d.param 0 8 == n && (f.unit (0x38 + i) 0).gen.ring.isSome

/-- R307: the entry written, its ring unbound; none when it is refused. -/
def State.tidWrite (s : State) (core n : Nat) (ws : List W64) : Option State :=
  if tidOk ws (65536 * partSP (s.part core)) (65536 * partAC (s.part core)) && !(s.fab core).readsRing n then
    some (s.updMem fun m => { m with
      tids := SMap.set (List.replicate 8 0#64) m.tids (core * 256 + n) ws
      rings := SMap.set {} m.rings (core * 256 + n) {} })
  else none

/-- R140. -/
def partOk (v : Nat) : Bool :=
  partCB v + partSP v + partAC v == 48 && bits v 22 42 == 0 && bits v 14 2 == 0 && bits v 6 2 == 0
def State.partNow (s : State) (core : Nat) (c : Nat) (v : W64) : Option State :=
  let f := s.fab core
  if partOk v.toNat && f.st != .running && (f.holder.isNone || f.holder == some c) then
    some (s.updMem fun m => { m with part := SMap.set partReset m.part core v })
  else none

/-- A discarded region operation after a failed CFG (R305). -/
def State.discardTl (s : State) (core : Nat) (h : Op × Task × Nat × Bool) : State :=
  s.tlDone core h fun x => { x with csr := { x.csr with discard := true } }

/-- The next TL operation of a core completes, when it may. -/
def State.tlRun (s : State) (core : Nat) (h : Op × Task × Nat × Bool) : State :=
  let (o, _, c, left) := h
  let f := s.fab core
  let region (g : Fabric → Fabric) : State :=
    if f.st = .free then s.discardTl core h else (s.updFab core g).tlDone core h id
  match o.form with
  | .run => region fun f => f.runRegion s.clk.fab (if o.n = 0 then none else some (o.x.toNat % 2 ^ 32))
      ((s.dbgOf f.pdom).stopped && (s.dbgOf f.pdom).stopHas f.task)
  | .bound => region fun f => f.boundIn s.clk.fab core o.n o.x o.taint
  | .inj =>
    let commit := o.y == 4#64
    if f.st != .free && (!f.mayInject s.clk.fab o.n || (commit && (f.newCkpt.isSome || f.commitPoint s.clk.fab o.n))) then s
    else if f.st = .free then s.discardTl core h
    else ((s.updFab core fun f => f.injIn s.clk.fab core o.n o.x o.y.toNat).tlDone core h id).commitDone core
  | .part =>
    let q := s.partNow core c o.x
    let t := (q.getD s).tlDone core h fun x =>
      match o.dst with | some r => x.setReg r (if q.isSome then 1#64 else 0#64) false | none => x
    t
  | .tidw => match o.req.bind s.req with
    | none => s
    | some r =>
      if !r.applied then s
      else
        let free (s : State) : State := match o.req with | some i => s.setReq i none | none => s
        if r.bad ≠ 0 then (free (if left then s else s.owe c o r.bad)).tlDone core h id
        else
        let s := free s
        match s.tidWrite core o.n ((wordsOf r.bytes 8).map w64) with
          | some t => t.tlDone core h id
          | none => s.tlDone core h fun x => { x with csr := { x.csr with tidwRef := true } }
  | _ => s

/-! ### The event -/

def isTl (o : Op) : Bool := o.inTl && o.form != .bar

/-- An operation that belongs to a live context. -/
def State.opRun (s : State) (c : Nat) (o : Op) : State :=
  if isTl o then match s.tlHead (coreOf c) with
    | some h => if h.1.id = o.id ∧ h.2.2 = (c, false) then s.tlRun (coreOf c) h else s
    | none => s
  else match o.form with
    | .ld | .ldvt | .amo =>
      match o.req with
      | none => if o.done then s.opEnd c o o.x else s
      | some i => match s.req i with
        | some r => s.loadDone c o i r
        | none => s
    | .spawn => s.spawnDone c o
    | .arm => s.armDone c o
    | .capd => s.capdDone c o
    | .capv => s.capvDone c o
    | .tlbi => (s.tlbiNow (tlbiMode o.y) (tlbiPdom o.y) (va57 o.x)).opEnd c o 0#64
    | .st | .tidr | .join => if o.done then s.updCtx c (Ctx.dropOp · o) else s
    | .send =>
      if o.done then s.updCtx c (Ctx.dropOp · o)
      else if !o.inCp && o.x != (s.ctx c).pc && !s.reading o then s.endRead c o
      else s
    | _ => s

/-- R279, R299: operation `i` of a context: those that its ended tasks left first, then its own in issue order. -/
def execSeqOperationComplete (c i : Nat) (s : State) : Result :=
  let core := coreOf c
  let left := (s.fab core).orphans.filter fun x => x.2.2 == c
  .next (if isMgmt c = false ∧ i < left.length then
      match s.tlHead core, left[i]? with
      | some h, some x => if h.2.2 = (c, true) ∧ h.1.id = x.1.id ∧ i = 0 then s.tlRun core h else s
      | _, _ => s
    else match (s.ctx c).ops[if isMgmt c then i else i - left.length]? with
      | some o => (s.opRun c o).blockFollows s c
      | none => s)

end Sys2Proof.Machine
end

