-- ==== Sys2Proof/Machine/Inbox.lean ====
section
/-! DEFINITION. Inboxes and the checks of a message that a unit takes (R64 to R67, R71, R74, R225, R275, R276, R411). -/

namespace Sys2Proof.Machine

/-! ### Arrival (R65) -/

/-- R34, R49, R65: whether an earlier message on its way holds up a later one: from the same sending unit to the same inbox
number of one endpoint, or through a port on one delivery context. -/
def holdsUp (a b : Msg) : Bool :=
  match a.sender, b.sender with
  | .port _, .port _ => a.pdc == b.pdc
  | x, y => x.sunit == y.sunit && a.dep == b.dep && a.inbox == b.inbox
def State.heldUp (s : State) (i : Nat) (m : Msg) : Bool := (s.msg.net.take i).any fun x => holdsUp x.msg m

def State.dropNet (s : State) (i : Nat) : State := s.updMsg fun g => { g with net := dropNth g.net i }
/-- R225: an engine of a cluster takes no new message while CLPWR.REQ is 1 or the cluster is not ACTIVE. A domain held in
reset takes none (R13, R17). -/
def State.opens (s : State) (m : Msg) : Bool :=
  (m.dep == 54 || (!s.pkg.hold && !s.pkg.clkHold)) && (8 ≤ m.dep || (!(s.clu m.dep).req && s.clActive m.dep))
/-- R70: the message enters its inbox; PEAK rises with an arrival only, after a clear too (log entry 99). -/
def State.accept (s : State) (m : Msg) : State :=
  let l := s.inbox m.key ++ [m]
  (s.setInbox m.key l).updMsgStat m.dep m.unit fun x => { x with peak := Nat.max x.peak l.length }

/-- R45: a message to a reserved endpoint is discarded at the first switch and counted; its sender waits for it no
longer. -/
def State.discardMsg (s : State) (i : Nat) (m : Msg) : State :=
  ((s.dropNet i).updMem fun x => { x with baddst := BitVec.ofNat 32 (satAdd x.baddst.toNat 1 (2 ^ 32 - 1)) }).opDone m
/-- R64, R65: a message at its destination. -/
def State.arriveMsg (s : State) (i : Nat) (n : NetMsg) : State :=
  let m := n.msg
  if 56 ≤ m.dep then s.discardMsg i m
  else if !m.exists_ then (s.dropNet i).answer m.dep m.unit m.inbox m (replyErr 3 (bits (m.word 0) 20 28)) []
  else if !s.opens m then s
  else if 64 ≤ (s.inbox m.key).length then
    s.updMsg fun g => { g with net := setNth g.net i { n with waiting := true } }
  else (s.dropNet i).accept m

def State.netStep (s : State) (i : Nat) (waiting : Bool) : State :=
  match s.msg.net[i]? with
  | none => s
  | some n => if n.waiting = waiting ∧ s.heldUp i n.msg = false then s.arriveMsg i n else s

def execMessageInboxEnqueue (i : Nat) (s : State) : Result := .next (s.netStep i false)
def execInboxAcceptAfterWait (i : Nat) (s : State) : Result := .next (s.netStep i true)

/-- The first packet under way to a reserved endpoint. -/
def execPacketBaddstDiscard (ep : Nat) (s : State) : Result :=
  .next (match s.msg.net.findIdx? fun n => n.msg.dep == ep with
    | some i => match s.msg.net[i]? with
      | some n => if 56 ≤ ep then s.discardMsg i n.msg else s
      | none => s
    | none => s)

/-! ### Opcodes (R64, R74, R276) -/

/-- R276: operand words of an opcode in the engines' space; none when it is not assigned. -/
def engineLen (ep opc : Nat) : Option Nat :=
  match opc with
  | 0x10 => some 3
  | 0x11 => some 4
  | 0x12 => some 5
  | 0x13 => some 5
  | 0x14 => some 4
  | 0x20 => some 5
  | 0x21 => some 5
  | 0x22 => some 5
  | 0x23 => some 4
  | 0x30 => some 5
  | 0x31 => some 1
  | 0x32 => some 1
  | 0x40 => some 2
  | 0x50 => some (if ep = 55 then 4 else 3)
  | 0x51 => some 2
  | 0x52 => some 2
  | _ => none
/-- R74: the same for the management block. -/
def mgmtLen (opc : Nat) : Option Nat :=
  match opc with
  | 1 => some 1
  | 2 => some 3
  | 3 => some 3
  | 4 => some 1
  | 5 => some 2
  | 6 => some 2
  | 7 => some 1
  | 8 => some 3
  | 9 => some 3
  | _ => none
def opLen (ep opc : Nat) : Option Nat := if ep = 54 then mgmtLen opc else engineLen ep opc
/-- R64: opcodes that a unit serves. -/
def serves (ep u opc : Nat) : Bool :=
  if ep < 8 then
    if u < 2 then opc / 16 == 1 else if u = 2 then opc / 16 == 2 else if u = 3 then opc / 16 == 3 else opc / 16 == 4
  else if ep < 48 then opc == 0x50
  else ep == 54 || opc / 16 == 5

/-! ### The checks of R66 -/

/-- Operand fields that R76, R79 and R411 call reserved; bits that other rules only give as 0 are operands (log entry 99). -/
def Msg.badOperands (m : Msg) : Bool :=
  if m.dep = 55 then
    if m.opc = 0x50 then bits (m.word 5) 0 32 != 0 || bits (m.word 6) 0 25 != 0
    else bits (m.word 3) 48 14 != 0 || bits (m.word 3) 16 16 != 0
  else if 8 ≤ m.dep ∧ m.dep < 48 then bits (m.word 4) 24 8 != 0 || bits (m.word 4) 10 6 != 0
  else false
/-- R62: the reply words of a core's message. -/
def Msg.badReply (m : Msg) : Bool :=
  !m.host && (!canonical (nth 0#64 m.words 1) || m.word 1 % 8 != 0 || 2 ^ 48 ≤ m.word 2)

/-- R74, R79: whether the issuer may use the opcode. -/
def Msg.permitted (m : Msg) : Bool :=
  if m.dep = 54 then m.pdom == 0 || m.opc == 8 || m.opc == 9
  else if m.dep = 55 ∧ m.opc ≠ 0x50 then m.pdom == 0 || bits (m.word 3) 32 16 == 0 || bits (m.word 3) 32 16 == m.pdom
  else true

/-- R231: whether an address lies in the debug window. -/
def inDebugWindow (a : Nat) : Bool := 0xFFFFFFFFFFFF0000 ≤ a
/-- R231: the rights a register of the window asks for; any right reads DBG.STAT. -/
def rightFor (rights : BitVec 6) (off : Nat) : Bool :=
  match dbgRight off with
  | some r => rights.getLsbD r
  | none => rights != 0#6
/-- R82, R231: the capability of MG.DBGRD or MG.DBGWR. -/
def State.debugHandleOk (s : State) (m : Msg) : Bool :=
  let h := nth 0#64 m.words 3
  let e := s.capE (bits h.toNat 48 16) (bits h.toNat 36 12)
  let a := m.word 4
  let n := if m.opc = 8 then Nat.min 4 (m.word 5 / 8) else 1
  s.capValid h && e.holder == m.pdom &&
    if inDebugWindow a then
      (List.range n).all fun i => rightFor e.rights ((a % 65536) / 8 * 8 + 8 * i)
    else e.rights.getLsbD (if m.opc = 8 then 3 else 4)

/-- R66, R72, R82: the first check that a message fails, with cause and detail. -/
def State.msgFault (s : State) (m : Msg) : Option (Nat × Nat) :=
  if !s.domActive m.pdom then some (5, m.pdom)
  else match opLen m.dep m.opc with
    | none => some (1, m.opc)
    | some n =>
      if !serves m.dep m.unit m.opc then some (2, m.opc)
      else if m.len ≠ n ∨ m.reserved = true ∨ m.badOperands = true ∨ m.badReply = true then some (4, 0)
      else if !m.permitted then some (7, 0)
      else if m.dep = 54 ∧ (m.opc = 8 ∨ m.opc = 9) ∧ s.debugHandleOk m = false then some (0xC, bits (m.word 3) 36 12)
      else none

/-! ### Taking a message, and its completion -/

/-- R239: a copy record; cores of engine records are 0. -/
def State.copyNote (s : State) (ep u inbox : Nat) (m : Msg) (word : W64) (moved : Nat) : State :=
  if ep < 8 ∧ u < 3 then
    s.noteIf 0 8 (32 * ep) (0x70 + u) m.pdom m.lid [pack [(m.opc, 56), (inbox, 0)], w64 (m.word 1), word, w64 moved]
  else s

/-- R411, R417: a free program context of a Larder. -/
def State.freeLdCtx (s : State) (ld : Nat) : Option Nat :=
  (List.range 16).find? fun i => (s.ldCtx ld i).msg.isNone
/-- R77: entries of the launch table in use. -/
def State.launchesHeld (s : State) : Nat := s.sch.launches.length
/-- A message that stays at the head of its inbox, before any check of it (R77, R411; log entry 99). -/
def State.staysAtHead (s : State) (m : Msg) : Bool :=
  m.opc == 0x50 && ((m.dep == 55 && 1024 ≤ s.launchesHeld) || (8 ≤ m.dep && m.dep < 48 && (s.freeLdCtx (m.dep - 8)).isNone))

/-- R426, R432: the management sequencer serves messages: it runs, is not halted, and does not wait for other events than
MEVT.INBOX alone (log entry 99). -/
def State.mgmtServes (s : State) : Bool :=
  s.mgmtRuns && !s.dbg.mHalted && ((s.ctx 1024).csr.mevtEn == 0#3 || (s.ctx 1024).csr.mevtEn.getLsbD 0)
/-- R66, R156: an engine of a cluster runs one command of each inbox, every other unit one command. -/
def State.mayTake (s : State) (ep u inbox : Nat) : Bool :=
  match s.inbox (inboxKey ep u inbox) with
  | [] => false
  | m :: _ => (s.cmd (inboxKey ep u inbox)).isNone && !s.staysAtHead m &&
      (ep < 8 || (List.range 8).all fun i => (s.cmd (inboxKey ep u i)).isNone) && (ep != 54 || s.mgmtServes)
/-- R64: the highest-numbered inbox with a message that the unit can take. -/
def State.nextInbox (s : State) (ep u : Nat) : Option Nat :=
  ((List.range (inboxesOf ep u)).reverse).find? (s.mayTake ep u)

def State.takeMsg (s : State) (ep u inbox : Nat) : State :=
  let key := inboxKey ep u inbox
  match s.inbox key with
  | [] => s
  | m :: rest =>
    let s := s.setInbox key rest
    match s.msgFault m with
    | some (cause, detail) => s.answer ep u inbox m (replyErr cause detail) []
    | none => (s.setCmd key (some { msg := m, took := s.clk.tick })).copyNote ep u inbox m 0#64 0

def execUnitTakeMessage (ep unit : Nat) (s : State) : Result :=
  .next (match s.nextInbox ep unit with
    | some i => s.takeMsg ep unit i
    | none => s)

/-- The reply word of a command (R67). -/
def Cmd.reply (c : Cmd) : W64 := if c.err then replyErr c.cause c.result else replyOk c.result
/-- R49, R71: every write of an agent is acknowledged; a reply on its way is no effect of the command. -/
def State.acknowledged (s : State) (a : Agent) : Bool :=
  s.mem.reqs.all fun e => match e.2 with
    | some r => r.by_ != a || r.reply
    | none => true
/-- R154: the agent that writes the status word of the subscription with a handle. -/
def statusAgent (cl h : Nat) : Agent := .eng cl 3 (2 ^ 25 + h)
/-- R154, R418: the status word of the subscription that a hub's command named or made is written. -/
def State.statusStored (s : State) (ep u : Nat) (c : Cmd) : Bool :=
  u != 3 || c.err || s.mem.reqs.all fun e => match e.2 with
    | some r => r.by_ != statusAgent ep (if c.msg.opc = 0x30 then c.result else c.msg.word 3)
    | none => true
/-- R71: the reply follows every effect and every acknowledge. -/
def execEngineCommandComplete (ep unit inbox : Nat) (s : State) : Result :=
  let key := inboxKey ep unit inbox
  .next (match s.cmd key with
    | none => s
    | some c =>
      if c.finished && s.acknowledged (.eng ep unit inbox) && s.statusStored ep unit c then
        ((s.setCmd key none).copyNote ep unit inbox c.msg c.reply (if c.err then (if unit < 2 then c.step else 0) else c.result)).answer ep unit inbox
          c.msg c.reply c.data
      else s)

/-- A command of one opcode in execution. -/
def State.runCmd (s : State) (ep u inbox opc : Nat) (f : Cmd → State) : State :=
  match s.cmd (inboxKey ep u inbox) with
  | some c => if c.msg.opc = opc ∧ c.finished = false then f c else s
  | none => s
def State.putCmd (s : State) (ep u inbox : Nat) (c : Cmd) : State := s.setCmd (inboxKey ep u inbox) (some c)
/-- The command that a unit of one inbox at a time runs. -/
def State.unitCmd (s : State) (ep opc : Nat) (f : Nat → Cmd → State) : State :=
  match (List.range 8).find? fun i => match s.cmd (inboxKey ep 0 i) with
      | some c => c.msg.opc == opc && !c.finished
      | none => false with
  | some i => if ep = 54 && !s.mgmtServes then s else s.runCmd ep 0 i opc (f i)
  | none => s

end Sys2Proof.Machine
end

