-- ==== Sys2Proof/Machine/Engine.lean ====
section
/-! DEFINITION. How engines reach memory: virtual ranges, pool addresses, rings (R141, R145 to R147, R199, R410). -/

namespace Sys2Proof.Machine

/-! ### Ranges of virtual memory -/

/-- Keys of bytes of one translated piece; another device's bytes have keys of their own. -/
def State.pieceKeys (s : State) (pa : Nat) (dev : Option Nat) (n : Nat) : Option (List Nat) :=
  match dev with
  | some d => some (keyRange (remoteKey d pa) n)
  | none => (List.range n).mapM fun i => s.physKey (pa + i)

/-- Keys of `n` bytes at a virtual address, translated a 64 KiB page at a time; an error is a cause of R69 and the
faulting address. -/
def State.rangeKeys (s : State) (g pdom acc : Nat) : Nat → Nat → Nat → State × Except (Nat × Nat) (List Nat)
  | 0, _, _ => (s, .ok [])
  | fuel + 1, va, n =>
    if n = 0 then (s, .ok []) else
    let k := Nat.min n (65536 - va % 65536)
    match s.xlateNow g pdom (w64 va) acc with
    | (t, .error c) => (t, .error (0x10 + c, va))
    | (t, .ok (pa, dev)) => match t.pieceKeys pa dev k with
      | none => (t, .error (0x15, va))
      | some l => match t.rangeKeys g pdom acc fuel (va + k) (n - k) with
        | (u, .error e) => (u, .error e)
        | (u, .ok r) => (u, .ok (l ++ r))

/-- R410: the core of a pool address runs no task of the domain. -/
def State.runsTask (s : State) (core pdom : Nat) : Bool :=
  (List.range 4).any fun k => let x := s.ctx (4 * core + k); x.run != .idle && x.task.pdom == pdom

/-! ### Pool addresses (R410) -/

def isPoolAddr (a : Nat) : Bool := bits a 56 8 == 0xFE
def paCore (a : Nat) : Nat := bits a 48 8
def paSpace (a : Nat) : Nat := bits a 44 4
def paTid (a : Nat) : Nat := bits a 32 8
def paOff (a : Nat) : Nat := bits a 0 32

/-- Where an operand lies: bytes, or a ring entry of a core. -/
inductive Spot where
  | keys (l : List Nat)
  | ring (core tid : Nat)
  deriving DecidableEq, Repr

/-- The keys of a window of scratchpad (space 1) or accumulator store (space 2). -/
def State.windowKeys (s : State) (core space o n : Nat) : Option (List Nat) :=
  let key (o : Nat) : Option Nat := if space = 1 then s.spKey core o else s.acKey core o
  match key o, key (o + n - 1) with
  | some k, some _ => some (keyRange k n)
  | _, _ => none

/-- R410: why the fields of a pool address are refused; `w` is the operand word that names it. -/
def State.poolBad (s : State) (pdom w a : Nat) : Option (Nat × Nat) :=
  let core := paCore a
  if !s.runsTask core pdom then some (0xB, core)
  else if bits a 40 4 ≠ 0 ∨ paSpace a = 0 ∨ 3 < paSpace a then some (8, w)
  else if paSpace a = 3 then
    if paOff a = 0 ∧ (ringShape (s.tid core (paTid a))).isSome = true then none else some (8, w)
  else if paTid a ≠ 0 then some (8, w) else none
/-- R410, R141: a pool address. -/
def State.poolSpot (s : State) (pdom w a n : Nat) : Except (Nat × Nat) Spot :=
  match s.poolBad pdom w a with
  | some x => .error x
  | none =>
    if paSpace a = 3 then .ok (.ring (paCore a) (paTid a))
    else match s.windowKeys (paCore a) (paSpace a) (paOff a) n with
      | some l => .ok (.keys l)
      | none => .error (8, w)

/-- R419: the first of some operand words that holds a pool address that is refused; a ring is no source. -/
def State.wordsBad (s : State) (m : Msg) (srcs dsts : List Nat) : Option (Nat × Nat) :=
  ((List.range 8).filter fun w => isPoolAddr (m.word w)).findSome? fun w =>
    if srcs.contains w then (s.poolBad m.pdom w (m.word w)).or (if paSpace (m.word w) = 3 then some (8, w) else none)
    else if dsts.contains w then s.poolBad m.pdom w (m.word w) else none

/-- R410: an operand of a command: `n` bytes at a virtual or pool address. -/
def State.spot (s : State) (g pdom w a n acc : Nat) : State × Except (Nat × Nat) Spot :=
  if isPoolAddr a then (s, s.poolSpot pdom w a n)
  else match s.rangeKeys g pdom acc (n / 65536 + 2) a n with
    | (t, .error e) => (t, .error e)
    | (t, .ok l) => (t, .ok (.keys l))

/-- Bytes of memory that an operand names; a ring is no source. -/
def State.fetchKeys (s : State) (g pdom w a n : Nat) : State × Except (Nat × Nat) (List Nat) :=
  match s.spot g pdom w a n 0 with
  | (t, .error e) => (t, .error e)
  | (t, .ok (.ring _ _)) => (t, .error (8, w))
  | (t, .ok (.keys l)) => (t, .ok l)
def State.bytesFor (s : State) (path : Nat) (keys : List Nat) : List Byte := s.readKeys path (Config.readAge s.clk.tick) keys
/-- Bytes that an agent reads, unless it meets an error. -/
def State.fetchSpot (s : State) (path : Nat) (who : Agent) (pdom w a n : Nat) (f : Found) :
    State × Except (Nat × Nat) (List Byte) :=
  match s.fetchKeys (tlbGroup who) pdom w a n with
  | (t, .error e) => (t, .error e)
  | (t, .ok l) => match (t.askFar who l).meets f (a + ·) l with
    | (t, some e) => (t, .error e)
    | (t, none) => (t, .ok (t.bytesFor path l))

/-- Bytes put at keys; those of another device go there as a request (R31, R32). -/
def State.putKeys (s : State) (path : Nat) (a : Agent) (eng : Bool) (l : List (Nat × Byte)) : State :=
  let far := l.filter fun e => !isLocal e.1
  let s := s.write path a eng (l.filter fun e => isLocal e.1)
  (devsOf (far.map Prod.fst)).foldl (fun s d =>
    s.issue { by_ := a, path := path, kind := .write, dev := some d, wr := far.filter fun e => remoteDev e.1 == d }) s

/-! ### Rings (R145 to R147, R410) -/

def State.ringSt (s : State) (core tid : Nat) : RingSt := SMap.get {} s.mem.rings (core * 256 + tid)
def State.updRing (s : State) (core tid : Nat) (f : RingSt → RingSt) : State :=
  s.updMem fun m => { m with rings := SMap.set {} m.rings (core * 256 + tid) (f (SMap.get {} m.rings (core * 256 + tid))) }
/-- R147: the k-th push begins with at least k - W + 1 notices. -/
def RingSt.mayPush (r : RingSt) (W : Nat) : Bool := r.pushes + 1 ≤ r.notices + W
/-- R146: bound to no stream or to this one. -/
def RingSt.free (r : RingSt) (a : Agent) : Bool := r.bound.isNone || r.bound == some a

/-- What a stream's push into a ring meets: an error, a wait, or the keys of its slot. -/
inductive Push where
  | bad | wait
  | slot (keys : List Nat)
  deriving DecidableEq, Repr
/-- `n` is the command's byte count. -/
def State.pushSlot (s : State) (a : Agent) (core tid n : Nat) : Push :=
  match ringShape (s.tid core tid) with
  | none => .bad
  | some (T, N, W, _, BASE) =>
    let r := s.ringSt core tid
    if n ≠ T ∨ r.free a = false then .bad
    else if !r.mayPush W then .wait
    else match s.windowKeys core 1 (BASE + r.pushes % N * T) T with
      | some l => .slot l
      | none => .bad
def State.bindRing (s : State) (a : Agent) (core tid : Nat) : State :=
  s.updRing core tid fun r => { r with bound := some a }
def State.pushed (s : State) (core tid : Nat) : State := s.updRing core tid fun r => { r with pushes := r.pushes + 1 }

end Sys2Proof.Machine
end

