-- ==== Sys2Proof/Machine/Image.lean ====
section
/-! DEFINITION. Firmware images, their checks and the boot flash (R19 to R22). -/

namespace Sys2Proof.Machine

/-- A little-endian field. -/
def fieldAt (l : List Byte) (off n : Nat) : Nat := leNat ((l.drop off).take n)
/-- A 384-bit value held in 48 bytes. -/
def digestAt (l : List Byte) (off : Nat) : BitVec 384 := BitVec.ofNat 384 (fieldAt l off 48)
def bytesOf (l : List Byte) (off n : Nat) : List Byte := (l.drop off).take n

/-- R19: body length of a header, and the limits of check 0x01. -/
def bodyLen (h : List Byte) : Nat := fieldAt h 0x0C 4
def bodyLenOk (h : List Byte) : Bool := bodyLen h % 64 == 0 && bodyLen h ≤ 2 ^ 24
/-- Magic and image type. -/
def imageShape (ty : Nat) (h : List Byte) : Bool := fieldAt h 0 4 == 0x4D474946 && fieldAt h 4 2 == ty

/-- R20, checks 0x02 to 0x05, in order; 0 when all pass. -/
def Pkg.signedCheck (p : Pkg) (h body : List Byte) : Nat :=
  let k := fieldAt h 6 2
  let xy := bytesOf h 0x40 96
  if 4 ≤ k ∨ p.revoked.getLsbD k = true then 2
  else if Config.sha384 xy ≠ SMap.get 0#384 p.keyHash k then 3
  else if !Config.ecdsaOk (bytesOf h 0x40 48) (bytesOf h 0x70 48) (bytesOf h 0xA0 48) (bytesOf h 0xD0 48) (h.take 0xA0) then 4
  else if Config.sha384 body ≠ digestAt h 0x10 then 5
  else 0
/-- R20: the code of the first check that fails; 0 when the object passes. -/
def Pkg.verify (p : Pkg) (shape : Bool) (h body : List Byte) (readErr : Bool) : Nat :=
  if !shape ∨ !bodyLenOk h ∨ h.length < 256 ∨ body.length < bodyLen h then 1
  else
    let c := p.signedCheck h body
    if c ≠ 0 then c
    else if fieldAt h 8 4 < p.minSvn then 6
    else if readErr then 7 else 0

/-! ### The flash (R21) -/

/-- First key of the slot of an image type and copy (0 primary, 1 recovery). -/
def slotKey (ty copy : Nat) : Nat := Config.flashBase + (2 * copy + (ty - 1)) * 2 ^ 25
def State.flashBytes (s : State) (key n : Nat) : List Byte := (keyRange key n).map s.byte
/-- Header and body in a slot. -/
def State.slotImage (s : State) (ty copy : Nat) : List Byte × List Byte :=
  let h := s.flashBytes (slotKey ty copy) 256
  (h, if bodyLenOk h then s.flashBytes (slotKey ty copy + 256) (bodyLen h) else [])
def State.writeFlash (s : State) (key : Nat) (l : List Byte) : State :=
  s.updMem fun m => { m with
    bytes := (bytesAt key l).foldl (fun b e => SMap.set Config.blankByte b e.1 e.2) m.bytes }

/-- R22 item 1: security versions of the slots whose images pass checks 0x01 to 0x05. -/
def State.goodVersions (s : State) : List Nat :=
  [(1, 0), (2, 0), (1, 1), (2, 1)].filterMap fun e =>
    let (h, body) := s.slotImage e.1 e.2
    if imageShape e.1 h && bodyLenOk h && s.pkg.signedCheck h body == 0 then some (fieldAt h 8 4) else none
/-- R22: the fused minimum raised to the smallest of them, at most 64; never lowered. -/
def State.raiseMinimum (s : State) : State :=
  match s.goodVersions with
  | [] => s
  | v :: t => s.updPkg fun p => { p with minSvn := Nat.max p.minSvn (Nat.min 64 (t.foldl Nat.min v)) }

/-- R20: the code of a failed check, shown in SB.STATUS. -/
def State.failCode (s : State) (code : Nat) : State := s.updPkg fun p => { p with failCode := BitVec.ofNat 8 code }

/-- R23: a measurement covers header and body. -/
def measure (h body : List Byte) : BitVec 384 := Config.sha384 (h ++ body)

end Sys2Proof.Machine
end

