-- ==== Sys2Proof/Machine/Boot.lean ====
section
/-! DEFINITION. Package: rails, clocks, resets, boot, sideband, and the Attics' way out (R11 to R27, R240). -/

namespace Sys2Proof.Machine

/-! ### Resets (R13, R17, R18) -/

/-- What outlives every reset: fuses, fitted parts, boot count. -/
def Pkg.fused (p : Pkg) : Pkg := {
  serial := p.serial
  keyHash := p.keyHash
  revoked := p.revoked
  minSvn := p.minSvn
  development := p.development
  bootCount := p.bootCount
  cellarChannels := p.cellarChannels
  cellarDensities := p.cellarDensities }
/-- R18: the sticky bits and pins that a warm reset keeps. -/
def Pkg.warm (p : Pkg) : Pkg := { p.fused with
  rails := p.rails
  pwrgd := p.pwrgd
  pwrgdAt := p.pwrgdAt
  hold := p.hold
  clkHold := p.clkHold
  refLost := p.refLost
  serLost := p.serLost
  thermtrip := p.thermtrip
  clkFlt := p.clkFlt
  therm := p.therm
  railFlt := p.railFlt }
/-- Memory after a reset: the flash alone keeps its bytes. -/
def State.flashOnly (s : State) : SMap Byte := s.mem.bytes.filter fun e => Config.flashBase ≤ e.1
/-- The reset state of every domain, under a package state; the model's own fields go on. -/
def State.resetAll (s : State) (p : Pkg) : State := { State.reset with
  pkg := p
  clk := { up := s.clk.up, tick := s.clk.tick }
  mem := { bytes := s.flashOnly }
  net := { tx := s.net.tx }
  out := s.out
  agenda := s.agenda
  finds := s.finds }
/-- R13: memory whose contents have become undefined: each byte that was written holds a free value (log entry 66). -/
def State.undefinedBytes (s : State) : SMap Byte :=
  (s.mem.bytes.filter fun e => e.1 < Config.flashBase).foldl (fun b e =>
    SMap.set Config.blankByte b e.1 (Config.afterHold s.clk.tick e.1 e.2)) s.flashOnly
/-- R428: MEVT.CLPWR, set as every cluster that is not ACTIVE becomes so. -/
def State.mevtReset (s : State) (m : BitVec 3) : BitVec 3 :=
  if (List.range 8).any fun cl => (s.clu cl).state != 0 then m ||| 4#3 else m
/-- R13, R17: every domain but the management block reset. -/
def State.resetDomains (s : State) : State := { s.resetAll s.pkg with
  mem := {
    bytes := s.undefinedBytes
    vers := s.mem.vers.filter fun e => Config.keepsVersions s.clk.tick e.1
    nextReq := s.mem.nextReq }
  xl := { doms := s.xl.doms }
  msg := {
    inbox := s.msg.inbox.filter fun e => e.1 / 4096 == 54
    cmds := s.msg.cmds.filter fun e => e.1 / 4096 == 54
    stat := s.msg.stat.filter fun e => e.1 / 64 == 54 }
  ctxs := SMap.set (Ctx.blank 1024) [] 1024
    (let x := s.ctx 1024; { x with ops := [], owed := [], csr := { x.csr with mevt := s.mevtReset x.csr.mevt } })
  pow := { s.pow with clus := [] }
  dbg := { s.dbg with doms := [] } }

def execColdReset (s : State) : Result := .next (s.resetAll s.pkg.fused)
def execWarmReset (s : State) : Result := .next (if s.pkg.vaux && s.pkg.rails then s.resetAll s.pkg.warm else s)

/-! ### Rails (R13, R14) -/

def execPwrgdAssert (s : State) : Result :=
  .next (if s.pkg.vaux then
      s.updPkg fun p => { p with rails := true, pwrgd := true, pwrgdAt := s.clk.up, hold := true }
    else s)
/-- 2 ms are 4,000,000 network cycles. -/
def execPowerGoodHoldExpiry (s : State) : Result :=
  .next (if s.pkg.pwrgd && s.pkg.hold && s.pkg.pwrgdAt + 4000000 ≤ s.clk.up then
      s.updPkg fun p => { p with hold := false }
    else s)
/-- A rail out of its window; a fault is one that comes after PWRGD. BOOTSTAGE and READY stay as they are, and no new boot
begins (log entry 66). -/
def State.railFault (s : State) : State :=
  if s.pkg.pwrgd then
    s.resetDomains.updPkg fun p => { p with rails := false, pwrgd := false, hold := true, railFlt := true }
  else s.updPkg fun p => { p with rails := false }
def execPwrgdDeassert (s : State) : Result := .next (if s.pkg.vaux then s.railFault else s)
/-- R14, R15: without VAUX all state is lost and THERMTRIP_N is released. -/
def execRailRemoval (allAtOnce vaux : Bool) (s : State) : Result :=
  .next (if allAtOnce || vaux then
      (s.resetAll { s.pkg.fused with vaux := false }).setCtx 1024 {}
    else if s.pkg.vaux then s.railFault else s)

def execThermtripAssert (s : State) : Result := .next (if s.pkg.vaux then s.updPkg Pkg.trip else s)

/-! ### Clocks (R17) -/

def execRefclkCoreLoss (s : State) : Result :=
  .next (if s.pkg.vaux then s.resetDomains.updPkg fun p => { p with refLost := true, clkHold := true, clkFlt := true } else s)
/-- The boot begins again at its first stage, where SB.STATUS shows its sticky bits alone; a boot that has failed waits for
RST_N or a power cycle (R21, log entry 85). -/
def execRefclkCoreStable (s : State) : Result :=
  let t := s.updPkg fun p => { p with refLost := false, clkHold := false }
  .next (if s.pkg.clkHold = false then s
    else if s.pkg.bootStage = 0xFE#8 then t
    else (t.updPkg fun p => { p with bootStage := 0#8, failCode := 0#8, celOff := false, recovery := false }).setCtx 1024
      (Ctx.blank 1024))
/-- REFCLK_SERk serves ports 4·k to 4·k + 3. -/
def execSerdesRefclkLoss (k : Nat) (s : State) : Result :=
  let s := s.updPkg fun p => { p with serLost := p.serLost ||| BitVec.ofNat 3 (2 ^ (k % 3)) }
  .next ((List.range 4).foldl (fun s i => s.linkDown (4 * (k % 3) + i)) s)

/-! ### Boot (R11, R20 to R24) -/

/-- R21: the copy of an image that passes: code of the primary copy, of the recovery copy, header, body. `readErr` has bit
0 for a read error in the primary copy, bit 1 in the recovery copy. -/
def State.loadImage (s : State) (ty readErr : Nat) : Nat × Nat × List Byte × List Byte :=
  let chk (copy : Nat) : Nat :=
    let (h, body) := s.slotImage ty copy
    s.pkg.verify (imageShape ty h) h body (bits readErr copy 1 == 1)
  let a := chk 0
  let b := if a = 0 then 0 else chk 1
  let (h, body) := s.slotImage ty (if a = 0 then 0 else 1)
  (a, b, h, body)

/-- The stage's outcome in SB.STATUS. -/
def Pkg.loaded (p : Pkg) (stage a b : Nat) : Pkg :=
  if a = 0 then { p with bootStage := BitVec.ofNat 8 stage }
  else if b = 0 then { p with bootStage := BitVec.ofNat 8 stage, failCode := BitVec.ofNat 8 a, recovery := true }
  else { p with bootStage := 0xFE#8, failCode := BitVec.ofNat 8 b }

/-- R23: what the ROM derives from a measured management firmware; its security version is shown modulo 2^16 (log entry
87). -/
def Pkg.romDerive (p : Pkg) (h body : List Byte) : Pkg :=
  let m := measure h body
  let secret := Config.hmac384 Config.uniqueSecret m
  let key := Config.deriveKey secret 0#384
  { p with
    romMeas := Config.romMeasurement
    mgmtMeas := m
    layerSecret := secret
    layerKey := key
    layerCert := Config.ecdsaSign (Config.identityKey Config.uniqueSecret) (leBytes key.toNat 48 ++ leBytes m.toNat 48)
    secretReadable := false
    fwSvn := BitVec.ofNat 32 (p.fwSvn.toNat / 2 ^ 16 * 2 ^ 16 + fieldAt h 8 4 % 2 ^ 16) }
/-- R17, R24: a boot begins; each one counts, a failed one and one resumed under R17 too, and one resumed under R17 derives
from the unique secret as after a reset (log entry 85). -/
def execBootRomStage (readErr : Nat) (s : State) : Result :=
  .next (if s.pkg.bootStage ≠ 0#8 ∨ s.pkg.vaux = false ∨ s.pkg.clkHold = true then s else
    let (a, b, h, body) := s.loadImage 1 readErr
    s.updPkg fun p =>
      let p := { p with bootCount := p.bootCount + 1#32, bootAt := s.clk.up, recovery := false }.loaded 1 a b
      if a = 0 ∨ b = 0 then p.romDerive h body else p)

/-- R11; channels of one density that R11 does not list are disabled too (log entry 88). -/
def Pkg.cellarBad (p : Pkg) : Bool :=
  p.cellarChannels != 32 || match p.cellarDensities with
    | [g] => !(g == 8 || g == 16 || g == 32)
    | _ => true
/-- R23: what the management firmware derives from a measured fabric firmware. -/
def Pkg.fwDerive (p : Pkg) (h body : List Byte) : Pkg :=
  let m := measure h body
  let key := Config.deriveKey p.layerSecret m
  { p with
    fabMeas := m
    aliasKey := key
    aliasCert := Config.ecdsaSign p.layerKey (leBytes key.toNat 48 ++ leBytes m.toNat 48)
    layerSecret := 0#384
    layerKey := 0#384
    fwSvn := BitVec.ofNat 32 (p.fwSvn.toNat % 2 ^ 16 + fieldAt h 8 4 % 2 ^ 16 * 2 ^ 16) }
def execBootFabricFwStage (readErr : Nat) (s : State) : Result :=
  .next (if s.pkg.bootStage ≠ 1#8 ∨ s.pkg.clkHold = true then s else
    let (a, b, h, body) := s.loadImage 2 readErr
    s.updPkg fun p =>
      let p := { p with celOff := p.cellarBad }.loaded 2 a b
      if a = 0 ∨ b = 0 then p.fwDerive h body else p)
def execPortsUp (s : State) : Result :=
  .next (if s.pkg.bootStage = 2#8 ∧ s.pkg.hold = false ∧ s.pkg.clkHold = false then s.updPkg fun p => { p with bootStage := 3#8 } else s)

/-! ### Sideband (R25 to R27) -/

/-- R26. -/
def Pkg.status (p : Pkg) : Nat :=
  p.bootStage.toNat * 2 ^ 16 + p.failCode.toNat * 2 ^ 8 + p.celOff.toNat * 2 ^ 5 + p.clkFlt.toNat * 2 ^ 4 +
  p.recovery.toNat * 2 ^ 3 + p.therm.toNat * 2 ^ 2 + p.railFlt.toNat * 2 + (p.bootStage == 3#8).toNat
/-- The energy counted, in mJ, modulo 2^64. -/
def Pkg.millijoules (p : Pkg) : Nat := p.energy / 100000 % 2 ^ 64
def Pkg.sbReg (p : Pkg) (off : Nat) : Nat :=
  match off with
  | 0x00 => p.status
  | 0x04 => p.tempMax.toNat
  | 0x08 => p.power.toNat
  | 0x0C => p.millijoules % 2 ^ 32
  | 0x10 => p.energyLatch.toNat
  | 0x14 => bits p.serial.toNat 0 32
  | 0x18 => bits p.serial.toNat 32 32
  | 0x1C => bits p.serial.toNat 64 32
  | 0x20 => bits p.serial.toNat 96 32
  | 0x24 => p.fwSvn.toNat
  | _ => 0
/-- One register read at the pointer; SB.ENERGYLO latches the upper half. A pointer inside a register reads that register,
and the pointer wraps at 0x100 (log entry 87). -/
def State.sbRead (s : State) : State :=
  let off := s.pkg.sbPtr.toNat
  let v := s.pkg.sbReg (off / 4 * 4)
  { s with
    out := s.out ++ [.sb (BitVec.ofNat 32 v)]
    pkg := { s.pkg with
      sbPtr := s.pkg.sbPtr + 4#8
      energyLatch := if off / 4 * 4 = 0x0C then BitVec.ofNat 32 (s.pkg.millijoules / 2 ^ 32) else s.pkg.energyLatch } }
def State.sbReads (s : State) : Nat → State
  | 0 => s
  | n + 1 => s.sbRead.sbReads n
def execI3cPrivateWrite (data : List Byte) (s : State) : Result :=
  .next (if !s.pkg.vaux then s else match data with
    | [] => s
    | b :: rest => { s.updPkg fun p => { p with sbPtr := b } with out := s.out ++ rest.map fun _ => .nack })
def execI3cPrivateRead (words : Nat) (s : State) : Result := .next (if s.pkg.vaux then s.sbReads words else s)
def execSbEnergyloRead (s : State) : Result :=
  .next (if s.pkg.vaux then (s.updPkg fun p => { p with sbPtr := 0x0C#8 }).sbRead else s)

/-! ### Attics (R240) -/

/-- A record's 64-byte units put in the cellar ring. -/
def State.ringUnits (s : State) (cl : Nat) : List (List W64) → State
  | [] => s
  | u :: t =>
    let x := s.clu cl
    let pa := x.attBase * 65536 + x.wptr.toNat * 64 % 2 ^ x.attLog2
    let s := match s.physKey pa with
      | some k => s.write 6 .mgmtBlock false (bytesAt k (recBytes u))
      | none => s
    (s.updClu cl fun x => { x with wptr := x.wptr + 1#64 }).ringUnits cl t
/-- The oldest record leaves for the cellar ring or the trace port; with CELOFF set, or without a trace port, it is
held. -/
def execAtticDrainSend (cl : Nat) (s : State) : Result :=
  let x := s.clu cl
  .next (match x.records with
    | [] => s
    | r :: t =>
      if x.attDest = 1 ∧ s.pkg.celOff = false then
        (s.updClu cl fun x => { x with records := t }).ringUnits cl (if 8 < r.length then [r.take 8, r.drop 8] else [r])
      else if x.attDest = 2 then match s.tracePortOf cl with
        | some p => if (s.port p).linkUp then (s.updClu cl fun x => { x with records := t }).sendTrace p (recBytes r) else s
        | none => s
      else s)

end Sys2Proof.Machine
end

