-- ==== Sys2Proof/Machine/Branch.lean ====
section
/-! DEFINITION. Branches, jumps, traps and the return from a trap (R286, R287, R313 to R316), and the two events
that a fetch gives (R254, R257). -/

namespace Sys2Proof.Machine

/-- A branch taken goes to its target under R256; one not taken makes no check. -/
def State.branchIf (s : State) (rs : List Reg) (taken : Bool) (d : BitVec 11) : State :=
  s.withRegs s.cur rs
    (if taken then s.transfer s.cur (branchTo (s.ctx s.cur).pc d) id else s.advance s.cur 4)

def execBCond (ra rb : Reg) (cond : BitVec 3) (imm : BitVec 11) (s : State) : Result :=
  let x := s.ctx s.cur
  .next (s.branchIf [ra, rb] (condHolds cond (x.reg ra) (x.reg rb)) imm)
def execBiCond (ra : Reg) (imm5 : BitVec 5) (cond : BitVec 3) (imm : BitVec 11) (s : State) : Result :=
  let x := s.ctx s.cur
  .next (s.branchIf [ra] (condHolds cond (x.reg ra) (sx imm5)) imm)
def execJmp (imm : BitVec 24) (s : State) : Result :=
  .next (s.transfer s.cur (branchTo (s.ctx s.cur).pc imm) id)
/-- R287: the link is pc + 4, untainted, in s31. -/
def execJal (imm : BitVec 24) (s : State) : Result :=
  let pc := (s.ctx s.cur).pc
  .next (s.withRegs s.cur [31#5]
    (s.transfer s.cur (branchTo pc imm) fun x => x.setReg 31#5 (pc + 4#64) false))
/-- R287: a is read before d is written. -/
def execJalr (rd ra : Reg) (imm : BitVec 14) (s : State) : Result :=
  let x := s.ctx s.cur
  .next (s.withRegs s.cur [rd, ra]
    (s.transfer s.cur (x.reg ra + sx imm) fun y => y.setReg rd (x.pc + 4#64) false))

def execTrap (imm : BitVec 14) (s : State) : Result := .next (s.trapPast s.cur 9 (imm.setWidth 64))
def execBkpt (s : State) : Result := .next (s.trapPast s.cur 7 0xFF#64)
def execRft (s : State) : Result := .next (s.returnFromTrap s.cur)

/-- R254, R257: a word that decodes to nothing. -/
def execIllegalInstructionTrap (s : State) : Result := .next (s.trap s.cur 1 0#64)
/-- R257 item 1: the fetch fails; the trap stands at the pc of the instruction (R255). -/
def execInstructionFetchTrap (cause : Nat) (s : State) : Result :=
  .next (s.trap s.cur (0x10 + cause) (s.ctx s.cur).pc)

end Sys2Proof.Machine
end

