-- ==== Sys2Proof/Machine/Coll.lean ====
section
/-! DEFINITION. The collective engine: recursive doubling over a group of devices (R39, R420). -/

namespace Sys2Proof.Machine

/-! ### The group word -/

def gLog (g : Nat) : Nat := bits g 10 4
def gBase (g : Nat) : Nat := bits g 0 10
def gTag (g : Nat) : Nat := bits g 48 16
/-- The device's rank; none when the word is bad or the device outside the group. -/
def State.collRank (s : State) (g : Nat) : Option Nat :=
  let d := s.xl.devnum.toNat
  if bits g 14 34 ≠ 0 ∨ 10 < gLog g ∨ gBase g % 2 ^ gLog g ≠ 0 ∨ d < gBase g ∨ gBase g + 2 ^ gLog g ≤ d then none
  else some (d - gBase g)

/-! ### Elements -/

/-- Elements of `n` bytes as words. -/
def elemsOf (n : Nat) : Nat → List Byte → List W32
  | 0, _ => []
  | k + 1, l => BitVec.ofNat 32 (leNat (l.take n)) :: elemsOf n k (l.drop n)
def elemsBytes (n : Nat) (l : List W32) : List Byte := l.flatMap fun w => leBytes w.toNat n
/-- R420: one element of a reduction; `a` is the lower rank's. -/
def collOp (ty op : Nat) (a b : W32) : W32 :=
  if ty = 6 then
    if op = 0 then a + b else if op = 1 then (if b.toInt < a.toInt then b else a) else (if a.toInt < b.toInt then b else a)
  else if op = 0 then fpLane ty 0 (Fp.sum 0 [laneFp ty a, laneFp ty b])
  else fpMinMax ty (op == 2) a b

/-! ### Commands -/

def cType (c : Cmd) : Nat := bits (c.msg.word 6) 28 4
def cOp (c : Cmd) : Nat := bits (c.msg.word 6) 24 4
def cCount (c : Cmd) : Nat := bits (c.msg.word 6) 32 32
/-- The word that both partners must give alike beside the group word, and the group word. -/
def cDesc (c : Cmd) : W64 := nth 0#64 c.msg.words 6
def cGroup (c : Cmd) : W64 := nth 0#64 c.msg.words (if c.msg.opc = 0x23 then 5 else 7)

def State.endColl (s : State) (cl inbox : Nat) (c : Cmd) : State :=
  (s.putCmd cl 2 inbox c).updMsg fun g => { g with collIn := g.collIn.filter fun p =>
    !(p.cl == cl && p.inbox == inbox && gTag p.group.toNat == gTag (cGroup c).toNat) }
def State.failColl (s : State) (cl inbox : Nat) (c : Cmd) (x : Nat × Nat) : State := s.endColl cl inbox (c.fail x.1 x.2)

/-- What putting bytes at an operand comes to. -/
inductive Put where
  | done | wait
  | fail (x : Nat × Nat)
  deriving DecidableEq, Repr
/-- R410: bytes put at an operand at address `a` that word `w` names, or as a ring's next slot, which may have to wait. They
count in arrival barriers (R145). -/
def State.putSpot (s : State) (path cl inbox pdom w a : Nat) (data : List Byte) (f : Found) : State × Put :=
  let who : Agent := .eng cl 2 inbox
  let put (s : State) (keys : List Nat) : State × Put :=
    match s.meets f (a + ·) keys with
    | (s, some x) => (s, .fail x)
    | (s, none) => ((s.putKeys path who false (keys.zip data)).circuitDone 1 (keys.filter isLocal), .done)
  match s.spot (256 + cl) pdom w a data.length 1 with
  | (s, .error x) => (s, .fail x)
  | (s, .ok (.keys keys)) => put s keys
  | (s, .ok (.ring core tid)) => match s.pushSlot who core tid data.length with
    | .bad => (s, .fail (8, w))
    | .wait => (s, .wait)
    | .slot keys => match put (s.bindRing who core tid) keys with
      | (s, .done) => (s.pushed core tid, .done)
      | r => r
/-- Bytes put at an operand of a command, on path N. -/
def State.putColl (s : State) (cl inbox : Nat) (c : Cmd) (w : Nat) (data : List Byte) (f : Found) : State × Put :=
  s.putSpot 6 cl inbox c.msg.pdom w (c.msg.word w) data f

/-- R31, R39: data of step `j` sent to a partner as a Write on RUDI, byte i at `va` + `place` i of its memory. -/
def State.sendColl (s : State) (cl inbox : Nat) (c : Cmd) (rank j va : Nat) (place : Nat → Nat) (data : List Byte) :
    State × Option (Nat × Nat) :=
  let d := gBase (cGroup c).toNat + rank
  if s.inDomain d then
    (s.issue {
      by_ := .eng cl 2 inbox, path := 6, kind := .write, va := va, dev := some d
      wr := ((List.range data.length).map fun i => remoteKey d (place i)).zip data
      coll := some { desc := cDesc c, group := cGroup c, stepNo := j, offset := 0 } }, none)
  else (s, some (0xD, d))

/-- The bytes of a step that have arrived for a command; none until `n` of them have. -/
def State.arrived (s : State) (cl inbox : Nat) (c : Cmd) (j n : Nat) : Option (List Byte) :=
  let l := s.msg.collIn.filter fun p => p.cl == cl && p.inbox == inbox && p.group == cGroup c && p.desc == cDesc c && p.stepNo == j
  (List.range n).mapM fun i => (l.find? fun p => p.offset ≤ i && i < p.offset + p.bytes.length).map fun p =>
    nth 0#8 p.bytes (i - p.offset)
/-- R420: a packet of the same collective that disagrees. -/
def State.disagrees (s : State) (cl inbox : Nat) (c : Cmd) : Bool :=
  s.msg.collIn.any fun p => p.cl == cl && p.inbox == inbox && gTag p.group.toNat == gTag (cGroup c).toNat &&
    !(p.group == cGroup c && p.desc == cDesc c)

/-- Bytes of an element of a command; a broadcast moves bytes. -/
def cSize (c : Cmd) : Nat := if c.msg.opc = 0x23 then 1 else elemBytes (cType c)

/-- The result of the last step, written, once its ring takes it; the reply's RESULT. -/
def State.writeColl (s : State) (cl inbox : Nat) (c : Cmd) (rank : Nat) (f : Found) : State :=
  let l := if c.msg.opc = 0x22 then
      let k := cCount c / 2 ^ gLog (cGroup c).toNat
      (c.part_.drop (rank * k)).take k
    else c.part_
  let data := elemsBytes (cSize c) l
  match s.putColl cl inbox c 4 data f with
  | (s, .fail x) => s.failColl cl inbox c x
  | (s, .wait) => s.putCmd cl 2 inbox { c with step := gLog (cGroup c).toNat + 1 }
  | (s, .done) => s.endColl cl inbox (c.ok data.length [])

/-- Where in STAGE byte i of step `j` stands: STAGE holds LOG2N * COUNT elements, and places past its end go on at its
beginning (log entry 86). -/
def stagePlace (c : Cmd) (j i : Nat) : Nat :=
  (j * cCount c * cSize c + i) % (gLog (cGroup c).toNat * cCount c * cSize c)
/-- Goes on to step `j` with the partial that the command holds. -/
def State.collStep (s : State) (cl inbox : Nat) (c : Cmd) (rank j : Nat) (f : Found) : State :=
  if gLog (cGroup c).toNat ≤ j then s.writeColl cl inbox c rank f
  else match s.sendColl cl inbox c (Nat.xor rank (2 ^ j)) j (c.msg.word 5) (stagePlace c j) (elemsBytes (cSize c) c.part_) with
    | (s, some x) => s.failColl cl inbox c x
    | (s, none) => s.putCmd cl 2 inbox { c with step := j + 1 }

/-- The devices that a member exchanges data with. -/
def partners (c : Cmd) (rank : Nat) : List Nat :=
  (List.range (gLog (cGroup c).toNat)).map fun j => gBase (cGroup c).toNat + Nat.xor rank (2 ^ j)

/-- R420: the first bad operand word of COLL.AR, COLL.AG and COLL.RS. -/
def State.reduceBad (s : State) (c : Cmd) : Option Nat :=
  let w := c.msg.word 6
  let g := (cGroup c).toNat
  let t := bits w 28 4
  if cCount c = 0 ∨ 2 ^ 28 < cCount c ∨ ¬(t = 1 ∨ t = 2 ∨ t = 3 ∨ t = 6) ∨ 2 < cOp c ∨ (c.msg.opc = 0x21 ∧ cOp c ≠ 0) ∨
      bits w 0 24 ≠ 0 ∨ (c.msg.opc = 0x22 ∧ cCount c % 2 ^ gLog g ≠ 0) then some 6
  else if (s.collRank g).isNone then some 7 else none

/-- The start of COLL.AR, COLL.AG and COLL.RS: operands checked, SRC read, the first exchange sent. -/
def State.reduceStart (s : State) (cl inbox : Nat) (fd : Found) (c : Cmd) : State :=
  if c.step ≠ 0 then s
  else match (s.wordsBad c.msg [3] [4, 5]).or ((s.reduceBad c).map fun w => (8, w)), s.collRank (cGroup c).toNat with
    | some x, _ => s.failColl cl inbox c x
    | none, none => s
    | none, some rank => match s.fetchSpot 6 (.eng cl 2 inbox) c.msg.pdom 3 (c.msg.word 3) (cCount c * cSize c) fd with
      | (s, .error x) => s.failColl cl inbox c x
      | (s, .ok data) => s.collStep cl inbox { c with part_ := elemsOf (cSize c) (cCount c) data, devs := partners c rank } rank 0
        (foundPast (cCount c * cSize c) fd)

def execCollAr (cl inbox : Nat) (s : State) : Result := .next (s.runCmd cl 2 inbox 0x20 (s.reduceStart cl inbox s.found))
def execCollAg (cl inbox : Nat) (s : State) : Result := .next (s.runCmd cl 2 inbox 0x21 (s.reduceStart cl inbox s.found))
def execCollRs (cl inbox : Nat) (s : State) : Result := .next (s.runCmd cl 2 inbox 0x22 (s.reduceStart cl inbox s.found))

/-! ### COLL.BC -/

/-- The rank counted from ROOT. -/
def bcRank (c : Cmd) (rank : Nat) : Nat := Nat.xor rank (bits (c.msg.word 6) 0 10)
/-- The step at which a member receives: the highest bit of its rank from ROOT. -/
def topBit (n : Nat) : Nat := Nat.log2 n
/-- The sends of a member from step `j` on. -/
def State.bcSend (s : State) (cl inbox : Nat) (c : Cmd) (rank j : Nat) : State × Option (Nat × Nat) :=
  ((List.range (gLog (cGroup c).toNat)).filter (j ≤ ·)).foldl (fun r i =>
    match r.2 with
    | some x => (r.1, some x)
    | none => r.1.sendColl cl inbox c (Nat.xor rank (2 ^ i)) i (c.msg.word 3) id (elemsBytes 1 c.part_)) (s, none)
def State.bcBad (s : State) (c : Cmd) : Option Nat :=
  let g := (cGroup c).toNat
  if bits (c.msg.word 4) 40 24 ≠ 0 ∨ bits (c.msg.word 4) 0 40 = 0 ∨ 2 ^ 36 < bits (c.msg.word 4) 0 40 then some 4
  else if (s.collRank g).isNone then some 5
  else if bits (c.msg.word 6) 10 54 ≠ 0 ∨ 2 ^ gLog g ≤ bits (c.msg.word 6) 0 10 then some 6 else none
/-- The root sends its BUF; every other member waits for its step. -/
def State.bcStart (s : State) (cl inbox : Nat) (fd : Found) (c : Cmd) : State :=
  if c.step ≠ 0 then s
  else
    let rank? := s.collRank (cGroup c).toNat
    let root := rank?.any fun r => bcRank c r == 0
    match (s.wordsBad c.msg (if root then [3] else []) (if root then [] else [3])).or ((s.bcBad c).map fun w => (8, w)), rank? with
    | some x, _ => s.failColl cl inbox c x
    | none, none => s
    | none, some rank =>
      if bcRank c rank ≠ 0 then s.putCmd cl 2 inbox { c with step := 1 + topBit (bcRank c rank), devs := partners c rank }
      else match s.fetchSpot 6 (.eng cl 2 inbox) c.msg.pdom 3 (c.msg.word 3) (bits (c.msg.word 4) 0 40) fd with
        | (s, .error x) => s.failColl cl inbox c x
        | (s, .ok data) => match s.bcSend cl inbox { c with part_ := elemsOf 1 data.length data } rank 0 with
          | (s, some x) => s.failColl cl inbox c x
          | (s, none) => s.endColl cl inbox (c.ok 0 [])
def execCollBc (cl inbox : Nat) (s : State) : Result := .next (s.runCmd cl 2 inbox 0x23 (s.bcStart cl inbox s.found))
/-- A member receives at step `j`, writes BUF and sends on. -/
def State.bcTake (s : State) (cl inbox : Nat) (c : Cmd) (rank j : Nat) (data : List Byte) (f : Found) : State :=
  match s.putColl cl inbox c 3 data f with
  | (s, .fail x) => s.failColl cl inbox c x
  | (s, .wait) => s
  | (s, .done) => match s.bcSend cl inbox { c with part_ := elemsOf 1 data.length data } rank (j + 1) with
    | (s, some x) => s.failColl cl inbox c x
    | (s, none) => s.endColl cl inbox (c.ok data.length [])

/-! ### Partners' data -/

/-- Partials of two partners at a step: reduced, or laid side by side for COLL.AG, lower rank first. -/
def collJoin (c : Cmd) (rank j : Nat) (other : List W32) : List W32 :=
  let (lo, hi) := if bits rank j 1 = 0 then (c.part_, other) else (other, c.part_)
  if c.msg.opc = 0x21 then lo ++ hi else (lo.zip hi).map fun e => collOp (cType c) (cOp c) e.1 e.2

/-- R57: why a partner's data did not reach the member's memory. -/
def State.collFault (s : State) (cl inbox : Nat) (c : Cmd) : Option (Nat × Nat) :=
  s.msg.collIn.findSome? fun p =>
    if p.cl == cl && p.inbox == inbox && gTag p.group.toNat == gTag (cGroup c).toNat then p.bad else none
/-- R39: the partner's operand of a step is complete; past the last step the result waits for its ring. -/
def State.collAdvance (s : State) (cl inbox : Nat) (c : Cmd) (f : Found) : State :=
  if c.step = 0 then s
  else if s.disagrees cl inbox c then s.failColl cl inbox c (8, 6)
  else if let some x := s.collFault cl inbox c then s.failColl cl inbox c x
  else
    let j := c.step - 1
    match s.collRank (cGroup c).toNat with
    | none => s
    | some rank =>
      if c.msg.opc ≠ 0x23 ∧ gLog (cGroup c).toNat ≤ j then s.writeColl cl inbox c rank f else
      if c.msg.opc = 0x23 then match s.arrived cl inbox c j (bits (c.msg.word 4) 0 40) with
        | some data => s.bcTake cl inbox c rank j data f
        | none => s
      else match s.arrived cl inbox c j (c.part_.length * cSize c) with
        | some data =>
          s.collStep cl inbox { c with part_ := collJoin c rank j (elemsOf (cSize c) c.part_.length data) } rank (j + 1) f
        | none => s

def execCollStepAdvance (cl inbox : Nat) (s : State) : Result :=
  let fd := s.found
  .next (match s.cmd (inboxKey cl 2 inbox) with
    | some c => if c.finished then s else s.collAdvance cl inbox c fd
    | none => s)

/-- R39, R420: a packet of a broadcast, whose w6 holds only ROOT; it names no staging area, and its data go to the member's
BUF when the member takes them. -/
def isBcast (desc : W64) : Bool := bits desc.toNat 10 54 == 0
/-- Data of a partner, written at the member's staging area on path N. -/
def State.stageIn (s : State) (cl inbox pdom va : Nat) (desc : W64) (data : List Byte) (f : Found) : State × Put :=
  if isBcast desc then (s, .done) else s.putSpot 6 cl inbox pdom 5 va data f
/-- R31, R39, R57: data of a partner, which its engine gets to know. One that cannot be written is answered with an error, and
ends the member's command; one that must wait for a ring is taken when it comes again. -/
def execCollectiveDataArrive (rx : Rx) (dev cl inbox pdom va : Nat) (desc group : W64) (place : Nat × Nat) (data : List Byte)
    (s : State) : Result :=
  let fd := s.found
  .next (s.receive rx fun s => if !s.inDomain dev then s.dropPacket rx.port else
    let take (s : State) (bad : Option (Nat × Nat)) : State :=
      (s.updMsg fun g => { g with collIn := g.collIn ++ [⟨cl, inbox, desc, group, place.1, place.2, data, bad⟩] }).answerTo
        rx.via.pdc (.dev dev) .write (bad.map Prod.fst) []
    match s.stageIn cl inbox pdom va desc data fd with
    | (_, .wait) => s
    | (s, .done) => take s none
    | (s, .fail x) => take s (some x))

end Sys2Proof.Machine
end

