-- ==== Sys2Proof/Machine/Copy.lean ====
section
/-! DEFINITION. Copy engines (R156 to R158, R410, R418, R419). A command moves one packet of at most 64 bytes of a row
an event. -/

namespace Sys2Proof.Machine

/-- R419: [63:32] rows, [31:0] bytes of a row, each 1 to 2^24. -/
def tileWordOk (w : Nat) : Bool :=
  1 ≤ bits w 32 32 && bits w 32 32 ≤ 2 ^ 24 && 1 ≤ bits w 0 32 && bits w 0 32 ≤ 2 ^ 24
/-- An address moved by a signed distance, modulo 2^64. -/
def moved (a : Nat) (d : Int) : Nat := wrapInt ((a : Int) + d) 64

/-- A copy: rows, bytes of a row, the operand words that name source and destination and their addresses by row. -/
structure Plan where
  rows : Nat
  row : Nat
  sw : Nat
  src : Nat → Nat
  dw : Nat
  dst : Nat → Nat
  /-- R157: the index of the row, whose packets a group reads once. -/
  idx : Option Int := none

def Plan.total (p : Plan) : Nat := p.rows * p.row

/-- A copy that ends in error, or goes on with `c`. -/
def State.endCopy (s : State) (cl e inbox : Nat) (c : Cmd) (x : Nat × Nat) : State :=
  s.putCmd cl e inbox (c.fail x.1 x.2)
/-- After a packet of `n` bytes. -/
def State.stepCopy (s : State) (cl e inbox : Nat) (c : Cmd) (total n : Nat) : State :=
  let c := { c with step := c.step + n }
  s.putCmd cl e inbox (if total ≤ c.step then c.ok total [] else c)

/-- R157: a packet of a row that the group has read before. -/
def Cmd.rowRead (c : Cmd) (p : Plan) : Option (List Byte) :=
  p.idx.bind fun i => (c.rows.find? fun r => r.1 == i && r.2.1 == c.step % p.row).map fun r => r.2.2
def Cmd.keepRow (c : Cmd) (p : Plan) (l : List Byte) : Cmd :=
  match p.idx with
  | some i => { c with rows := (i, c.step % p.row, l) :: c.rows }
  | none => c
/-- Bytes copied from keys to keys, unless the access meets an error; `src` and `dst` are their addresses. -/
def State.copyKeys (s : State) (cl e inbox : Nat) (c : Cmd) (p : Plan) (f : Found) (src dst : Nat) (from_ to_ : List Nat)
    (k : State → Cmd → State) : State :=
  let a : Agent := .eng cl e inbox
  let old := c.rowRead p
  let from_ := if old.isSome then [] else from_
  match (s.askFar a from_).meets f (fun n => if n < from_.length then src + n else dst + (n - from_.length)) (from_ ++ to_) with
  | (s, some x) => s.endCopy cl e inbox c x
  | (s, none) =>
    let data := old.getD (s.bytesFor 2 from_)
    k (s.putKeys 2 a true (to_.zip data))
      { (if old.isSome then c else c.keepRow p data) with devs := (c.devs ++ devsOf (from_ ++ to_)).dedup }

/-- The next packet into a ring's next slot: byte p of the copy is byte p of the slot. -/
def State.packetRing (s : State) (cl e inbox : Nat) (c : Cmd) (p : Plan) (f : Found) (core tid src : Nat) (from_ : List Nat) :
    State :=
  let a : Agent := .eng cl e inbox
  let n := from_.length
  match s.pushSlot a core tid p.total with
  | .bad => s.endCopy cl e inbox c (8, p.dw)
  | .wait => s
  | .slot keys =>
    (s.bindRing a core tid).copyKeys cl e inbox c p f src (p.dst 0 + c.step) from_ ((keys.drop c.step).take n) fun s c =>
      (if p.total ≤ c.step + n then s.pushed core tid else s).stepCopy cl e inbox c p.total n

/-- The next packet of a copy. -/
def State.packet (s : State) (cl e inbox : Nat) (c : Cmd) (p : Plan) (f : Found) : State :=
  let r := c.step / p.row
  let col := c.step % p.row
  let n := Nat.min 64 (p.row - col)
  let g := 256 + cl
  match s.fetchKeys g c.msg.pdom p.sw (moved (p.src r) col) n with
  | (s, .error x) => s.endCopy cl e inbox c x
  | (s, .ok from_) =>
    let a := p.dst r
    if isPoolAddr a && paSpace a == 3 then match s.poolSpot c.msg.pdom p.dw a 1 with
      | .ok (.ring core tid) => s.packetRing cl e inbox c p f core tid (moved (p.src r) col) from_
      | .ok (.keys _) => s.endCopy cl e inbox c (8, p.dw)
      | .error x => s.endCopy cl e inbox c x
    else match s.spot g c.msg.pdom p.dw (moved a col) n 1 with
      | (s, .error x) => s.endCopy cl e inbox c x
      | (s, .ok (.ring _ _)) => s.endCopy cl e inbox c (8, p.dw)
      | (s, .ok (.keys keys)) =>
        s.copyKeys cl e inbox c p f (moved (p.src r) col) (moved a col) from_ keys fun s c => s.stepCopy cl e inbox c p.total n

/-- R419; bits given as 0 count as an operand's (log entry 99). -/
def Msg.linBad (m : Msg) : Bool :=
  bits (m.word 5) 40 24 != 0 || bits (m.word 5) 0 40 == 0 || 2 ^ 36 < bits (m.word 5) 0 40
/-- R419: receivers as pairs of index and core. -/
def Msg.receivers (m : Msg) : List (Nat × Nat) :=
  (List.range 8).filterMap fun j => if bits (m.word 6) j 1 = 1 then some (j, bits (m.word 5) (8 * j) 8) else none
/-- DST with a receiver's core in its CORE field. -/
def atCore (a core : Nat) : Nat := a - paCore a * 2 ^ 48 + core * 2 ^ 48

/-! ### The ports' slot tables (R156) -/

/-- A push into a ring that its producer may not begin yet. -/
def State.ringWaits (s : State) (a : Agent) (core dst n : Nat) : Bool :=
  isPoolAddr dst && paSpace dst == 3 && s.pushSlot a core (paTid dst) n == .wait
/-- Whether a stream has a packet ready: its command runs and no ring holds it up. -/
def State.copyReady (s : State) (cl e inbox : Nat) : Bool :=
  match s.cmd (inboxKey cl e inbox) with
  | none => false
  | some c =>
    let w := c.msg.word
    let wait (dst n : Nat) : Bool := s.ringWaits (.eng cl e inbox) (paCore dst) dst n
    !c.finished && match c.msg.opc with
      | 0x10 => !wait (w 4) (bits (w 5) 0 40)
      | 0x11 => !wait (w 4) (bits (w 5) 32 32 * bits (w 5) 0 32)
      | 0x12 | 0x13 => !wait (w 5) (bits (w 6) 32 32 * bits (w 6) 0 32)
      | _ => !c.msg.receivers.any fun x => s.ringWaits (.eng cl e inbox) x.2 (w 4) (bits (w 6) 32 32)
/-- The stream that a port serves in this network cycle: the one its table's entry names, or the next that is ready. -/
def State.portServes (s : State) (cl e p : Nat) : Option Nat :=
  let ent := bits (s.ceSlot cl (2 * e + p)).toNat (3 * (s.clk.time % 16)) 3
  ((List.range 8).map fun i => (ent + i) % 8).find? (s.copyReady cl e)
/-- A packet of a stream that one of the engine's two ports serves. -/
def State.runCopy (s : State) (cl e inbox opc : Nat) (f : Cmd → State) : State :=
  if s.portServes cl e 0 = some inbox ∨ s.portServes cl e 1 = some inbox then s.runCmd cl e inbox opc f else s

def execCpyLin (cl e inbox : Nat) (s : State) : Result :=
  let fd := s.found
  .next (s.runCopy cl e inbox 0x10 fun c =>
    match (s.wordsBad c.msg [3] [4]).or (if c.msg.linBad then some (8, 5) else none) with
    | some x => s.endCopy cl e inbox c x
    | none => s.packet cl e inbox c ⟨1, bits (c.msg.word 5) 0 40, 3, fun _ => c.msg.word 3, 4, fun _ => c.msg.word 4, none⟩ fd)

/-- A tile's row that goes into a ring keeps DST itself. -/
def tileDst (a : Nat) (d : Int) : Nat := if isPoolAddr a && paSpace a == 3 then a else moved a d
def execCpyTile (cl e inbox : Nat) (s : State) : Result :=
  let fd := s.found
  .next (s.runCopy cl e inbox 0x11 fun c =>
    let w := c.msg.word
    match (s.wordsBad c.msg [3] [4]).or (if tileWordOk (w 5) then none else some (8, 5)) with
    | some x => s.endCopy cl e inbox c x
    | none => s.packet cl e inbox c ⟨bits (w 5) 32 32, bits (w 5) 0 32,
      3, fun r => moved (w 3) (r * sextNat (bits (w 6) 32 32) 32),
      4, fun r => tileDst (w 4) (r * sextNat (bits (w 6) 0 32) 32), none⟩ fd)

/-- R157: the index of the row that begins, held in the command; `k` goes on with it. -/
def State.withIndex (s : State) (cl e inbox : Nat) (c : Cmd) (row : Nat) (k : State → Cmd → Int → State) : State :=
  if c.step % row = 0 then
    match s.fetchSpot 2 (.eng cl e inbox) c.msg.pdom 3 (moved (c.msg.word 3) (4 * (c.step / row))) 4 .good with
    | (s, .error x) => s.endCopy cl e inbox c x
    | (s, .ok l) =>
      let i := BitVec.ofNat 32 (leNat l)
      k s { c with part_ := [i], rows := if c.step / row % 256 = 0 then [] else c.rows } i.toInt
  else k s c (nth 0#32 c.part_ 0).toInt

def execCpyGath (cl e inbox : Nat) (s : State) : Result :=
  let fd := s.found
  .next (s.runCopy cl e inbox 0x12 fun c =>
    let w := c.msg.word
    let row := bits (w 6) 0 32
    match (s.wordsBad c.msg [3, 4] [5]).or (if tileWordOk (w 6) then none else some (8, 6)) with
    | some x => s.endCopy cl e inbox c x
    | none => s.withIndex cl e inbox c row fun s c i => s.packet cl e inbox c ⟨bits (w 6) 32 32, row,
      4, fun _ => moved (w 4) (i * sextNat (w 7) 64), 5, fun r => tileDst (w 5) (r * row), some i⟩ fd)
def execCpyScat (cl e inbox : Nat) (s : State) : Result :=
  let fd := s.found
  .next (s.runCopy cl e inbox 0x13 fun c =>
    let w := c.msg.word
    let row := bits (w 6) 0 32
    match (s.wordsBad c.msg [3, 4] [5]).or (if tileWordOk (w 6) then none else some (8, 6)) with
    | some x => s.endCopy cl e inbox c x
    | none => s.withIndex cl e inbox c row fun s c i => s.packet cl e inbox c ⟨bits (w 6) 32 32, row,
      4, fun r => moved (w 4) (r * row), 5, fun _ => tileDst (w 5) (i * sextNat (w 7) 64), none⟩ fd)

/-! ### CPY.MCAST (R158) -/

/-- R158, R421: the context of a core that runs a task of the gang that the sender's task belongs to. -/
def State.gangCtx (s : State) (sender : Agent) (core : Nat) : Option Nat :=
  match sender with
  | .seq c =>
    if isMgmt c then none
    else match (s.ctx c).task.gang with
      | none => if core = coreOf c then some c else none
      | some g => ((List.range 4).map (4 * core + ·)).find? fun k => (s.ctx k).run != .idle && (s.ctx k).task.gang == some g
  | _ => none
def State.gangHas (s : State) (sender : Agent) (core : Nat) : Bool := (s.gangCtx sender core).isSome

def Msg.mcastBad (m : Msg) : Option Nat :=
  let a := m.word 4
  if !isPoolAddr a ∨ bits a 40 4 ≠ 0 ∨ paSpace a = 0 ∨ 3 < paSpace a ∨ (if paSpace a = 3 then paOff a else paTid a) ≠ 0 then some 4
  else if bits (m.word 6) 8 24 ≠ 0 ∨ bits (m.word 6) 32 32 = 0 ∨ 2 ^ 20 < bits (m.word 6) 32 32 ∨ bits (m.word 6) 0 8 = 0 then some 6
  else none
/-- The place of the tile at each receiver, or the first error; `.wait` while a ring is not ready. -/
def State.mcastSlots (s : State) (a : Agent) (m : Msg) (n : Nat) : Except (Option (Nat × Nat)) (List (Nat × Nat × List Nat)) :=
  m.receivers.mapM fun (j, core) =>
    match s.poolSpot m.pdom 4 (atCore (m.word 4) core) n with
    | .error x => .error (some x)
    | .ok (.keys l) => .ok (j, core, l)
    | .ok (.ring core tid) => match s.pushSlot a core tid n with
      | .bad => .error (some (8, 4))
      | .wait => .error none
      | .slot l => .ok (j, core, l)

/-- One receiver: the tile, or any subset of its bytes when it fails (log entry 13). -/
def State.mcastOne (s : State) (a : Agent) (m : Msg) (failed : Nat) (data : List Byte) (x : Nat × Nat × List Nat) : State :=
  let ring := paSpace (m.word 4) == 3
  let tid := paTid (m.word 4)
  let s := if ring then s.bindRing a x.2.1 tid else s
  if bits failed x.1 1 = 1 then s.writeSome 2 a (x.2.2.zip data)
  else
    let s := s.write 2 a true (x.2.2.zip data)
    if ring then s.pushed x.2.1 tid else s

def execCpyMcast (cl e inbox failed : Nat) (s : State) : Result :=
  let fd := s.found
  .next (s.runCopy cl e inbox 0x14 fun c =>
    let m := c.msg
    let n := bits (m.word 6) 32 32
    let a : Agent := .eng cl e inbox
    match (s.wordsBad m [3] []).or (m.mcastBad.map fun w => (8, w)) with
    | some x => s.endCopy cl e inbox c x
    | none => match m.receivers.find? fun x => !s.gangHas m.sender x.2 with
      | some x => s.endCopy cl e inbox c (0xB, x.2)
      | none => match s.mcastSlots a m n with
        | .error none => s
        | .error (some x) => s.endCopy cl e inbox c x
        | .ok l => match s.fetchSpot 2 a m.pdom 3 (m.word 3) n fd with
          | (s, .error x) => s.endCopy cl e inbox c x
          | (s, .ok data) =>
            let mask := Nat.land failed (bits (m.word 6) 0 8)
            let good := (l.filter fun x => bits mask x.1 1 == 0).length
            let s := l.foldl (fun s x => s.mcastOne a m mask data x) s
            let c := { c with step := good * n }
            s.putCmd cl e inbox (if mask = 0 then c.ok (good * n) [] else c.fail 0xE mask))

end Sys2Proof.Machine
end

