-- ==== Sys2Proof/Machine/Larder.lean ====
section
/-! DEFINITION. Larder programs (R37, R155, R275, R411 to R417). -/

namespace Sys2Proof.Machine

/-! ### Command words (R275, R413) -/

def lcOpc (w : Nat) : Nat := bits w 58 4
def lcA (w : Nat) : Nat := bits w 32 26
def lcB (w : Nat) : Nat := bits w 0 30
/-- Markers, an assigned opcode, undefined fields 0. -/
def lcDefined (w : Nat) : Bool :=
  let a := lcA w
  let b := lcB w
  bits w 62 2 == 3 && bits w 30 2 == 3 && match lcOpc w with
    | 0 => a == 0 && b == 0
    | 1 => a == 0 && b < 2 ^ 24
    | 2 => a == 0 && b == 0
    | 3 => true
    | 4 => a < 64
    | 5 => bits b 12 2 == 0
    | 6 => bits b 12 2 == 0
    | 7 => a < 64
    | 8 => a < 64
    | 9 => a < 16 && (a < 8 || b == 0)
    | 10 => a < 8
    | 11 => a < 64 && b < 1024
    | 12 => a == 0 && b == 0
    | 13 => a < 2 ^ 14 && bits b 13 3 == 0
    | _ => false

def LCtx.lb (x : LCtx) (n : Nat) : Nat := (nth 0#64 x.base (n % 8)).toNat
def LCtx.setLb (x : LCtx) (n v : Nat) : LCtx :=
  { x with base := setNth ((x.base ++ List.replicate 8 0#64).take 8) (n % 8) (w64 v) }
def LCtx.next (x : LCtx) : LCtx := { x with index := x.index + 1 }

/-! ### Programs -/

def larderEp (ld : Nat) : Nat := 8 + ld
def larderCluster (ld : Nat) : Nat := if ld < 32 then ld / 4 else ld - 32
def larderGroup (ld : Nat) : Nat := 256 + larderCluster ld

/-- R239: a Larder record. -/
def State.larderNote (s : State) (ld i : Nat) (x : LCtx) (target word bytes : Nat) : State :=
  match x.msg with
  | none => s
  | some m => s.noteIf 1 9 (32 * larderCluster ld) (0x80 + ld) m.pdom m.lid
      [pack [(x.index % 256, 8), (i, 0)], w64 target, w64 word, w64 bytes]

/-- R414, R416: the reply; the context becomes `y`. -/
def State.larderEnd (s : State) (ld i : Nat) (x y : LCtx) (word : W64) : State :=
  match x.msg with
  | none => s
  | some m => (((s.larderNote ld i x 0 word.toNat x.written).setLdCtx ld i y).replyTo (larderEp ld) 0 (.larder ld i) m (m.word 2)
      word []).opDone m
/-- R416, R417: ended by error: the registers show where and why. -/
def State.larderFail (s : State) (ld i : Nat) (x : LCtx) (cause detail : Nat) : State :=
  s.larderEnd ld i x { index := x.index, pdom := x.pdom, tcore := x.tcore, state := 5, cause := cause } (replyErr cause detail)
/-- An error of the current command. -/
def State.larderBad (s : State) (ld i : Nat) (x : LCtx) (cause : Nat) : State := s.larderFail ld i x cause x.index
/-- An operand that does not reach memory: a fault, or a bad operand under the command's index. -/
def State.larderMiss (s : State) (ld i : Nat) (x : LCtx) (e : Nat × Nat) : State :=
  s.larderFail ld i x e.1 (if e.1 = 8 then x.index else e.2)

/-- R412, R416, R417: the current command of a running program; a kill, a failed access, or an index past the last
command ends it first. -/
def State.larderStep (s : State) (ld i : Nat) (f : LCtx → Nat → State) : State :=
  let x := s.ldCtx ld i
  if x.msg.isNone then s
  else if x.kill ∧ x.pos = 0 then s.larderBad ld i x 0xB
  else match x.lost with
    | some e => s.larderFail ld i x e.1 e.2
    | none => match x.prog[x.index]? with
      | none => s.larderBad ld i x 1
      | some w => f x w.toNat
/-- A defined command of one opcode, issued by a context that is ready. -/
def State.larderCmd (s : State) (ld i opc : Nat) (f : LCtx → Nat → Nat → State) : State :=
  s.larderStep ld i fun x w =>
    if x.state = 1 ∧ lcOpc w = opc ∧ lcDefined w = true then f x (lcA w) (lcB w) else s

/-- R411, R417: a fault while copying ends the program in the context that it has taken. -/
def State.progFail (s : State) (ld i inbox : Nat) (x : LCtx) (e : Nat × Nat) : State :=
  (s.setCmd (inboxKey (larderEp ld) 0 inbox) none).larderFail ld i x e.1 e.2
/-- R411: the next LAUNCH that the Larder has taken starts in a free context. -/
def execLarderLaunch (ld : Nat) (s : State) : Result :=
  let fd := s.found
  .next (s.unitCmd (larderEp ld) 0x50 fun inbox c =>
    let m := c.msg
    let bad (x : Nat × Nat) : State := s.putCmd (larderEp ld) 0 inbox (c.fail x.1 x.2)
    let tcore := bits (m.word 4) 16 8
    if m.word 3 % 8 ≠ 0 then bad (8, 3)
    else if !s.runsTask tcore m.pdom then bad (0xB, tcore)
    else match s.freeLdCtx ld with
      | none => s
      | some i =>
        let n := bits (m.word 4) 0 10 + 1
        let start : LCtx := {
          base := nth 0#64 m.words 5 :: List.replicate 7 0#64
          pdom := m.pdom
          tcore := tcore
          rmask := bits (m.word 4) 32 32
          state := 1
          cause := (s.ldCtx ld i).cause
          msg := some m }
        match s.rangeKeys (larderGroup ld) m.pdom 0 2 (m.word 3) (8 * n) with
        | (s, .error x) => s.progFail ld i inbox start x
        | (s, .ok keys) => match (s.askFar (.larder ld i) keys).meets fd (m.word 3 + ·) keys with
          | (s, some x) => s.progFail ld i inbox start x
          | (s, none) =>
          let l := s.bytesFor 4 keys
          (s.setCmd (inboxKey (larderEp ld) 0 inbox) none).setLdCtx ld i { start with
            prog := (List.range n).map fun j => wordOf ((l.drop (8 * j)).take 8) })

def execLarderUndefinedCommand (ld i : Nat) (s : State) : Result :=
  .next (s.larderStep ld i fun x w => if lcDefined w then s else s.larderBad ld i x 1)

/-! ### Control (R413) -/

def execLnop (ld i : Nat) (s : State) : Result := .next (s.larderCmd ld i 0 fun x _ _ => s.setLdCtx ld i x.next)
def execLloop (ld i : Nat) (s : State) : Result :=
  .next (s.larderCmd ld i 1 fun x _ b =>
    if 4 ≤ x.loops.length then s.larderBad ld i x 1
    else s.setLdCtx ld i { x.next with loops := (x.index + 1, b + 1) :: x.loops })
def execLend (ld i : Nat) (s : State) : Result :=
  .next (s.larderCmd ld i 2 fun x _ _ => match x.loops with
    | [] => s.larderBad ld i x 1
    | (start, left) :: t =>
      if 1 < left then s.setLdCtx ld i { x with index := start, loops := (start, left - 1) :: t }
      else s.setLdCtx ld i { x.next with loops := t })
def execLbase (ld i : Nat) (s : State) : Result :=
  .next (s.larderCmd ld i 3 fun x a b =>
    s.setLdCtx ld i (x.next.setLb (a % 8) (wrapInt (sextNat (a / 8 * 2 ^ 30 + b) 53) 64)))
def execLadd (ld i : Nat) (s : State) : Result :=
  .next (s.larderCmd ld i 4 fun x a b =>
    s.setLdCtx ld i (x.next.setLb (a % 8) (wrapInt ((x.lb (a / 8) : Int) + sextNat b 30) 64)))
/-- Condition codes 0 to 4; none for the others. -/
def lbrTaken (cond v : Nat) : Option Bool :=
  match cond with
  | 0 => some true
  | 1 => some (v == 0)
  | 2 => some (v != 0)
  | 3 => some (2 ^ 63 ≤ v)
  | 4 => some (v < 2 ^ 63)
  | _ => none
def execLbr (ld i : Nat) (s : State) : Result :=
  .next (s.larderCmd ld i 11 fun x a b => match lbrTaken (a / 8) (x.lb (a % 8)) with
    | none => s.larderBad ld i x 1
    | some t =>
      if x.prog.length ≤ b then s.larderBad ld i x 1
      else s.setLdCtx ld i (if t then { x with index := b } else x.next))

/-! ### Pushes (R414) -/

/-- Bytes of the Larder's own slice at a virtual address; the error otherwise. A pool address names none of them. -/
def State.ownKeys (s : State) (ld pdom acc a n : Nat) : State × Except (Nat × Nat) (List Nat) :=
  if isPoolAddr a then (s, .error (8, 0)) else
  match s.rangeKeys (larderGroup ld) pdom acc (n / 65536 + 2) a n with
  | (s, .error e) => (s, .error e)
  | (s, .ok l) => if l.all fun k => isLocal k && ownerOf k == larderEp ld then (s, .ok l) else (s, .error (8, 0))
/-- Rows of the own slice, one after another. -/
def State.ownRows (s : State) (ld pdom n : Nat) : List Nat → State × Except (Nat × Nat) (List (List Nat))
  | [] => (s, .ok [])
  | a :: t => match s.ownKeys ld pdom 0 a n with
    | (s, .error e) => (s, .error e)
    | (s, .ok keys) => match s.ownRows ld pdom n t with
      | (u, .error e) => (u, .error e)
      | (u, .ok r) => (u, .ok (keys :: r))

/-- R146: the rings that are bound to a stream. -/
def State.boundRings (s : State) (a : Agent) : List (Nat × Nat) :=
  s.mem.rings.filterMap fun e => if e.2.bound == some a then some (e.1 / 256, e.1 % 256) else none
/-- R412: a context binds at most four rings. -/
def State.mayBind (s : State) (ld i : Nat) (rings : List (Nat × Nat)) : Bool :=
  (s.boundRings (.larder ld i) ++ rings).dedup.length ≤ 4
/-- Bytes of a slot of a ring; 0 when the entry is no ring. -/
def State.slotSize (s : State) (core tid : Nat) : Nat :=
  match ringShape (s.tid core tid) with
  | some (T, _, _, _, _) => T
  | none => 0

/-- The address of byte `n` of rows of `w` bytes. -/
def rowAddr (rows : List Nat) (w n : Nat) : Nat := nth 0 rows (n / w) + n % w
/-- R414: the tile of a push from the keys of its rows, each row padded with zeros to T / rows. -/
def State.tileFrom (s : State) (T : Nat) (rows : List (List Nat)) : List Byte :=
  rows.flatMap fun r => s.bytesFor 4 r ++ List.replicate (T / rows.length - r.length) 0#8
def tileFits (len rows T : Nat) : Bool := 1 ≤ len && T % rows == 0 && T / rows % 16 == 0 && 16 * len ≤ T / rows

/-- The next push of a context into rings of one slot size: an error, a wait, or the slots. -/
def State.pushAll (s : State) (a : Agent) (T : Nat) (rings : List (Nat × Nat)) : Push × List (List Nat) :=
  let l := rings.map fun r => s.pushSlot a r.1 r.2 T
  if l.contains .bad then (.bad, [])
  else if l.contains .wait then (.wait, [])
  else (.slot [], l.map fun p => match p with | .slot k => k | _ => [])
/-- A tile written into a slot, and the push counted. -/
def State.pushTile (s : State) (ld i : Nat) (ring : Nat × Nat) (keys : List Nat) (data : List Byte) : State :=
  ((s.bindRing (.larder ld i) ring.1 ring.2).write 4 (.larder ld i) true (keys.zip data)).pushed ring.1 ring.2

/-- The pool address of a ring entry (R410). -/
def ringAddr (core tid : Nat) : Nat := 0xFE * 2 ^ 56 + core * 2 ^ 48 + 3 * 2 ^ 44 + tid * 2 ^ 32
/-- LPUSH and LPUSHM, into the rings of one or several cores. -/
def State.larderPush (s : State) (ld i : Nat) (x : LCtx) (a b : Nat) (cores : List Nat) (fd : Found) : State :=
  let tid := bits a 3 8
  let len := bits a 11 15
  let rows := bits b 0 12 + 1
  let rings := cores.map fun c => (c, tid)
  let T := s.slotSize (nth 0 cores 0) tid
  if cores.isEmpty then s.setLdCtx ld i x.next
  else if !tileFits len rows T ∨ !s.mayBind ld i rings then s.larderBad ld i x 8
  else match s.pushAll (.larder ld i) T rings with
    | (.bad, _) => s.larderBad ld i x 8
    | (.wait, _) => s.setLdCtx ld i { x with state := 2 }
    | (.slot _, slots) =>
      let addrs := (List.range rows).map fun r => (x.lb (a % 8) + 16 * bits b 14 16 * r) % 2 ^ 64
      match s.ownRows ld x.pdom (16 * len) addrs with
      | (s, .error e) => s.larderMiss ld i x e
      | (s, .ok l) => match s.meets fd (rowAddr addrs (16 * len)) l.flatten with
        | (s, some e) => s.larderMiss ld i x e
        | (s, none) =>
        let data := s.tileFrom T l
        let s := (rings.zip slots).foldl (fun s e => s.pushTile ld i e.1 e.2 data) s
        (s.larderNote ld i x (ringAddr (nth 0 cores 0) tid) 0 (cores.length * T)).setLdCtx ld i
          { x with written := x.written + cores.length * T }.next

def execLpush (ld i : Nat) (s : State) : Result :=
  let fd := s.found
  .next (s.larderCmd ld i 5 fun x a b =>
    if !s.runsTask x.tcore x.pdom then s.larderFail ld i x 0xB x.tcore
    else s.larderPush ld i x a b [x.tcore] fd)
/-- Receivers of LPUSHM. -/
def LCtx.receivers (x : LCtx) : List Nat :=
  ((List.range 32).filter fun n => bits x.rmask n 1 == 1).map fun n => x.tcore / 32 * 32 + n
/-- R416: a receiver fails that runs no task of the domain, or that `failed` has a bit for, by core index in the cluster;
then no receiver takes the tile. -/
def execLpushm (ld i failed : Nat) (s : State) : Result :=
  let fd := s.found
  .next (s.larderCmd ld i 6 fun x a b =>
    match x.receivers.filter fun c => !s.runsTask c x.pdom || bits failed (c % 32) 1 == 1 with
    | [] => s.larderPush ld i x a b x.receivers fd
    | l => s.larderFail ld i x 0xE (l.foldl (fun n c => n + 2 ^ (c % 32)) 0))

/-- R414: rows gathered by indices into a slot. -/
def execLgath (ld i : Nat) (s : State) : Result :=
  let fd := s.found
  .next (s.larderCmd ld i 13 fun x a b =>
    let tid := bits a 6 8
    let rb := bits b 0 13
    let T := s.slotSize x.tcore tid
    let count := T / (16 * rb)
    let ring := (x.tcore, tid)
    if !s.runsTask x.tcore x.pdom then s.larderFail ld i x 0xB x.tcore
    else if rb = 0 ∨ 4096 < rb ∨ T = 0 ∨ T % (16 * rb) ≠ 0 ∨ !s.mayBind ld i [ring] then s.larderBad ld i x 8
    else match s.pushSlot (.larder ld i) x.tcore tid T with
      | .bad => s.larderBad ld i x 8
      | .wait => s.setLdCtx ld i { x with state := 2 }
      | .slot keys => match s.ownKeys ld x.pdom 0 (x.lb (a % 8)) (4 * count) with
        | (s, .error e) => s.larderMiss ld i x e
        | (s, .ok ik) =>
          let il := s.bytesFor 4 ik
          let rows := (List.range count).map fun j =>
            (x.lb (bits a 3 3) + 16 * bits b 16 14 * leNat ((il.drop (4 * j)).take 4)) % 2 ^ 64
          match s.ownRows ld x.pdom (16 * rb) rows with
          | (s, .error e) => s.larderMiss ld i x e
          | (s, .ok l) =>
            let va (n : Nat) : Nat := if n < ik.length then x.lb (a % 8) + n else rowAddr rows (16 * rb) (n - ik.length)
            match s.meets fd va (ik ++ l.flatten) with
            | (s, some e) => s.larderMiss ld i x e
            | (s, none) =>
            let y := ({ x with written := x.written + T }).setLb (a % 8) (x.lb (a % 8) + 4 * count)
            ((s.pushTile ld i ring keys (s.bytesFor 4 l.flatten)).larderNote ld i x (ringAddr x.tcore tid) 0 T).setLdCtx ld i y.next)

/-! ### Fills and spills (R413); 64 bytes an event (log entry 64) -/

/-- Source keys and destination of `n` bytes of a fill or spill from byte `o` on; the other end lies anywhere in memory. -/
def State.copyEnds (s : State) (ld : Nat) (x : LCtx) (src d o n : Nat) (fill : Bool) :
    State × Except (Nat × Nat) (List Nat × Spot) :=
  let g := larderGroup ld
  let at_ (a : Nat) : Nat := (a + o) % 2 ^ 64
  match if fill then s.ownKeys ld x.pdom 0 (at_ src) n else s.fetchKeys g x.pdom 0 (at_ src) n with
  | (s, .error e) => (s, .error e)
  | (s, .ok from_) =>
    match if fill then s.spot g x.pdom 0 (if isPoolAddr d && paSpace d == 3 then d else at_ d) n 1
          else match s.ownKeys ld x.pdom 1 (at_ d) n with
            | (s, .error e) => (s, .error e)
            | (s, .ok l) => (s, .ok (.keys l)) with
    | (s, .error e) => (s, .error e)
    | (s, .ok p) => (s, .ok (from_, p))
/-- R410, R414: where a copy of `total` bytes goes on from byte `o`: its keys, or the next slot of a ring. -/
def State.copyInto (s : State) (ld i total o : Nat) : Spot → Push × Option (Nat × Nat)
  | .keys l => (.slot l, none)
  | .ring core tid =>
    if !s.mayBind ld i [(core, tid)] then (.bad, none)
    else match s.pushSlot (.larder ld i) core tid total with
      | .slot l => (.slot (l.drop o), some (core, tid))
      | p => (p, none)
/-- R413, R416: the next 64 bytes of a fill or spill. The first event finds every error of the whole, before any effect. -/
def State.larderCopy (s : State) (ld i : Nat) (x : LCtx) (a n : Nat) (fill : Bool) (fd : Found) : State :=
  let d := x.lb (a % 8)
  let src := x.lb (a / 8)
  let first := x.pos = 0
  let who : Agent := .larder ld i
  if ld < 32 then s.larderBad ld i x 2
  else if n = 0 ∨ d % 64 ≠ 0 ∨ src % 64 ≠ 0 then s.larderBad ld i x 8
  else match s.copyEnds ld x src d x.pos (if first then 64 * n else 64) fill with
  | (s, .error e) => s.larderMiss ld i x e
  | (s, .ok (from_, p)) => match s.copyInto ld i (64 * n) x.pos p with
    | (.bad, _) => s.larderBad ld i x 8
    | (.wait, _) => s.setLdCtx ld i { x with state := 2 }
    | (.slot to_, ring) =>
      let va (k : Nat) : Nat := if k < from_.length then src + x.pos + k else d + x.pos + (k - from_.length)
      match s.meets (if first then fd else .good) va (from_ ++ to_) with
      | (s, some e) => s.larderMiss ld i x e
      | (s, none) =>
        let done := 64 * n ≤ x.pos + 64
        let from_ := from_.take 64
        let to_ := to_.take 64
        let s := match ring with
          | some r => s.bindRing who r.1 r.2
          | none => s
        let s := (s.askFar who from_).putKeys 4 who true (to_.zip (s.bytesFor 4 from_))
        let s := match ring with
          | some r => if done then s.pushed r.1 r.2 else s
          | none => s
        let y := { x with pos := x.pos + 64, written := x.written + 64, devs := (x.devs ++ devsOf from_ ++ devsOf to_).dedup }
        if done then (s.larderNote ld i x d 0 (64 * n)).setLdCtx ld i { y.next with pos := 0 }
        else s.setLdCtx ld i y
def execLfill (ld i : Nat) (s : State) : Result := .next (s.larderCmd ld i 7 fun x a b => s.larderCopy ld i x a b true s.found)
def execLspill (ld i : Nat) (s : State) : Result := .next (s.larderCmd ld i 8 fun x a b => s.larderCopy ld i x a b false s.found)

/-! ### Stamps, waits, the end (R414, R415) -/

/-- Every write of a context acknowledged. -/
def State.larderQuiet (s : State) (ld i : Nat) : Bool := s.acknowledged (.larder ld i)

/-- R415: the word that a stamp or a wait names. -/
def State.stampKey (s : State) (ld : Nat) (x : LCtx) (a acc : Nat) : State × Except (Nat × Nat) Nat :=
  if a % 8 ≠ 0 then (s, .error (8, 0))
  else match s.spot (larderGroup ld) x.pdom 0 a 8 acc with
    | (s, .error e) => (s, .error e)
    | (s, .ok (.ring _ _)) => (s, .error (8, 0))
    | (s, .ok (.keys l)) => (s, .ok (nth 0 l 0))
/-- R217: the stamp releases every earlier write of the context; it waits where its memory cannot take it. -/
def State.writeStamp (s : State) (ld i k v : Nat) : State :=
  let a : Agent := .larder ld i
  let s := s.releaseAll (· == a)
  let l := bytesAt k (leBytes v 8)
  if !isLocal k then s.issue { by_ := a, path := 4, kind := .vstore, dev := some (remoteDev k), ver := v, eng := true, wr := l }
  else if (s.wordVer k).newest < v ∧ (s.versionFull k || s.held) = true then
    s.issue { by_ := a, path := 4, kind := .vstore, ver := v, eng := true, wr := l,
              heldAt := if s.versionFull k then some s.clk.fab else none }
  else (s.storeVersion 4 a true v l).releaseAll (· == a)
def execLstamp (ld i : Nat) (s : State) : Result :=
  .next (s.larderCmd ld i 9 fun x a b =>
    if !s.larderQuiet ld i then s.setLdCtx ld i { x with state := 4 }
    else match s.stampKey ld x (x.lb (a % 8)) 1 with
      | (s, .error e) => s.larderMiss ld i x e
      | (s, .ok k) => match s.meets s.found (x.lb (a % 8) + ·) (keyRange k 8) with
        | (s, some e) => s.larderMiss ld i x e
        | (s, none) =>
        let sc := (x.sc + 1) % 2 ^ 48
        let v := if a / 8 = 1 then sc else b
        let y := { x with sc := if a / 8 = 1 then sc else x.sc, devs := (x.devs ++ devsOf [k]).dedup }
        ((s.writeStamp ld i k v).larderNote ld i x (x.lb (a % 8)) v 0).setLdCtx ld i y.next)

/-- R203, R415: whether the awaited version exists; another device's word answers when it will. -/
def State.hasVersion (s : State) (k v : Nat) : Bool := !isLocal k || v ≤ (s.wordVer k).newest
def execLwaitv (ld i : Nat) (s : State) : Result :=
  .next (s.larderCmd ld i 10 fun x a b => match s.stampKey ld x (x.lb (a % 8)) 0 with
    | (s, .error e) => s.larderMiss ld i x e
    | (s, .ok k) =>
      if isLocal k && s.hasVersion k b then s.setLdCtx ld i x.next
      else ((devsOf [k]).foldl (fun s d => s.emit
          { op := .read, src := (Agent.larder ld i).source, dst := .dev d, job := s.xl.jobid.toNat, rd := farOf d (keyRange k 8)
            ver := some b }) s).setLdCtx ld i { x with state := 3, devs := (x.devs ++ devsOf [k]).dedup })

def execLhalt (ld i : Nat) (s : State) : Result :=
  .next (s.larderCmd ld i 12 fun x _ _ =>
    if s.larderQuiet ld i then s.larderEnd ld i x { cause := x.cause } (replyOk (x.written % 2 ^ 48))
    else s.setLdCtx ld i { x with state := 4 })

/-- R412: what a context waits for has come; a version of another device is taken as arrived. -/
def State.larderReady (s : State) (ld i : Nat) (x : LCtx) (w : Nat) : State :=
  if x.state = 2 ∧ lcOpc w = 7 then match s.poolSpot x.pdom 0 (x.lb (lcA w % 8)) 1 with
    | .ok (.ring core tid) =>
      if s.pushSlot (.larder ld i) core tid (64 * lcB w) = .wait then s else s.setLdCtx ld i { x with state := 1 }
    | _ => s.setLdCtx ld i { x with state := 1 }
  else if x.state = 2 then
    let cs := if lcOpc w = 6 then x.receivers else [x.tcore]
    let tid := if lcOpc w = 13 then bits (lcA w) 6 8 else bits (lcA w) 3 8
    match s.pushAll (.larder ld i) (s.slotSize (nth 0 cs 0) tid) (cs.map fun c => (c, tid)) with
    | (.wait, _) => s
    | _ => s.setLdCtx ld i { x with state := 1 }
  else if x.state = 3 then match s.stampKey ld x (x.lb (lcA w % 8)) 0 with
    | (s, .error e) => s.larderMiss ld i x e
    | (s, .ok k) =>
      if !isLocal k then s.setLdCtx ld i { x.next with state := 1 }
      else if s.hasVersion k (lcB w) then s.setLdCtx ld i { x with state := 1 } else s
  else if x.state = 4 ∧ s.larderQuiet ld i = true then s.setLdCtx ld i { x with state := 1 }
  else s
def execLarderWaitRelease (ld i : Nat) (s : State) : Result := .next (s.larderStep ld i fun x w => s.larderReady ld i x w)

end Sys2Proof.Machine
end

