-- ==== Sys2Proof/Machine/Launch.lean ====
section
/-! DEFINITION. The launch engine's LAUNCH and launch table, the joins that task queue units apply, and monitors (R76, R77,
R87, R91, R92, R94). -/

namespace Sys2Proof.Machine

/-- Endpoint of the launch engine. -/
def launchEp : Nat := 55

/-! ### Operands of LAUNCH (R76) -/

def Msg.lCount (m : Msg) : Nat := bits (m.word 5) 32 16
def Msg.lCmask (m : Msg) : Nat := bits (m.word 6) 56 8
def Msg.lPrio (m : Msg) : Nat := bits (m.word 6) 53 3
def Msg.lMaxPrio (m : Msg) : Nat := bits (m.word 6) 50 3
def Msg.lGang (m : Msg) : Nat := bits (m.word 6) 44 6
/-- The first operand word of a LAUNCH that breaks its limits; `top` is the domain's highest priority. -/
def Msg.launchBad (m : Msg) (top : Nat) : Option Nat :=
  if !canonical (nth 0#64 m.words 3) || m.word 3 % 4 != 0 then some 3
  else if !canonical (nth 0#64 m.words 4) || m.word 4 % 64 != 0 then some 4
  else if m.lCount = 0 then some 5
  else if m.lCmask = 0 ∨ m.lMaxPrio < m.lPrio ∨ top < m.lMaxPrio ∨ (gangCores m.lGang).isNone = true then some 6
  else none

/-- R77: the first id from `i` on that is not held; fuel is the table's size and one more. -/
def freeLid (held : SMap (Option Launch)) : Nat → Nat → Nat
  | 0, i => i % 65536
  | fuel + 1, i => if (SMap.get none held (i % 65536)).isNone then i % 65536 else freeLid held fuel (i + 1)
/-- R77: the cluster of record k: the k-th set bit of CMASK, modulo their number. -/
def maskCluster (cmask k : Nat) : Nat :=
  let l := (List.range 8).filter fun c => bits cmask c 1 == 1
  nth 0 l (k % l.length)
/-- R77: the predecessor that a LAUNCH names: held, with the same PDOM. -/
def State.predOf (s : State) (m : Msg) : Option Nat :=
  let a := bits (m.word 6) 25 16
  if bits (m.word 6) 41 1 = 0 then none
  else match s.launchOf a with
    | some p => if p.pdom = m.pdom then some a else none
    | none => none

/-- R77, R94: a launch enters the table. -/
def State.enterLaunch (s : State) (i : Nat) (c : Cmd) : State :=
  let m := c.msg
  let lid := freeLid s.sch.launches 1025 s.sch.nextLid
  let l : Launch := {
    pdom := m.pdom
    cmask := BitVec.ofNat 8 m.lCmask
    u := m.lCount
    e := m.lCount
    pred := s.predOf m
    donerep := bits (m.word 6) 42 1 == 1
    msg := m
    joined := (s.predOf m).isNone }
  ((s.setLaunch lid (some l)).updSch fun q => { q with nextLid := (lid + 1) % 65536 }).putCmd launchEp 0 i
    { c with step := 1, result := lid }

/-- R77, R83: record k of a launch. -/
def launchRec (m : Msg) (lid k : Nat) (pred : Bool) : Rec where
  code := nth 0#64 m.words 3
  frame := w64 (m.word 4 + 64 * bits (m.word 5) 48 16 * k)
  join := pred.toNat
  pdom := m.pdom
  lid := lid
  prio := m.lPrio
  maxPrio := m.lMaxPrio
  gang := m.lGang
  keep := bits (m.word 6) 43 1 == 1
  fab := true
  notrig := false
  st := .pending

/-- R77: the next record is written, when its cluster is active and has a slot; the reply follows the last. -/
def State.launchNext (s : State) (i : Nat) (c : Cmd) : State :=
  let m := c.msg
  match s.launchOf c.result with
  | none => s.putCmd launchEp 0 i (c.ok c.result [])
  | some l =>
    let cl := maskCluster m.lCmask l.written
    if !s.clActive cl then s
    else match s.findSlot cl with
      | none => s
      | some slot =>
        let h := handleOf cl (s.gen cl slot) slot
        let s := (s.writeRec cl slot (launchRec m c.result l.written l.pred.isSome)).setLaunch c.result (some
          { l with written := l.written + 1, handles := if l.pred.isSome then l.handles ++ [h] else [] })
        if l.written + 1 = m.lCount then s.putCmd launchEp 0 i (c.ok c.result []) else s

/-- One step of the LAUNCH in execution: its checks and its entry, then a record each time. -/
def execLaunch (s : State) : Result :=
  .next (s.unitCmd launchEp 0x50 fun i c =>
    if c.step = 0 then
      let top := match s.dom c.msg.pdom with | some d => d.maxPrio | none => 0
      match c.msg.launchBad top with
      | some w => s.putCmd launchEp 0 i (c.fail 8 w)
      | none => s.enterLaunch i c
    else s.launchNext i c)

/-! ### The table (R77, R94) -/

/-- Launches whose predecessor a launch is. -/
def State.successors (s : State) (lid : Nat) : List (Nat × Launch) :=
  s.sch.launches.filterMap fun e => match e.2 with
    | some l => if l.pred = some lid then some (e.1, l) else none
    | none => none

/-- R94: at U = 0 the launch engine joins the records of every successor that is written whole. -/
def execSuccessorRelease (lid : Nat) (s : State) : Result :=
  .next (match s.launchOf lid with
    | none => s
    | some p =>
      if p.u ≠ 0 then s
      else (s.successors lid).foldl (fun s x =>
        if x.2.joined || x.2.written != x.2.msg.lCount then s
        else (x.2.handles.foldl (fun s h => s.sendJoin h none) s).setLaunch x.1 (some { x.2 with joined := true })) s)

/-- R77: the LAUNCH of an id is over, and no reply of the launch engine is still on its way. -/
def State.firstReplied (s : State) (lid : Nat) : Bool :=
  (s.msg.cmds.all fun e => e.1 / 4096 != launchEp || e.2.all fun c => c.msg.opc != 0x50 || c.step == 0 || c.result != lid) &&
  s.mem.reqs.all fun e => e.2.all fun r => !r.reply || r.applied || match r.by_ with
    | .eng ep _ _ => ep != launchEp
    | _ => true
/-- R77: the second reply, with result 0 at the next version; it follows the first. -/
def execDonerepReply (lid : Nat) (s : State) : Result :=
  .next (match s.launchOf lid with
    | none => s
    | some l =>
      if l.e = 0 ∧ l.donerep = true ∧ l.replied = false ∧ s.firstReplied lid = true then
        (s.setLaunch lid (some { l with replied := true })).replyTo launchEp 0 .launchEngine l.msg (l.msg.word 2 + 1) (replyOk 0) []
      else s)

/-- R77: an entry is freed once every record has ended, its replies are written and no held launch names it. -/
def execLaunchTableEntryFree (lid : Nat) (s : State) : Result :=
  .next (match s.launchOf lid with
    | none => s
    | some l =>
      if l.e = 0 ∧ (l.donerep = false ∨ l.replied = true) ∧ l.preempted = false ∧ (s.successors lid).isEmpty = true then
        s.setLaunch lid none
      else s)

/-! ### Joins and monitors (R87, R91, R92) -/

def State.dropJoin (s : State) (i : Nat) : State := s.updSch fun q => { q with joins := dropNth q.joins i }
/-- R91, R217: one join applied, when its task queue unit is active; a JOIN has released its task's writes. -/
def execJoinApply (i : Nat) (s : State) : Result :=
  .next (match s.sch.joins[i]? with
    | none => s
    | some (h, who) =>
      if !s.clActive (bits h 28 3) then s
      else match who with
        | none => (s.dropJoin i).joinNow h
        | some (c, o) => (((s.dropJoin i).releaseAll (· == .seq c)).joinNow h).updCtx c fun x => { x with
            ops := x.ops.map fun p => if p.id == o then { p with done := true } else p })

/-- R92: a monitor fires once its word holds its version or a later one. -/
def execMonitorFire (i : Nat) (s : State) : Result :=
  .next (match s.sch.monitors[i]? with
    | none => s
    | some m =>
      if m.ver ≤ (s.wordVer m.key).newest then
        (s.updSch fun q => { q with monitors := dropNth q.monitors i }).sendJoin m.handle none
      else s)

end Sys2Proof.Machine
end

