-- ==== Sys2Proof/Machine/Mgmt.lean ====
section
/-! DEFINITION. The management services (R22, R24, R35, R72, R74, R75, R81, R82, R230, R231). -/

namespace Sys2Proof.Machine

/-- A service's end: success with a result or with data, or an error. -/
def State.mgOk (s : State) (inbox : Nat) (c : Cmd) (result : Nat) : State := s.putCmd 54 0 inbox (c.ok result [])
/-- RESULT of a service whose result is data is free (log entry 23). -/
def State.mgData (s : State) (inbox : Nat) (c : Cmd) (data : List Byte) : State :=
  s.putCmd 54 0 inbox (c.ok (Config.dataResult s.clk.tick).toNat data)
def State.mgBad (s : State) (inbox : Nat) (c : Cmd) (cause detail : Nat) : State := s.putCmd 54 0 inbox (c.fail cause detail)

/-- Bytes of a domain read by the management block. -/
def State.mgFetch (s : State) (pdom va n : Nat) (f : Found) : State × Except (Nat × Nat) (List Byte) :=
  match s.rangeKeys 271 pdom 0 (n / 65536 + 2) va n with
  | (t, .error e) => (t, .error e)
  | (t, .ok l) => match (t.askFar .mgmtBlock l).meets f (va + ·) l with
    | (t, some e) => (t, .error e)
    | (t, none) => (t, .ok (t.bytesFor 6 l))

/-! ### Registers -/

def execMgRead (s : State) : Result :=
  .next (s.unitCmd 54 1 fun i c =>
    if c.msg.word 3 % 8 ≠ 0 then s.mgBad i c 8 3
    else if s.regHeld (c.msg.word 3) then s
    else s.mgData i c (leBytes (s.regRead (c.msg.word 3)).toNat 8))
def execMgWrite (s : State) : Result :=
  .next (s.unitCmd 54 2 fun i c =>
    if c.msg.word 3 % 8 ≠ 0 then s.mgBad i c 8 3
    else if s.regHeld (c.msg.word 3) then s
    else (s.regWrite (c.msg.word 3) (nth 0#64 c.msg.words 4) (bits (c.msg.word 5) 0 8)).mgOk i c 0)

/-! ### Domains (R72, R75) -/

/-- Domains that MG.DOMON has made active. -/
def State.domsOn (s : State) : Nat := (s.xl.doms.filter fun e => e.1 != 0).length
def State.setDom (s : State) (pdom : Nat) (d : Option Dom) : State :=
  s.updXl fun x => { x with doms := SMap.set none x.doms pdom d }
/-- R81: entry 0, the root capability of a domain. -/
def State.rootCap (s : State) (pdom : Nat) : State × W64 :=
  let ck := Config.drawCheck s.clk.tick
  (s.setCapE pdom 0 ⟨true, ck, 0, 63#6, none⟩, capHandle pdom 0 ck)

/-- R69, R75: cause 0x0B has no launch id or core number for its detail here, and the detail is 0; entries of an earlier
activation stay as they are (log entry 99). -/
def execMgDomon (s : State) : Result :=
  .next (s.unitCmd 54 3 fun i c =>
    let p := c.msg.word 3
    let root := c.msg.word 4
    let f := c.msg.word 5
    if p = 0 ∨ 0xFFFF ≤ p then s.mgBad i c 8 3
    else if root % 4096 ≠ 0 ∨ 2 ^ 40 ≤ root then s.mgBad i c 8 4
    else if s.domActive p ∨ 256 ≤ s.domsOn then s.mgBad i c 0xB 0
    else
      let s := s.setDom p (some { root := root, maxPrio := bits f 0 3, debug := bits f 3 1 == 1 })
      if bits f 3 1 = 1 then
        let r := s.rootCap p
        r.1.mgData i c (leBytes r.2.toNat 8)
      else s.mgData i c (leBytes 0 8))

/-- R75: records of a domain in the record stores. -/
def State.residentRecs (s : State) (pdom : Nat) : Nat :=
  (s.sch.recs.filter fun e => match e.2 with
    | some r => r.pdom == pdom
    | none => false).length
/-- R75: what keeps a domain busy; the services of the management block are no engine commands. -/
def State.domBusy (s : State) (pdom : Nat) : Bool :=
  0 < s.residentRecs pdom ||
  s.ctxs.any (fun e => e.1 < 1024 && e.2.run != .idle && e.2.task.pdom == pdom) ||
  s.msg.larders.any (fun e => e.2.msg.isSome && e.2.pdom == pdom) ||
  s.msg.cmds.any (fun e => e.1 / 4096 != 54 && match e.2 with
    | some c => c.msg.pdom == pdom
    | none => false) ||
  s.msg.inbox.any (fun e => e.1 / 4096 != 54 && e.2.any fun m => m.pdom == pdom) ||
  s.msg.subs.any (fun x => x.pdom == pdom) ||
  s.sch.preempts.any fun p => p.pdom == pdom

def execMgDomoff (s : State) : Result :=
  .next (s.unitCmd 54 4 fun i c =>
    let p := c.msg.word 3
    if !s.domActive p then s.mgBad i c 0xB 0
    else if s.domBusy p then s.mgBad i c 0xA (Nat.min (s.residentRecs p) (2 ^ 32 - 1))
    else ((s.setDom p none).tlbiNow 1 p 0).mgOk i c 0)

/-! ### Signed objects (R22, R35) -/

/-- R35: DOM.CFG and the key written from a command that passed its checks. -/
def State.domCfgFrom (s : State) (body : List Byte) : State :=
  s.updXl fun x => { x with
    domValid := true
    jobid := Config.domJob body
    devnum := Config.domDev body
    members := Config.domMembers body
    domKey := Config.domKey body }

def execMgDomcfg (s : State) : Result :=
  let fd := s.found
  .next (s.whenUp <| s.unitCmd 54 5 fun i c =>
    let n := c.msg.word 4
    if s.xl.domValid then s.mgBad i c 0xB 0
    else if n < 256 ∨ 2 ^ 24 + 256 < n then (s.failCode 1).mgBad i c 9 1
    else match s.mgFetch 0 (c.msg.word 3) n fd with
      | (s, .error x) => s.mgBad i c x.1 x.2
      | (s, .ok l) =>
        let h := l.take 256
        let body := (l.drop 256).take (bodyLen h)
        match s.pkg.verify (Config.domShape h) h body false with
        | 0 => (s.domCfgFrom body).mgOk i c 0
        | code => (s.failCode code).mgBad i c 9 code)

/-- R22: the image, read in two pieces: header, then the body that it announces. -/
def State.fetchImage (s : State) (va : Nat) (f : Found) : State × Except (Nat × Nat) (List Byte × List Byte) :=
  match s.mgFetch 0 va 256 f with
  | (s, .error x) => (s, .error x)
  | (s, .ok h) => if !bodyLenOk h then (s, .ok (h, [])) else match s.mgFetch 0 (va + 256) (bodyLen h) (foundPast 256 f) with
    | (s, .error x) => (s, .error x)
    | (s, .ok body) => (s, .ok (h, body))
def execMgFwupd (s : State) : Result :=
  let fd := s.found
  .next (s.whenUp <| s.unitCmd 54 6 fun i c =>
    if 1 < c.msg.word 4 then s.mgBad i c 8 4
    else match s.fetchImage (c.msg.word 3) fd with
      | (s, .error x) => s.mgBad i c x.1 x.2
      | (s, .ok (h, body)) =>
        let ty := fieldAt h 4 2
        match s.pkg.verify ((ty == 1 || ty == 2) && imageShape ty h) h body false with
        | 0 =>
          let s := (s.writeFlash (slotKey ty (c.msg.word 4)) (h ++ body)).raiseMinimum
          s.mgOk i c s.pkg.minSvn
        | code => (s.failCode code).mgBad i c 9 code)

/-! ### Attestation (R24, R82) -/

/-- R82: an entry whose holder is neither PDOM 0 nor the domain itself. -/
def State.debugDelegated (s : State) : Bool :=
  s.dbg.caps.any fun e => e.2.live && e.2.holder != 0 && e.2.holder != e.1 / 4096
/-- R24: bytes 0x000 to 0x0E7 of the report. -/
def State.reportBody (s : State) (nonce : List Byte) : List Byte :=
  let p := s.pkg
  leBytes 0x54414753 4 ++ leBytes 1 2 ++
  leBytes (s.debugDelegated.toNat + 2 * p.development.toNat + 4 * p.recovery.toNat) 2 ++ leBytes p.serial.toNat 16 ++
  nonce ++ leBytes p.romMeas.toNat 48 ++ leBytes p.mgmtMeas.toNat 48 ++ leBytes p.fabMeas.toNat 48 ++
  leBytes p.minSvn 4 ++ leBytes p.bootCount.toNat 4 ++ leBytes ((s.clk.up - s.pkg.bootAt) / 20) 8
def State.report (s : State) (nonce : List Byte) : List Byte :=
  let b := s.reportBody nonce
  b ++ leBytes (Config.ecdsaSign s.pkg.aliasKey b).toNat 96
def execMgAttest (s : State) : Result :=
  let fd := s.found
  .next (s.whenUp <| s.unitCmd 54 7 fun i c =>
    match s.mgFetch 0 (c.msg.word 3) 48 fd with
    | (s, .error x) => s.mgBad i c x.1 x.2
    | (s, .ok nonce) => s.mgData i c (s.report nonce))

/-! ### Debug reads and writes (R82, R230, R231); the handle was checked when the message was taken -/

/-- Domain and capability entry that a handle names. -/
def handleDom (m : Msg) : Nat := bits (m.word 3) 48 16
def handleEntry (m : Msg) : Nat := bits (m.word 3) 36 12

def execMgDbgrd (s : State) : Result :=
  let fd := s.found
  .next (s.whenUp <| s.unitCmd 54 8 fun i c =>
    let a := c.msg.word 4
    let n := c.msg.word 5
    if n % 8 ≠ 0 ∨ n < 8 ∨ 32 < n then s.mgBad i c 8 5
    else if inDebugWindow a then
      s.mgData i c ((List.range (n / 8)).flatMap fun j =>
        leBytes (s.dbgRead (handleDom c.msg) (a % 65536 / 8 * 8 + 8 * j)).toNat 8)
    else match s.mgFetch (handleDom c.msg) a n fd with
      | (s, .error x) => s.mgBad i c x.1 x.2
      | (s, .ok l) => s.mgData i c l)
def execMgDbgwr (s : State) : Result :=
  let fd := s.found
  .next (s.whenUp <| s.unitCmd 54 9 fun i c =>
    let a := c.msg.word 4
    let d := nth 0#64 c.msg.words 5
    if inDebugWindow a then
      (s.dbgWrite (handleDom c.msg) (a % 65536 / 8 * 8) d (some (handleEntry c.msg))).mgOk i c 0
    else match s.rangeKeys 271 (handleDom c.msg) 1 2 a 8 with
      | (s, .error x) => s.mgBad i c x.1 x.2
      | (s, .ok l) => match s.meets fd (a + ·) l with
        | (s, some x) => s.mgBad i c x.1 x.2
        | (s, none) => (s.putKeys 6 (.eng 54 0 i) false (l.zip (leBytes d.toNat 8))).mgOk i c 0)

end Sys2Proof.Machine
end

