-- ==== Sys2Proof/Machine/Place.lean ====
section
/-! DEFINITION. Placement, dispatch, age promotion, gangs with their reservations and superstep barriers (R78, R84, R88 to
R90, R96 to R98, R256, R301). -/

namespace Sys2Proof.Machine

/-! ### Where a record may run (R88) -/

/-- The lowest idle context of a core. -/
def State.idleCtx (s : State) (core : Nat) : Option Nat :=
  ((List.range 4).map (4 * core + ·)).find? fun c => (s.ctx c).run == .idle
/-- R84: clusters that a gang in the queue of `cl` takes. -/
def gangClusters (gang cl : Nat) : List Nat :=
  if gang ≤ 32 then [cl] else (List.range (gang - 31)).map fun i => (cl + i) % 8
/-- R98: gangs that hold a barrier in a cluster's node, and at the root. -/
def State.barriersIn (s : State) (cl : Nat) : Nat :=
  (s.sch.gangs.filter fun e => match e.2 with | some g => g.clusters.contains cl | none => false).length
def State.barriersAtRoot (s : State) : Nat :=
  (s.sch.gangs.filter fun e => match e.2 with | some g => g.cross | none => false).length
/-- R88: a gang's barriers are free. -/
def State.barrierFree (s : State) (gang cl : Nat) : Bool :=
  gang == 0 || ((gangClusters gang cl).all (fun c => s.barriersIn c < 16) && (gang ≤ 32 || s.barriersAtRoot < 4))
/-- R234: the record belongs to a stopped group. -/
def State.stoppedRec (s : State) (r : Rec) : Bool :=
  let d := s.dbgOf r.pdom
  d.stopped && d.stopHas { pdom := r.pdom, lid := r.lid, frame := r.frame }

/-- R88, R90, R103, R105: every condition of a core but the reservations of R97. -/
def State.coreFits (s : State) (r : Rec) (core : Nat) : Bool :=
  (s.idleCtx core).isSome && (!r.fab || (s.fab core).isFree) &&
    ((List.range 4).all fun k => let x := s.ctx (4 * core + k); x.run == .idle || x.task.pdom == r.pdom) &&
    !SMap.get false s.mem.withdrawn core && !SMap.get false s.sch.restoring core &&
    !s.drainStop (clusterOf core) && s.clActive (clusterOf core)
/-- R97: every core that becomes placeable for the gang that holds a cluster's reservation is reserved for it. -/
def State.reserveIn (s : State) (cl : Nat) : State :=
  match SMap.get none s.sch.resv cl with
  | none => s
  | some (h, slot, l) => match s.recAt h slot with
    | none => s
    | some g =>
      if s.barrierFree g.gang h then
        let more := (cores cl).filter fun k => !l.contains k && s.coreFits g k
        s.updSch fun q => { q with resv := SMap.set none q.resv cl (some (h, slot, l ++ more)) }
      else s
def State.reserveCores (s : State) : State := (List.range 8).foldl State.reserveIn s
/-- R97: whether a gang record's reservation holds a cluster. -/
def State.holdsResv (s : State) (cl slot c : Nat) : Bool :=
  (SMap.get none s.sch.resv c).any fun x => x.1 == cl && x.2.1 == slot
/-- R97: a reserved core runs only records of a priority higher than the gang's. -/
def State.coreYields (s : State) (cl slot : Nat) (r : Rec) (core : Nat) : Bool :=
  match SMap.get none s.sch.resv (clusterOf core) with
  | none => true
  | some (h, k, l) => (h == cl && k == slot) || !l.contains core || match s.recAt h k with
    | some g => g.prio < r.prio
    | none => true
/-- R88: placeable on a core, for the record in a slot of a cluster. -/
def State.placeable (s : State) (cl slot : Nat) (r : Rec) (core : Nat) : Bool :=
  s.coreFits r core && s.coreYields cl slot r core && s.barrierFree r.gang cl && !s.stoppedRec r && !s.preempted r.lid

/-- Cores on which a record is placeable. -/
def State.placeCores (s : State) (cl slot : Nat) (r : Rec) : List Nat :=
  ((gangClusters r.gang cl).flatMap cores).filter (s.placeable cl slot r)
/-- R96: enough cores for the record as a whole. -/
def State.placeableNow (s : State) (cl slot : Nat) (r : Rec) : Bool :=
  match gangCores r.gang with
  | some n => n ≤ (s.placeCores cl slot r).length
  | none => false

/-! ### The record that a cluster serves next (R88) -/

def State.readyRecs (s : State) (cl : Nat) : List (Nat × Rec) :=
  s.sch.recs.filterMap fun e => match e.2 with
    | some r => if e.1 / 2 ^ 20 = cl ∧ r.st = .ready then some (e.1 % 2 ^ 20, r) else none
    | none => none
/-- The element of a list with the least key. -/
def leastBy {α : Type} (key : α → Nat) : List α → Option α
  | [] => none
  | x :: t => match leastBy key t with
    | none => some x
    | some y => if key x ≤ key y then some x else some y
/-- The highest priority that holds a placeable record; then PDOMs in turn, in ascending order after the one served last;
then the order of the queue. -/
def State.serveNext (s : State) (cl : Nat) : Option (Nat × Rec) :=
  let l := (s.readyRecs cl).filter fun x => s.placeableNow cl x.1 x.2
  let p := l.foldl (fun m x => Nat.max m x.2.prio) 0
  let last := SMap.get 65535 s.sch.rr (8 * cl + p)
  leastBy (fun x => (x.2.pdom + 65535 - last) % 65536 * 2 ^ 64 + x.2.seq) (l.filter fun x => x.2.prio == p)

/-! ### Dispatch (R78, R87, R88, R256) -/

/-- R318 TASK: word 3 of the record at dispatch. -/
def Rec.word3 (r : Rec) : W64 :=
  pack [(r.prio, 61), (r.maxPrio, 58), (r.gang, 52), (r.keep.toNat, 51), (r.fab.toNat, 50), (r.notrig.toNat, 49)]
/-- R78: the pool as the task finds it. -/
def State.poolFor (s : State) (r : Rec) (core : Nat) : State :=
  let alone := (List.range 4).all fun k => (s.ctx (4 * core + k)).run == .idle
  let s := if alone && (!r.keep || SMap.get none s.mem.lastPdom core != some r.pdom) then s.zeroPool core else s
  s.updMem fun m => { m with lastPdom := SMap.set none m.lastPdom core (some r.pdom) }
/-- R88: the context that a record starts. -/
def Rec.start (r : Rec) (now : Nat) (gang : Option Nat) (rank size : Nat) : Ctx where
  run := .running
  pc := r.code
  regs := SMap.set 0#64 [] 30 r.frame
  csr := { cycleBase := now }
  task := { code := r.code, frame := r.frame, recw3 := r.word3, pdom := r.pdom, lid := r.lid, fab := r.fab,
            notrig := r.notrig, gang := gang, rank := rank, size := size }
/-- R256: CODE is checked as a target; a trap ends the task. -/
def State.checkStart (s : State) (c : Nat) : State :=
  let a := (s.ctx c).pc
  let r := s.resolveNow c a 2
  match r.1.targetTrap a r.2 with
  | none => r.1
  | some (cause, d) => r.1.trap c cause d
def State.startTask (s : State) (r : Rec) (core c : Nat) (gang : Option Nat) (rank size : Nat) : State :=
  let s := s.poolFor r core
  let s := s.setCtx c (r.start s.clk.fab gang rank size)
  let s := if r.fab then s.updFab core fun f => { f with holder := some c } else s
  s.checkStart c
/-- R87, R88: the record leaves its slot, and its PDOM has had its turn. -/
def State.takeRec (s : State) (cl slot : Nat) (r : Rec) : State :=
  (s.freeSlot cl slot).updSch fun q => { q with rr := SMap.set 65535 q.rr (8 * cl + r.prio) r.pdom }

/-- A single record is dispatched to an idle context of a core on which it is placeable. -/
def execDispatch (cl core k : Nat) (s : State) : Result :=
  let s := s.reserveCores
  .next (match s.serveNext cl with
    | none => s
    | some (slot, r) =>
      let c := 4 * core + k
      if r.gang = 0 ∧ k < 4 ∧ (s.ctx c).run = .idle ∧ (s.placeCores cl slot r).contains core = true then
        (s.takeRec cl slot r).startTask r core c none 0 1
      else s)

/-- The lowest barrier number that no gang of a node uses. -/
def State.barrierId (s : State) (cross : Bool) (cl : Nat) : Nat :=
  ((List.range 16).find? fun i => !s.sch.gangs.any fun e => match e.2 with
    | some g => g.cross == cross && (cross || g.clusters.contains cl) && g.id == i
    | none => false).getD 0
def State.dropResv (s : State) (cl slot : Nat) : State :=
  s.updSch fun q => { q with resv := q.resv.filter fun e => !e.2.any fun x => x.1 == cl && x.2.1 == slot }
def strictlyRising : List Nat → Bool
  | [] => true
  | [_] => true
  | a :: b :: t => a < b && strictlyRising (b :: t)
/-- Whether a gang's turn has come: it is what its cluster serves next, or holds the reservations of its clusters (R97). -/
def State.gangTurn (s : State) (cl slot : Nat) (r : Rec) : Bool :=
  (match s.serveNext cl with | some x => x.1 == slot | none => false) ||
    ((gangClusters r.gang cl).all (s.holdsResv cl slot) && s.placeableNow cl slot r)

/-- R96, R98: a gang is dispatched whole, members ranked by core number, with a barrier. -/
def State.startGang (s : State) (cl slot : Nat) (r : Rec) (cs : List Nat) : State :=
  let g := s.sch.nextGang
  let ms := cs.map fun core => (core, (s.idleCtx core).getD 0)
  let x : GangSt := {
    members := ms.map Prod.snd
    cross := 32 < r.gang
    clusters := gangClusters r.gang cl
    id := s.barrierId (32 < r.gang) cl }
  let s := ((s.takeRec cl slot r).dropResv cl slot).setGang g (some x)
  let s := s.updSch fun q => { q with nextGang := g + 1 }
  (ms.zip (List.range ms.length)).foldl (fun s m => s.startTask r m.1.1 m.1.2 (some g) m.2 ms.length) s
def execGangDispatch (cl slot : Nat) (cs : List Nat) (s : State) : Result :=
  let s := s.reserveCores
  .next (match s.recAt cl slot with
    | none => s
    | some r =>
      if r.st = .ready ∧ 1 < r.gang ∧ gangCores r.gang = some cs.length ∧ strictlyRising cs = true ∧
          (cs.all (s.placeCores cl slot r).contains) = true ∧ s.gangTurn cl slot r = true then
        s.startGang cl slot r cs
      else s)

/-! ### Age (R89, R97) -/

/-- R89: a record ready for 65,536 network cycles at one priority rises by one level, to the tail there. -/
def execAgePromotion (cl slot : Nat) (s : State) : Result :=
  .next (match s.recAt cl slot with
    | none => s
    | some r =>
      if r.st = .ready ∧ r.since + 65536 ≤ s.clk.time ∧ r.prio < r.maxPrio then
        (s.setRec cl slot (some { r with prio := r.prio + 1, since := s.clk.time, seq := s.sch.nextSeq })).updSch fun q =>
          { q with nextSeq := q.nextSeq + 1 }
      else s)

/-- R97: gang records that have been ready for 65,536 network cycles and take a cluster. -/
def State.agedGangs (s : State) (cl : Nat) : List (Nat × Nat × Rec) :=
  s.sch.recs.filterMap fun e => match e.2 with
    | some r =>
      if r.st = .ready ∧ 1 < r.gang ∧ r.readyAt + 65536 ≤ s.clk.time ∧ (gangClusters r.gang (e.1 / 2 ^ 20)).contains cl = true then
        some (e.1 / 2 ^ 20, e.1 % 2 ^ 20, r)
      else none
    | none => none
/-- R97: the aged gang at the highest priority, the oldest among equals, holds the cluster's reservation. -/
def execGangReservationStart (cl : Nat) (s : State) : Result :=
  .next (match leastBy (fun x => (8 - x.2.2.prio) * 2 ^ 64 + x.2.2.readyAt) (s.agedGangs cl) with
    | none => s
    | some (h, slot, _) =>
      (if s.holdsResv h slot cl then s
       else s.updSch fun q => { q with resv := SMap.set none q.resv cl (some (h, slot, [])) }).reserveIn cl)

/-! ### Superstep barriers (R98, R301) -/

/-- A BAR completes: BARSTAT is written. -/
def State.barDone (s : State) (epoch : Nat) (broken : Bool) (c : Nat) : State :=
  (s.updCtx c fun x => { x with
    ops := x.ops.filter fun o => o.form != .bar
    csr := { x.csr with
      barPending := false
      barEpoch := BitVec.ofNat 16 epoch
      barBroken := x.csr.barBroken || broken } }).blockFollows s c
/-- A BAR arrives once stores, copies and messages are acknowledged. In a task of gang size 1 it completes with its stores, at
a broken barrier at once. -/
def execBarrierArrive (c : Nat) (s : State) : Result :=
  let x := s.ctx c
  .next (if isMgmt c || !x.hasBar then s
    else match x.task.gang.bind s.gangOf with
      | none =>
        if x.barReady Op.inSt then (s.releaseAll (· == .seq c)).barDone (Config.soloEpoch s.clk.tick) false c else s
      | some g => if g.broken then (s.barDone g.epoch true c).barNote (coreOf c) g x.task true true else s.barArrive c)

/-- R98: a hub of the gang's clusters still holds an update that a store of the gang produced and its barrier waits for. -/
def State.hubsBusy (s : State) (g : GangSt) (t : Task) : Bool :=
  s.msg.subs.any fun x => g.clusters.contains x.cl && x.pdom == t.pdom && x.lid == t.lid &&
    (((x.state == 0 || x.state == 3) && !x.pending.isEmpty) || ((x.state == 0 || x.state == 3 || x.state == 4) && !x.sent.isEmpty))
/-- R98, R217: every member has arrived, those that have ended since then included, and the updates are applied: the barrier
releases, and with it every member's writes and those updates. -/
def execBarrierRelease (gi : Nat) (s : State) : Result :=
  .next (match s.gangOf gi with
    | none => s
    | some g =>
      let live := g.members.filter fun c => (s.ctx c).task.gang == some gi
      let t := (s.ctx (nth 0 live 0)).task
      if !g.broken && g.members.all (fun c => g.arrived.contains c && (live.contains c || g.ended.contains c)) && !s.hubsBusy g t then
        let s := s.releaseAll fun a => match a with
          | .seq c => g.members.contains c
          | .eng ep u i => g.clusters.contains ep && u == 3 && 128 ≤ i
          | _ => false
        let s := s.setGang gi (some { g with epoch := g.epoch + 1, arrived := [] })
        let s := live.foldl (State.barDone · (g.epoch % 65536) false ·) s
        g.clusters.foldl (fun s cl => s.barNote (32 * cl) g t true false) s
      else s)

/-- R98: a member has ended without arriving: the barrier breaks, and every outstanding BAR completes. -/
def execBarrierBreak (gi : Nat) (s : State) : Result :=
  .next (match s.gangOf gi with
    | none => s
    | some g =>
      if !g.broken && g.ended.any (fun c => !g.arrived.contains c) then
        let s := s.setGang gi (some { g with broken := true, arrived := [] })
        (g.members.filter fun c => (s.ctx c).task.gang == some gi && (s.ctx c).hasBar).foldl (fun s c => (s.barDone (g.epoch % 65536) true c).barNote (coreOf c) g (s.ctx c).task true true) s
      else s)

end Sys2Proof.Machine
end

