-- ==== Sys2Proof/Machine/Subs.lean ====
section
/-! DEFINITION. Subscription hubs and ring network interfaces (R149 to R154, R421, R422). -/

namespace Sys2Proof.Machine

/-! ### Handles -/

def Sub.handle (x : Sub) : Nat := x.pubEntry * 2 ^ 20 + x.pubCore * 2 ^ 12 + x.subEntry * 2 ^ 8 + x.subCore
def Sub.live (x : Sub) : Bool := x.state != 4
def State.subAt (s : State) (cl h : Nat) : Option Sub := s.msg.subs.find? fun x => x.cl == cl && x.live && x.handle == h
def State.setSub (s : State) (x : Sub) : State :=
  s.updMsg fun g => { g with subs := g.subs.map fun y => if y.live && y.handle == x.handle then x else y }

/-- R154: a change of state, with the status word's next version. -/
def State.subState (s : State) (x : Sub) (st : Nat) : State :=
  let v := x.statusVer + 1
  (s.setSub { x with state := st, statusVer := v }).stamp x.cl 3 (statusAgent x.cl x.handle) 5 x.pdom x.statusVa v (w64 st)

/-! ### SBS.ON (R152, R421) -/

/-- A scratchpad window of `n` bytes that a pool address names. -/
def State.windowOk (s : State) (a n : Nat) : Bool :=
  isPoolAddr a && paSpace a == 1 && bits a 40 4 == 0 && paTid a == 0 && (s.windowKeys (paCore a) 1 (paOff a) n).isSome

/-- The first bad operand word. -/
def State.onBad (s : State) (cl : Nat) (m : Msg) : Option Nat :=
  let len := bits (m.word 5) 0 32
  let lenOk := bits (m.word 5) 32 32 == 0 && len % 64 == 0 && 64 ≤ len && len ≤ 2 ^ 18
  let n := if lenOk then len else 1
  if !s.windowOk (m.word 3) n ∨ clusterOf (paCore (m.word 3)) ≠ cl then some 3
  else if !s.windowOk (m.word 4) n then some 4
  else if !lenOk then some 5
  else if m.word 6 % 8 ≠ 0 then some 6
  else if m.word 7 ≠ 0 then some 7
  else none

/-- The lowest of 16 entries that a test leaves free. -/
def lowest16 (used : Nat → Bool) : Option Nat := (List.range 16).find? fun i => !used i
/-- The publisher entry of a window: one that already names it and feeds fewer than 16 entries, or a free one. -/
def State.pubEntryFor (s : State) (core pub len : Nat) : Option Nat :=
  let mine := s.msg.subs.filter fun x => x.live && x.pubCore == core
  let same (i : Nat) : List Sub := mine.filter fun x => x.pubEntry == i && x.pub == pub && x.len == len
  match (List.range 16).find? fun i => !(same i).isEmpty && (same i).length < 16 with
  | some i => some i
  | none => lowest16 fun i => mine.any fun x => x.pubEntry == i
def State.subEntryFor (s : State) (core : Nat) : Option Nat :=
  lowest16 fun i => s.msg.subs.any fun x => x.live && x.subCore == core && x.subEntry == i

def execSbsOn (cl inbox : Nat) (s : State) : Result :=
  .next (s.runCmd cl 3 inbox 0x30 fun c =>
    let m := c.msg
    let pc := paCore (m.word 3)
    let sc := paCore (m.word 4)
    let bad (x : Nat × Nat) : State := s.putCmd cl 3 inbox (c.fail x.1 x.2)
    match s.onBad cl m with
    | some w => bad (8, w)
    | none =>
      if !s.gangHas m.sender pc then bad (0xB, pc)
      else if !s.gangHas m.sender sc then bad (0xB, sc)
      else match s.pubEntryFor pc (paOff (m.word 3)) (bits (m.word 5) 0 32), s.subEntryFor sc with
        | none, _ => bad (0xB, pc)
        | _, none => bad (0xB, sc)
        | some pe, some se =>
          let x : Sub := {
            cl := cl
            pubEntry := pe
            pubCore := pc
            subEntry := se
            subCore := sc
            pub := paOff (m.word 3)
            sub := paOff (m.word 4)
            len := bits (m.word 5) 0 32
            pdom := m.pdom
            lid := m.lid
            statusVa := m.word 6
            statusVer := 0
            pubCtx := (s.gangCtx m.sender pc).getD 0 }
          ((s.updMsg fun g => { g with subs := g.subs ++ [x] }).subState x 0).putCmd cl 3 inbox (c.ok x.handle []))

/-! ### SBS.OFF, SBS.FLUSH (R154, R421) -/

/-- The entry that a command's handle names, or the refusal. -/
def State.subOf (s : State) (cl : Nat) (m : Msg) : Except (Nat × Nat) Sub :=
  match s.subAt cl (m.word 3) with
  | none => .error (8, 3)
  | some x =>
    if !s.gangHas m.sender x.pubCore then .error (0xB, x.pubCore)
    else if !s.gangHas m.sender x.subCore then .error (0xB, x.subCore)
    else .ok x

/-- Waits for the batches already sent, then frees the entry; one that is BUFFERING has sent nothing that is not
applied. -/
def execSbsOff (cl inbox : Nat) (s : State) : Result :=
  .next (s.runCmd cl 3 inbox 0x31 fun c =>
    match s.subOf cl c.msg with
    | .error e => s.putCmd cl 3 inbox (c.fail e.1 e.2)
    | .ok x =>
      if x.state ≠ 1 ∧ x.sent.isEmpty = false then s
      else (s.updMsg fun g => { g with subs := g.subs.filter fun y => !(y.live && y.handle == x.handle) }).putCmd cl 3 inbox
        (c.ok 0 []))

/-- The agent that applies an entry's batches. -/
def Sub.agent (x : Sub) : Agent := .eng x.cl 3 (128 + x.handle)
/-- R154, R217, R423: the copy follows what has been sent or is held; the reply releases it. -/
def execSbsFlush (cl inbox : Nat) (s : State) : Result :=
  let fd := s.found
  .next (s.runCmd cl 3 inbox 0x32 fun c =>
    match s.subOf cl c.msg with
    | .error e => s.putCmd cl 3 inbox (c.fail e.1 e.2)
    | .ok x =>
      if c.step = 0 then
        if x.state ≠ 3 then
          let keys := (s.windowKeys x.pubCore 1 x.pub x.len).getD []
          let at_ := 0xFE * 2 ^ 56 + x.pubCore * 2 ^ 48 + 2 ^ 44 + x.pub
          match s.meets fd (at_ + ·) keys with
          | (s, some e) => s.putCmd cl 3 inbox (c.fail e.1 e.2)
          | (s, none) =>
            let l := (List.range x.len).zip (keys.map s.byte)
            let y := { x with sent := x.sent ++ [l], pending := [], due := [] }
            (((s.setSub y).batchNote x l).subState y 3).putCmd cl 3 inbox { c with step := 1 }
        else s
      else if x.state = 3 then s
      else (s.releaseAll (· == x.agent)).putCmd cl 3 inbox (c.ok 0 []))

/-! ### Batches (R153, R154) -/

/-- Updates held for a subscriber, in bytes. -/
def Sub.held (x : Sub) : Nat := x.pending.length + x.sent.foldl (fun n l => n + l.length) 0
/-- Lines whose batch is due: every one once 16 are pending. -/
def Sub.dueLines (x : Sub) (now : Nat) : List Nat :=
  if 16 ≤ x.due.length then x.due.map Prod.fst
  else x.due.filterMap fun e => if e.2.any (· ≤ now) then some e.1 else none
/-- The due lines leave as one batch. -/
def Sub.send (x : Sub) (lines : List Nat) : Sub := { x with
  pending := x.pending.filter fun e => !lines.contains (e.1 / 64)
  due := x.due.filter fun e => !lines.contains e.1
  sent := x.sent ++ [x.batch.filter fun e => lines.contains (e.1 / 64)] }
/-- R153, R154: a batch is sent; while BUFFERING it is held, and more than 64 KiB held are discarded. -/
def execSbsBatchSend (i : Nat) (s : State) : Result :=
  .next (match s.msg.subs[i]? with
    | none => s
    | some x =>
      let lines := x.dueLines s.clk.time
      if 2 ≤ x.state ∨ lines.isEmpty = true then s
      else
        let y := x.send lines
        if x.state = 0 then (s.setSub y).batchNote x (y.sent.getLast?.getD [])
        else if 65536 < y.held then s.subState { y with pending := [], due := [], sent := [] } 2
        else s.setSub y)

/-- A batch applied at the subscriber's tile as a masked write on path B, with full bits. -/
def State.applyBatch (s : State) (x : Sub) (l : List (Nat × Byte)) : State :=
  match s.windowKeys x.subCore 1 x.sub x.len with
  | none => s
  | some keys => s.write 5 x.agent true (l.map fun e => (nth 0 keys e.1, e.2))

def execSbsBatchApply (i : Nat) (s : State) : Result :=
  .next (match s.msg.subs[i]? with
    | none => s
    | some x => match x.sent with
      | [] => s
      | l :: rest =>
        if x.state = 1 ∨ x.state = 2 ∨ s.clActive (clusterOf x.subCore) = false then s
        else if x.state = 4 then
          (s.updMsg fun g => { g with
            subs := if rest.isEmpty then dropNth g.subs i else setNth g.subs i { x with sent := rest } }).applyBatch x l
        else
          let y := { x with sent := rest }
          let s := (s.setSub y).applyBatch x l
          if x.state = 3 ∧ rest.isEmpty then s.subState y 0 else s)

/-! ### Message rings (R149 to R151, R422) -/

/-- A header's words. -/
def State.ringHeader (s : State) (keys : List Nat) (age : Nat) : List Nat :=
  (List.range 8).map fun i => leNat (s.readBytes 6 age ((keys.drop (8 * i)).take 8))
/-- R149: CAP and the reserved words. -/
def headerOk (h : List Nat) : Bool :=
  let cap := nth 0 h 2
  2 ≤ cap && cap ≤ 4096 && Nat.land cap (cap - 1) == 0 && (h.drop 3).all (· == 0)

/-- The post: entry, then TAIL as a versioned store (R150). -/
def State.postEntry (s : State) (cl inbox : Nat) (c : Cmd) (k cap tail : Nat) (data : List Byte) : State :=
  let a : Agent := .eng cl 4 inbox
  let s := s.write 6 a true (bytesAt (k + 64 + 64 * (tail % cap)) data)
  let t := tail + 1
  if s.versionFull k ∧ (s.wordVer k).newest < t then
    let r : Req := {
      by_ := a, path := 6, kind := .vstore, ver := t, eng := true, wr := bytesAt k (leBytes t 8), heldAt := some s.clk.fab }
    ((s.releaseAll (· == a)).issue r).putCmd cl 4 inbox
      { c with step := 2, result := s.mem.nextReq, part_ := [BitVec.ofNat 32 t, BitVec.ofNat 32 (t / 2 ^ 32)] }
  else ((s.storeVersion 6 a true t (bytesAt k (leBytes t 8))).releaseAll (· == a)).putCmd cl 4 inbox (c.ok t [])

/-- R150: a post to the same ring that the interface took before is not over. -/
def State.postBehind (s : State) (cl inbox : Nat) (c : Cmd) : Bool :=
  s.msg.cmds.any fun e => e.1 / 64 == 64 * cl + 4 && e.1 != inboxKey cl 4 inbox && e.2.any fun d =>
    !d.finished && d.msg.word 3 == c.msg.word 3 && d.took < c.took
/-- The checks of a post, and the post, or a wait at a full ring since now. -/
def State.tryPost (s : State) (cl inbox : Nat) (c : Cmd) (fd : Found) : State :=
  let m := c.msg
  let h := m.word 3
  let core := paCore h
  let bad (x : Nat × Nat) : State := s.putCmd cl 4 inbox (c.fail x.1 x.2)
  if s.postBehind cl inbox c then s
  else if !isPoolAddr h ∨ paSpace h ≠ 1 ∨ bits h 40 4 ≠ 0 ∨ paTid h ≠ 0 ∨ paOff h % 64 ≠ 0 ∨ clusterOf core ≠ cl then bad (8, 3)
  else if m.word 4 % 64 ≠ 0 then bad (8, 4)
  else if !s.runsTask core m.pdom then bad (0xB, core)
  else match s.windowKeys core 1 (paOff h) 64 with
    | none => bad (8, 3)
    | some keys =>
      let w := s.ringHeader keys (Config.readAge s.clk.tick)
      let tail := nth 0 (s.ringHeader keys 0) 0
      if !headerOk w ∨ (s.windowKeys core 1 (paOff h) (64 + 64 * nth 0 w 2)).isNone = true then bad (8, 3)
      else if wrapInt ((tail : Int) - nth 0 w 1) 64 = nth 0 w 2 then
        s.putCmd cl 4 inbox { c with step := 1, result := s.clk.time }
      else match s.fetchSpot 6 (.eng cl 4 inbox) m.pdom 4 (m.word 4) 64 fd with
        | (s, .error x) => s.putCmd cl 4 inbox (c.fail x.1 x.2)
        | (s, .ok data) => s.postEntry cl inbox c (nth 0 keys 0) (nth 0 w 2) tail data

/-- A TAIL store that waited for a version slot is over, stored or lost (R206). -/
def State.tailDone (s : State) (cl inbox : Nat) (c : Cmd) : State :=
  let t := (nth 0#32 c.part_ 0).toNat + 2 ^ 32 * (nth 0#32 c.part_ 1).toNat
  let past := match s.req c.result with
    | some r => r.applied
    | none => true
  if past then (s.releaseAll (· == .eng cl 4 inbox)).putCmd cl 4 inbox (c.ok t []) else s

def execRingPost (cl inbox : Nat) (s : State) : Result :=
  let fd := s.found
  .next (s.runCmd cl 4 inbox 0x40 fun c =>
    if c.step = 0 then s.tryPost cl inbox c fd else if c.step = 2 then s.tailDone cl inbox c else s)
/-- R151: every 64 network cycles. -/
def execRingHeadReread (cl inbox : Nat) (s : State) : Result :=
  let fd := s.found
  .next (s.runCmd cl 4 inbox 0x40 fun c =>
    if c.step = 1 ∧ c.result + 64 ≤ s.clk.time then s.tryPost cl inbox c fd else s)

end Sys2Proof.Machine
end

