-- ==== Sys2Proof/Machine/Preempt.lean ====
section
/-! DEFINITION. PREEMPT and RESUME: the halt, the save area, the restore (R79, R80, R87, R100 to R103, R131, R154, R423). -/

namespace Sys2Proof.Machine

/-! ### Operands (R79) -/

def Msg.scope (m : Msg) : Nat := bits (m.word 3) 62 2
def Msg.target (m : Msg) : Nat := bits (m.word 3) 0 16
/-- TDOM is read for PDOM 0 only. -/
def Msg.tdom (m : Msg) : Nat := if m.pdom = 0 then bits (m.word 3) 32 16 else m.pdom
/-- R102: bytes of a save area, and the places of a core's parts in it. -/
def saveBytes : Nat := 896 * 2 ^ 20
def coreArea (core : Nat) : Nat := 2 ^ 18 * core
def poolArea (core j : Nat) : Nat := 64 * 2 ^ 20 + 3 * 2 ^ 20 * core + 65536 * j
def ckptArea (core : Nat) : Nat := 832 * 2 ^ 20 + 2 ^ 18 * core
/-- R79, R102: SAVE is a multiple of 64 MiB and its area ends within its 1 GiB page. -/
def saveAligned (a : Nat) : Bool := a % 2 ^ 26 == 0 && a % 2 ^ 30 + saveBytes ≤ 2 ^ 30
/-- R79; bits of TARGET that a SCOPE does not use are operands (log entry 99). -/
def Msg.preemptBad (m : Msg) : Option Nat :=
  if 2 ≤ m.scope ∨ (m.scope = 1 ∧ m.target ≠ 0) then some 3 else if !saveAligned (m.word 4) then some 4 else none

/-! ### The target -/

/-- The launches that a PREEMPT takes, or its refusal (R80). -/
def State.preemptLids (s : State) (m : Msg) : Except (Nat × Nat) (List Nat) :=
  if m.scope = 0 then match s.launchOf m.target with
    | none => .ok []
    | some l =>
      if l.pdom ≠ m.tdom ∨ l.preempted = true then .error (0xB, m.target)
      else .ok (if l.e = 0 then [] else [m.target])
  else
    let all := s.sch.launches.filterMap fun e => match e.2 with
      | some l => if l.pdom = m.tdom ∧ l.e ≠ 0 then some (e.1, l.preempted) else none
      | none => none
    match all, all.filter fun e => !e.2 with
    | e :: _, [] => .error (0xB, e.1)
    | _, l => .ok (l.map Prod.fst)

/-- A task of the target. -/
def taskHit (pdom : Nat) (lids : List Nat) (t : Task) : Bool := t.pdom == pdom && lids.contains t.lid
/-- A region of the target: installed, running or frozen by a fault. -/
def Fabric.regionHit (pdom : Nat) (lids : List Nat) (f : Fabric) : Bool :=
  (f.st == .configured || f.st == .running || f.st == .frozen) && f.pdom == pdom && lids.contains f.lid
def State.ctxHit (s : State) (pdom : Nat) (lids : List Nat) (c : Nat) : Bool :=
  (s.ctx c).run != .idle && taskHit pdom lids (s.ctx c).task
def State.fabHit (s : State) (pdom : Nat) (lids : List Nat) (core : Nat) : Bool :=
  let f := s.fab core
  f.regionHit pdom lids || f.orphans.any (fun o => taskHit pdom lids o.2.1) ||
    match f.holder with
    | some c => s.ctxHit pdom lids c
    | none => false
def coreCtxs (core : Nat) : List Nat := (List.range 4).map (4 * core + ·)
def State.targetCores (s : State) (pdom : Nat) (lids : List Nat) : List Nat :=
  (List.range 256).filter fun core => (coreCtxs core).any (s.ctxHit pdom lids) || s.fabHit pdom lids core

/-! ### Withholding and releasing records (R80, R87) -/

def withheld (now : Nat) (lids : List Nat) (r : Rec) : Rec :=
  if lids.contains r.lid && r.st == .ready then { r with st := .withheld, since := now - r.since, readyAt := now - r.readyAt } else r
def State.withhold (s : State) (lids : List Nat) : State :=
  let s := lids.foldl (fun s l => s.updLaunch l fun x => { x with preempted := true }) s
  let s := s.updSch fun q => { q with recs := q.recs.map fun e => (e.1, e.2.map (withheld s.clk.time lids)) }
  s.updSch fun q => { q with resv := q.resv.filter fun e => match e.2 with
    | some (cl, slot, _) => (match s.recAt cl slot with | some r => r.st == .ready | none => false)
    | none => false }
/-- A withheld record is put back: with JOIN 0 at the tail of its list with its age, else as PENDING. -/
def State.unwithhold (s : State) (k : Nat) (r : Rec) : State :=
  let r := if r.join = 0 then
      { r with st := .ready, seq := s.sch.nextSeq, since := s.clk.time - r.since, readyAt := s.clk.time - r.readyAt }
    else { r with st := .pending }
  s.updSch fun q => { q with recs := SMap.set none q.recs k (some r), nextSeq := q.nextSeq + 1 }
/-- Elements in ascending order of a key. -/
def insertBy {α : Type} (key : α → Nat) (x : α) : List α → List α
  | [] => [x]
  | y :: t => if key x ≤ key y then x :: y :: t else y :: insertBy key x t
def sortBy {α : Type} (key : α → Nat) : List α → List α
  | [] => []
  | x :: t => insertBy key x (sortBy key t)
def State.releaseRecs (s : State) (lids : List Nat) : State :=
  let s := lids.foldl (fun s l => s.updLaunch l fun x => { x with preempted := false }) s
  let l := s.sch.recs.filterMap fun e => match e.2 with
    | some r => if lids.contains r.lid && r.st == .withheld then some (e.1, r) else none
    | none => none
  (sortBy (fun x => x.2.seq) l).foldl (fun s x => s.unwithhold x.1 x.2) s

/-! ### Regions (R100, R131) -/

/-- A unit as its last checkpoint has it; counters, fault registers and load time go on (R138), OINIT supplies its token
again (R373). -/
def Unit_.rewound (now ckpt : Unit_) (n : Node) : Unit_ :=
  { ckpt with
    frozen := false
    pend := []
    stuckAt := none
    counters := now.counters
    cls := now.cls
    seen := now.seen
    rest := now.rest
    loadAt := now.loadAt
    f0 := now.f0
    f1 := now.f1
    order := if n.oinit then 0 else ckpt.order }
/-- R131: counters and carried state of the last complete commit, channels empty, the uncommitted log dropped. -/
def Fabric.rewound (f : Fabric) (now : Nat) : Fabric :=
  let keys := (f.units.map Prod.fst ++ f.ckpt.units.map Prod.fst).dedup
  { f with
    st := if f.st == .frozen then .running else f.st
    units := keys.foldl (fun m k => SMap.set {} m k
      ((SMap.get {} f.units k).rewound (SMap.get {} f.ckpt.units k) (SMap.get {} f.nodes k))) []
    chans := f.chans.map fun c => { c with q := [], resv := 0 }
    logs := []
    egress := []
    newCkpt := none
    commitNeed := []
    commitSeen := []
    seqNo := f.ckpt.seqNo
    ending := false
    faultWord := []
    more := 0
    recorded := false
    late := []
    drained := []
    draining := false
    quietSince := now
    atEdge := true }
/-- Reads of a core's firing units that wait for data end, and publications that wait for a version slot (R387). -/
def State.dropUnitReqs (s : State) (core : Nat) : State :=
  let kept (r : Req) : Bool :=
    !r.by_.unitOf core || !(r.kind == .read || r.kind == .vload || (r.kind == .vstore && r.dev.isNone))
  s.updMem fun m => { m with reqs := m.reqs.filter fun e => e.2.all kept }
/-- The region goes on from its restart point: the root takes its first permit again when no commit has completed, and the
latches are read again (R386). -/
def State.restartRegion (s : State) (core : Nat) : State :=
  let f := { s.fab core with
    held := false
    quietSince := s.clk.fab
    units := (s.fab core).units.map fun e => (e.1, { e.2 with seen := s.clk.fab }) }
  let f := if f.st == .running && f.ckpt.fresh then
      match cns.find? fun c => f.used c 0 && (f.node c 0).isRoot with
      | some c => f.permitTo true c
      | none => f
    else f
  let s := ((s.dropUnitReqs core).clearUnitFaults core).setFab core f
  if f.st == .running then (s.reloadLatches core 0x10).reloadLatches core 0x11 else s

/-! ### The halt (R80, R100) -/

def State.haltCtx (s : State) (c : Nat) : State :=
  s.updCtx c fun x => { x.halt .preempted s.clk.fab with barHeld := x.csr.barPending }
/-- R102: loads of a core's firing units that wait for a version. -/
def State.versionWaits (s : State) (core : Nat) : List (Nat × Nat × Nat) :=
  s.mem.reqs.filterMap fun e => e.2.bind fun r => match r.by_ with
    | .unit c el k => if c = core ∧ r.kind = .vload ∧ r.applied = false then some (unitKey el k, r.va, r.ver) else none
    | _ => none
/-- Whether the first fault of a region is a translation fault. -/
def Fabric.xlatFrozen (f : Fabric) : Bool := f.st == .frozen && bits (nth 0#64 f.faultWord 0).toNat 60 4 == 4
/-- R101: a region whose DONE has reached its root, and which can drain, ends. -/
def Fabric.drains (f : Fabric) : Bool := f.st == .running && f.draining && !f.halted && f.faultWord.isEmpty
/-- The fabric of a core frozen: a region of the target stands at its restart point, unless it ends; another launch's is not
touched (R100). -/
def State.holdFab (s : State) (pdom : Nat) (lids : List Nat) (core : Nat) : State :=
  let f := s.fab core
  if f.regionHit pdom lids then
    if f.drains then s.setFab core { f with ending := true, interrupted := true }
    else (s.dropUnitReqs core).setFab core { (f.idled s.clk.fab).rewound s.clk.fab with
      held := true, interrupted := true, wasFrozen := f.xlatFrozen, waits := s.versionWaits core }
  else if (f.st == .free || f.st == .done) && s.fabHit pdom lids core then
    s.setFab core { f.idled s.clk.fab with held := true, interrupted := true }
  else s
/-- R237: whether a launch is sampled by its domain's capture. -/
def State.sampled (s : State) (pdom lid : Nat) : Bool :=
  let d := s.dbgOf pdom
  d.captureOn && (bits (d.word 0x18) 10 1 == 1 || bits (d.word 0x18) 48 16 == lid)
def State.halt (s : State) (pdom : Nat) (lids cs : List Nat) : State :=
  let hit := (cs.flatMap coreCtxs).filter (s.ctxHit pdom lids)
  let s := if hit.any fun c => s.sampled pdom (s.ctx c).task.lid then
      s.setDbg pdom { s.dbgOf pdom with captureInt := true } else s
  let s := hit.foldl State.abandonCfg s
  let s := cs.foldl (fun s core => s.holdFab pdom lids core) s
  hit.foldl State.haltCtx s
/-- A context of a stopped group stays stopped until RUN. -/
def State.runState (s : State) (t : Task) : RunSt :=
  let d := s.dbgOf t.pdom
  if d.stopped && d.stopHas t then .stopped else .running
/-- R80: the target runs on in place. -/
def State.unhalt (s : State) (lids cs : List Nat) : State :=
  let s := cs.foldl (fun s core =>
    if (s.fab core).held then s.restartRegion core else s.updFab core fun f => { f with ending := false }) s
  let s := ((cs.flatMap coreCtxs).filter fun c => (s.ctx c).run == .preempted).foldl (fun s c =>
    s.updCtx c fun x => x.thaw (s.runState x.task) s.clk.fab) s
  s.releaseRecs lids

/-- R54, R79: the physical address of SAVE in a writable 1 GiB leaf of the domain; or a cause and detail. -/
def State.saveBase (s : State) (pdom save : Nat) : State × Except (Nat × Nat) Nat :=
  match s.xlateNow 270 pdom (w64 save) 1 with
  | (s, .error c) => (s, .error (0x10 + c, save))
  | (s, .ok (_, some _)) => (s, .error (8, 4))
  | (s, .ok (pa, none)) => match s.tlbLookup 270 pdom (va57 (w64 save)) with
    | some e => if e.level = 2 then (s, .ok pa) else (s, .error (8, 4))
    | none => (s, .error (8, 4))

/-- R154: subscriptions of the launches at a core's windows hold their batches; those already sent are applied. -/
def State.bufferSubs (s : State) (lids : List Nat) (core : Nat) : State :=
  (s.msg.subs.filter fun x => x.state == 0 && x.subCore == core && lids.contains x.lid).foldl (fun s x =>
    (x.sent.foldl (fun s l => s.applyBatch x l) s).subState { x with sent := [] } 1) s

def State.endPreempt (s : State) (i : Nat) (c : Cmd) (n : Nat) : State :=
  (s.releaseAll (· == .launchEngine)).putCmd launchEp 0 i (c.ok n [])

/-- R80 steps 1 to 3. -/
def execPreempt (s : State) : Result :=
  .next (s.unitCmd launchEp 0x51 fun i c =>
    let m := c.msg
    let pdom := m.tdom
    if c.step ≠ 0 then s
    else match m.preemptBad, s.preemptLids m with
      | some w, _ => s.putCmd launchEp 0 i (c.fail 8 w)
      | none, .error x => s.putCmd launchEp 0 i (c.fail x.1 x.2)
      | none, .ok [] => s.putCmd launchEp 0 i (c.ok 0 [])
      | none, .ok lids =>
        let cs := s.targetCores pdom lids
        let s := (s.withhold lids).halt pdom lids cs
        match s.saveBase pdom (m.word 4) with
        | (s, .error x) => (s.unhalt lids cs).putCmd launchEp 0 i (c.fail x.1 x.2)
        | (s, .ok base) =>
          let s := cs.foldl (fun s core => s.bufferSubs lids core) s
          let s := s.updSch fun q => { q with preempts := q.preempts ++ [⟨lids, pdom, m.word 4, base, cs, [], false⟩] }
          if cs.isEmpty then s.endPreempt i c 0 else s.putCmd launchEp 0 i { c with step := 1 })

/-! ### What must end before a core is saved (R101, R423) -/

/-- A message of a halted context of the core. -/
def State.halted (s : State) (core : Nat) (m : Msg) : Bool :=
  match m.sender with
  | .seq c => coreOf c == core && !isMgmt c && (s.ctx c).run == .preempted
  | _ => false
/-- A message that a unit runs to its reply: SBS. -/
def Msg.runsOut (m : Msg) : Bool := m.dep < 8 && m.opc / 16 == 3
/-- A command in execution that runs to its reply: finished, SBS, RING.POST with its entry written, or of the management
block. -/
def Cmd.runsOut (key : Nat) (c : Cmd) : Bool :=
  let ep := key / 4096
  ep != 55 && (c.finished || c.msg.runsOut || (ep < 8 && c.msg.opc == 0x40 && c.step == 2) || ep == 54)
/-- Loads and stores complete, operand blocks read, joins applied. -/
def State.ctxSettled (s : State) (c : Nat) : Bool :=
  let x := s.ctx c
  x.nLd == 0 && x.nSt == 0 && s.sch.joins.all (fun j => match j.2 with | some w => w.1 != c | none => true) &&
    x.ops.all fun o => match o.req.bind s.req with
      | some r => r.applied
      | none => true
/-- R101: what a commit that the freeze met has sent to other devices is applied there. -/
def State.published (s : State) (core : Nat) : Bool :=
  s.mem.reqs.all fun e => e.2.all fun r => !r.by_.unitOf core || r.dev.isNone || r.applied || r.kind == .read || r.kind == .vload
/-- R154, R423: a halted context's SBS.FLUSH of a subscription at a core's pool. -/
def State.flushes (s : State) (core : Nat) (m : Msg) : Bool :=
  m.dep < 8 && m.opc == 0x32 && bits (m.word 3) 0 8 == core && match m.sender with
    | .seq c => !isMgmt c && (s.ctx c).run == .preempted
    | _ => false
/-- R423: nothing that must run out is under way, and a Larder program stands at a command boundary. -/
def State.maySave (s : State) (core : Nat) : Bool :=
  let hit := (coreCtxs core).filter fun c => (s.ctx c).run == .preempted
  hit.all s.ctxSettled && !(s.fab core).ending && s.published core &&
    s.msg.net.all (fun n => !((s.halted core n.msg && n.msg.runsOut) || s.flushes core n.msg)) &&
    s.msg.inbox.all (fun e => e.2.all fun m => !((s.halted core m && m.runsOut) || s.flushes core m)) &&
    (s.msg.cmds.all fun e => e.2.all fun c => !((s.halted core c.msg && c.runsOut e.1) || s.flushes core c.msg)) &&
    s.msg.larders.all fun e => match e.2.msg with
      | some m => !s.halted core m || e.2.pos == 0
      | none => true

/-- The requests that are saved, in issue order, and the state without them. -/
def State.withdraw (s : State) (core : Nat) : State × List Msg :=
  let out := s.halted core
  let l := (s.msg.net.map NetMsg.msg).filter out ++ (s.msg.inbox.flatMap fun e => e.2.filter out) ++
    (s.msg.cmds.filterMap fun e => match e.2 with
      | some c => if out c.msg && e.1 / 4096 != 55 then some c.msg else none
      | none => none) ++
    s.msg.larders.filterMap fun e => match e.2.msg with
      | some m => if out m then some m else none
      | none => none
  let key (m : Msg) : Nat := (match m.sender with | .seq c => c | _ => 0) * 2 ^ 64 + m.req.getD 0
  (s.updMsg fun g => { g with
    net := g.net.filter fun n => !out n.msg
    inbox := (g.inbox.map fun e => (e.1, e.2.filter fun m => !out m)).filter fun e => !e.2.isEmpty
    cmds := g.cmds.filter fun e => match e.2 with
      | some c => !(out c.msg && e.1 / 4096 != 55)
      | none => true
    larders := g.larders.filter fun e => match e.2.msg with
      | some m => !out m
      | none => true }, sortBy key l)

/-! ### The save area (R102) -/

/-- Bytes of a save area: as writes of the launch engine. -/
def State.putArea (s : State) (base off : Nat) (l : List Byte) : State :=
  s.write 6 .launchEngine false (((List.range l.length).zip l).filterMap fun e => (s.physKey (base + off + e.1)).map fun k => (k, e.2))
def State.getArea (s : State) (base off n : Nat) : List Byte :=
  (List.range n).map fun i => match s.physKey (base + off + i) with
    | some k => s.byte k
    | none => Config.blankByte
/-- Pool units that are saved: scratchpad and accumulator store. -/
def savedUnits (w : Nat) : List Nat := (List.range 48).filter fun j => partCB w ≤ j && j < partCB w + partSP w + partAC w
/-- The words of a core's area up to its first context block. -/
def State.saveHead (s : State) (core pdom lid requests : Nat) (region frozen sampled bar : Bool) : List W64 :=
  [w64 (0x53564153 + 2 ^ 32 + core * 2 ^ 40), pack [(pdom, 48), (lid, 0)],
   pack [(Nat.min requests 255, 8), (bar.toNat, 3), (sampled.toNat, 2), (frozen.toNat, 1), (region.toNat, 0)],
   w64 (s.part core)] ++ List.replicate 28 0#64
def State.areaWords (s : State) (base off n : Nat) : List W64 :=
  (List.range n).map fun i => wordOf (s.getArea base (off + 8 * i) 8)
/-- Barrier: id, epoch, arrived, released. A BAR that was outstanding at the halt and is no more has been released. -/
def State.saveBarrier (s : State) (cs : List Nat) : List W64 :=
  match cs.findSome? fun c => ((s.ctx c).task.gang.bind s.gangOf).map fun g => (c, g) with
  | none => List.replicate 8 0#64
  | some (c, g) =>
    let arrived := g.arrived.contains c
    [w64 g.id, w64 g.epoch, w64 arrived.toNat, w64 ((s.ctx c).barHeld && !(s.ctx c).csr.barPending).toNat] ++ List.replicate 4 0#64
/-- R102: the checkpoint of a controller in 64 words, in the model's own order (log entry 76). -/
def Ctl.words (x : Ctl) : List W64 :=
  let half (l : List Nat) : List W64 := (List.range ((l.length + 1) / 2)).map fun i =>
    pack [(nth 0 l (2 * i + 1) % 2 ^ 32, 32), (nth 0 l (2 * i) % 2 ^ 32, 0)]
  let marks (l : List Bool) : Nat := bits ((l.zip (List.range l.length)).foldl (fun n e => if e.1 then n + 2 ^ e.2 else n) 0) 0 64
  let l := [pack [(x.active.toNat, 0), (x.last.toNat, 1), (x.stopOut.toNat, 2), (x.bound.isSome.toNat, 3)],
      pack [(x.trip % 2 ^ 32, 32), (x.iter % 2 ^ 32, 0)], pack [(x.finished % 2 ^ 32, 32), (x.started % 2 ^ 32, 0)],
      pack [(x.due % 2 ^ 32, 32), (x.reported % 2 ^ 32, 0)], w64 (x.bound.getD 0),
      pack [(x.flags.length % 2 ^ 32, 32), (x.permits.length % 2 ^ 32, 0)], w64 (marks x.permits),
      w64 (marks x.flags)] ++
    half ((List.range 16).map fun i => SMap.get 0 x.sent i) ++
    half (allUnits.map fun u => x.doneBy u.1 u.2)
  l ++ List.replicate (64 - l.length) 0#64
/-- Marks of a list; what lies past the 64 that a word holds is kept. -/
def marksOf (old : List Bool) (n w : Nat) : List Bool :=
  (List.range (if n ≤ 64 then n else old.length)).map fun i => if i < 64 then bits w i 1 == 1 else nth false old i
/-- R103: the checkpoint of a controller as its words have it; counts keep what lies above 32 bits. -/
def Ctl.ofWords (x : Ctl) (ws : List W64) : Ctl :=
  let n (i : Nat) : Nat := (nth 0#64 ws i).toNat
  let at_ (old i lo : Nat) : Nat := old / 2 ^ 32 * 2 ^ 32 + bits (n i) lo 32
  let half (b i old : Nat) : Nat := at_ old (b + i / 2) (32 * (i % 2))
  { x with
    active := bits (n 0) 0 1 == 1
    last := bits (n 0) 1 1 == 1
    stopOut := bits (n 0) 2 1 == 1
    bound := if bits (n 0) 3 1 = 1 then some (n 4) else none
    trip := at_ x.trip 1 32
    iter := at_ x.iter 1 0
    finished := at_ x.finished 2 32
    started := at_ x.started 2 0
    due := at_ x.due 3 32
    reported := at_ x.reported 3 0
    permits := marksOf x.permits (bits (n 5) 0 32) (n 6)
    flags := marksOf x.flags (bits (n 5) 32 32) (n 7)
    sent := (List.range 16).foldl (fun m i => SMap.set 0 m i (half 8 i (SMap.get 0 x.sent i))) x.sent
    dones := (allUnits.zip (List.range allUnits.length)).foldl (fun m e =>
      SMap.set 0 m (unitKey e.1.1 e.1.2) (half 16 e.2 (x.doneBy e.1.1 e.1.2))) x.dones }
/-- R102: fault registers and pending version waits, four words a firing unit. -/
def Fabric.faultArea (f : Fabric) : List W64 :=
  allUnits.flatMap fun u =>
    let x := f.unit u.1 u.2
    let w := (f.waits.find? fun w => w.1 == unitKey u.1 u.2).map Prod.snd
    [x.f0, x.f1, w64 (w.getD (0, 0)).1, w64 (w.getD (0, 0)).2]
/-- A context's oldest deferred fault becomes its pending trap (R101). -/
def Ctx.withTrap (x : Ctx) : Ctx :=
  match x.pendTrap, x.owed with
  | none, o :: _ => { x with pendTrap := some (0x10 + o.cause, w64 o.va), owed := [] }
  | _, _ => { x with owed := [] }

/-- R100: a SEND that was waiting is executed again. -/
def Ctx.abandoned (x : Ctx) : Ctx := { x with ops := x.ops.filter fun o => o.form != .send || o.inCp }
/-- R146, R439: the notices on their way to a core's rings are counted before the rings are saved. -/
def State.landNotices (s : State) (core : Nat) : State :=
  s.updMem fun m => { (m.notices.filter fun n => n.core == core).foldl MemSt.land m with
    notices := m.notices.filter fun n => n.core != core }
/-- R102: one core saved. -/
def State.saveCore (s : State) (p : Preempt) (core : Nat) : State × SavedCore :=
  let cs := (coreCtxs core).filter fun c => (s.ctx c).run == .preempted
  let (s, reqs) := s.withdraw core
  let s := (s.bufferSubs p.lids core).landNotices core
  let f := s.fab core
  let region := f.regionHit p.pdom p.lids
  let blocks := (coreCtxs core).flatMap fun c =>
    if cs.contains c then ((s.ctx c).withTrap.block s.clk.fab) else List.replicate 64 0#64
  let lid := if region then f.lid else match cs with | c :: _ => (s.ctx c).task.lid | [] => nth 0 p.lids 0
  let head := s.saveHead core p.pdom lid reqs.length region (region && f.wasFrozen)
    (cs.any fun c => s.sampled p.pdom (s.ctx c).task.lid) (cs.any fun c => (s.ctx c).barHeld)
  let at_ := coreArea core
  let s := s.putArea p.base at_ (wordsBytes (head ++ blocks ++ s.saveBarrier cs))
  let s := s.putArea p.base (at_ + 0x1000) (wordsBytes ((reqs.take 64).flatMap Msg.words))
  let s := if region then
      let s := s.putArea p.base (at_ + 0x2000) (wordsBytes (cns.flatMap fun c => (SMap.get {} f.ckpt.units (unitKey c 0)).ctl.words))
      let s := s.putArea p.base (at_ + 0x4000) (wordsBytes f.faultArea)
      (s.putArea p.base (at_ + 0x6000) (wordsBytes f.imageWords)).putArea p.base (ckptArea core)
        ((List.range (Config.ckptLen s.clk.tick % (2 ^ 18 + 1))).map fun i => Config.saveByte s.clk.tick (2 ^ 18 + i))
    else s
  let s := (savedUnits (s.part core)).foldl (fun s j =>
    s.putArea p.base (poolArea core j) ((keyRange (poolKey core (65536 * j)) 65536).map s.byte)) s
  let mine (o : Op × Task × Nat) : Bool := taskHit p.pdom p.lids o.2.1
  let x : SavedCore := {
    core := core
    ctxs := cs.map fun c => (c, (s.ctx c).withTrap.abandoned)
    fab := if region then some f else none
    holder := match f.holder with | some c => if cs.contains c then some c else none | none => none
    orphans := f.orphans.filter mine
    requests := reqs
    larder := reqs.any fun m => 8 ≤ m.dep && m.dep < 48
    partWord := w64 (s.part core)
    tids := s.mem.tids.filter fun e => e.1 / 256 == core
    full := s.mem.full.filter fun e => poolCore (e.1 * 16) == core && isPool (e.1 * 16)
    arrive := s.mem.arrive.filter fun e => e.1 / 64 == core
    rings := s.mem.rings.filter fun e => e.1 / 256 == core }
  let holder := match f.holder with | some c => if cs.contains c then none else some c | none => none
  let rest := f.orphans.filter fun o => !mine o
  let s := if region then s.dropUnitReqs core else s
  let s := s.setFab core (if region then f.emptied holder rest else { f with held := false, ending := false, holder := holder, orphans := rest })
  (cs.foldl (fun s c => s.setCtx c {}) s, x)

/-- A PREEMPT that one of the saved contexts sent is done for it: it is not issued again. -/
def ownDone (c : Cmd) (x : SavedCore) : SavedCore :=
  { x with ctxs := x.ctxs.map fun e =>
      if c.msg.sender == .seq e.1 then
        (e.1, { e.2 with ops := e.2.ops.map fun o => if some o.id == c.msg.req then { o with done := true } else o })
      else e }
def disowned (c : Cmd) (x : SavedCore) : Cmd :=
  if x.ctxs.any fun e => c.msg.sender == .seq e.1 then { c with msg := { c.msg with sender := .launchEngine, req := none } } else c

/-- R80 steps 4 and 5: a core saves once its outstanding operations allow it; the reply follows the last. -/
def execPreemptCoreSave (core : Nat) (s : State) : Result :=
  .next (s.unitCmd launchEp 0x51 fun i c =>
    match s.sch.preempts.find? fun p => p.cores.contains core with
    | none => s
    | some p =>
      let f := s.fab core
      if f.ending && !f.drains then s.holdFab p.pdom p.lids core
      else if !s.maySave core then s
      else
        let (s, x) := s.saveCore p core
        let q := { p with cores := p.cores.filter (· != core), saved := p.saved ++ [ownDone c x] }
        let s := s.updSch fun z => { z with preempts := z.preempts.map fun y => if y == p then q else y }
        let c := disowned c x
        if q.cores.isEmpty then s.endPreempt i c q.saved.length else s.putCmd launchEp 0 i c)

/-! ### RESUME (R80, R103) -/

def Msg.resumeBad (m : Msg) : Option Nat :=
  if m.scope = 3 ∨ (m.scope = 1 ∧ m.target ≠ 0) ∨ (m.scope = 2 ∧ 256 ≤ m.target) then some 3
  else if m.scope = 2 ∧ m.word 4 ≠ 0 then some 4 else none
def State.preemptsFor (s : State) (m : Msg) : List Preempt :=
  s.sch.preempts.filter fun p => p.pdom == m.tdom && (m.scope == 1 || p.lids.contains m.target)

/-- R103: the reply; withheld records are released once the last core is restored. -/
def State.endResume (s : State) (i : Nat) (c : Cmd) : State :=
  let l := s.sch.preempts.filter fun p => p.resuming
  if l.any fun p => !p.saved.isEmpty then s
  else
    let s := s.updSch fun q => { q with preempts := q.preempts.filter fun p => !p.resuming }
    (s.putCmd launchEp 0 i (c.ok 0 [])).releaseRecs (l.flatMap Preempt.lids)

/-- Takes RESUME of a launch or domain: its pre-emptions, and the cores to reserve. -/
def execResume (s : State) : Result :=
  .next (s.unitCmd launchEp 0x52 fun i c =>
    let m := c.msg
    if c.step ≠ 0 then s
    else match m.resumeBad with
      | some w => s.putCmd launchEp 0 i (c.fail 8 w)
      | none =>
        if m.scope = 2 then s
        else
          let l := s.preemptsFor m
          if l.isEmpty then s.putCmd launchEp 0 i (c.fail 0xB m.target)
          else if l.any fun p => p.save != m.word 4 then s.putCmd launchEp 0 i (c.fail 8 4)
          else match s.saveBase m.tdom (m.word 4) with
            | (s, .error x) => s.putCmd launchEp 0 i (c.fail x.1 x.2)
            | (s, .ok base) =>
              let s := s.updSch fun q => { q with
                preempts := q.preempts.map fun p => if l.contains p then { p with resuming := true, base := base } else p
                restoring := (l.flatMap fun p => p.saved.map SavedCore.core).foldl (fun r k => SMap.set false r k true) q.restoring }
              (s.putCmd launchEp 0 i { c with step := 1 }).endResume i { c with step := 1 })

/-- R102, R103: the partition word of the area; the one saved where it is none (log entry 76). -/
def State.savedPart (s : State) (p : Preempt) (x : SavedCore) : W64 :=
  let w := nth 0#64 (s.areaWords p.base (coreArea x.core + 0x18) 1) 0
  if partOk w.toNat then w else x.partWord
/-- The configuration of the area's image and the fault registers; the configuration saved where it is no image that installs
(log entry 76). -/
def State.savedFab (s : State) (p : Preempt) (core : Nat) (f : Fabric) : Fabric :=
  let at_ := coreArea core
  let n := (headerLen (nth 0#64 (s.areaWords p.base (at_ + 0x6000) 1) 0).toNat).getD 1
  let ws := s.areaWords p.base (at_ + 0x6000) n
  let f := match readImage (ws.map BitVec.toNat) with
    | .error _ => f
    | .ok m => match checkImage m (s.tid core) (fun n => s.spKey (rportCore core n)) (partCB (s.part core)) with
      | .error _ => f
      | .ok g => { f with nodes := g.nodes, chans := g.chans, divs := g.divs, imageWords := ws }
  let regs := s.areaWords p.base (at_ + 0x4000) (4 * allUnits.length)
  (allUnits.zip (List.range allUnits.length)).foldl (fun f e =>
    if f.used e.1.1 e.1.2 then f.updUnit e.1.1 e.1.2 fun u => { u with f0 := nth 0#64 regs (4 * e.2), f1 := nth 0#64 regs (4 * e.2 + 1) }
    else f) f
/-- The controllers' checkpoints of the area, at which the region stands. -/
def State.savedCtls (s : State) (p : Preempt) (core : Nat) (f : Fabric) : Fabric :=
  let words (c : Nat) : List W64 := s.areaWords p.base (coreArea core + 0x2000 + 0x200 * (c - 0x40)) 64
  let put (m : SMap Unit_) (c : Nat) : SMap Unit_ :=
    let u := SMap.get {} m (unitKey c 0)
    SMap.set {} m (unitKey c 0) { u with ctl := u.ctl.ofWords (words c) }
  let all (m : SMap Unit_) : SMap Unit_ := (cns.filter (f.used · 0)).foldl put m
  { f with units := all f.units, ckpt := { f.ckpt with units := all f.ckpt.units } }
/-- R103 step 4: the barrier's epoch, the arrival, and the release. -/
def State.restoreBarrier (s : State) (p : Preempt) (core : Nat) (cs : List Nat) : State :=
  match cs.findSome? fun c => ((s.ctx c).task.gang.bind s.gangOf).map fun g => (c, g) with
  | none => s
  | some (c, g) =>
    let ws := s.areaWords p.base (coreArea core + 0x900) 4
    let at_ (i : Nat) : Nat := (nth 0#64 ws i).toNat
    let epoch := at_ 1 % 2 ^ 16 + g.epoch / 2 ^ 16 * 2 ^ 16
    let arrived := if at_ 2 % 2 = 1 then (if g.arrived.contains c then g.arrived else g.arrived ++ [c]) else g.arrived.filter (· != c)
    let s := s.setGang ((s.ctx c).task.gang.getD 0) (some { g with epoch := epoch, arrived := arrived })
    if at_ 3 % 2 = 1 ∧ (s.ctx c).hasBar = true then s.barDone (epoch % 65536) false c else s
/-- R103 step 5: the requests as the area has them, the first 64. -/
def State.savedReqs (s : State) (p : Preempt) (x : SavedCore) : List Msg :=
  (x.requests.zip (List.range x.requests.length)).map fun e =>
    if e.2 < 64 then { e.1 with words := s.areaWords p.base (coreArea x.core + 0x1000 + 64 * e.2) 8 } else e.1
/-- The state that hangs at a core's pool: partition, tensor entries, granules, arrival counts, rings. -/
def State.restorePool (s : State) (p : Preempt) (x : SavedCore) : State :=
  let core := x.core
  let w := s.savedPart p x
  let s := s.zeroRange (poolKey core 0) (65536 * partCB w.toNat)
  let s := (savedUnits w.toNat).foldl (fun s j =>
    s.write 6 .launchEngine false ((keyRange (poolKey core (65536 * j)) 65536).zip (s.getArea p.base (poolArea core j) 65536))) s
  let put {α : Type} [DecidableEq α] (d : α) (m l : SMap α) : SMap α := l.foldl (fun m e => SMap.set d m e.1 e.2) m
  let s := s.updMem fun m => { m with
    part := SMap.set partReset m.part core w
    tids := put (List.replicate 8 0#64) (SMap.eraseRange m.tids (core * 256) 256) x.tids
    full := put false (SMap.eraseRange m.full (poolKey core 0 / 16) (Config.poolBytes / 16)) x.full
    arrive := put 0 (SMap.eraseRange m.arrive (core * 64) 64) x.arrive
    rings := put {} (SMap.eraseRange m.rings (core * 256) 256) x.rings
    lastPdom := SMap.set none m.lastPdom core (some p.pdom) }
  if !x.larder then s
  else (s.ringsOf core).foldl (fun s r =>
    let (_, T, N, _, BB, BASE) := r
    s.updMem fun m => { m with
      rings := SMap.eraseRange m.rings (core * 256) 256
      arrive := SMap.eraseRange m.arrive (core * 64 + BB) N
      full := match s.spKey core BASE with
        | some k => SMap.eraseRange m.full (k / 16) (N * T / 16)
        | none => m.full }) s

/-- The saved context as its block has it now; what is not in the block stays with the operations it had. One of a
stopped group has its block of the stop area written. -/
def State.restoreCtx (s : State) (p : Preempt) (c : Nat) (x : Ctx) : State :=
  let ws := (List.range 64).map fun i => wordOf (s.getArea p.base (coreArea (coreOf c) + 0x100 + 0x200 * (c % 4) + 8 * i) 8)
  let b := ctxOfBlock ws s.clk.fab
  (s.setCtx c { x with
    run := s.runState x.task
    froze := if s.runState x.task = .running then none else some s.clk.fab
    pc := b.pc
    regs := b.regs
    taint := b.taint
    stack := b.stack
    depth := b.depth
    lost := b.lost
    csr := b.csr
    pendTrap := b.pendTrap
    barHeld := false
    stall := 0 }).stopBlock c

/-- R154: what a subscription held is applied before the context continues. -/
def State.unbufferSubs (s : State) (lids : List Nat) (core : Nat) : State :=
  (s.msg.subs.filter fun x => x.state == 1 && x.subCore == core && lids.contains x.lid).foldl (fun s x =>
    let s := (x.sent ++ (if x.batch.isEmpty then [] else [x.batch])).foldl (fun s l => (s.batchNote x l).applyBatch x l) s
    s.subState { x with pending := [], due := [], sent := [] } 0) s

/-- R103 step 1: the core is free for the restore, and what ended tasks left to a region that runs no more does not count. -/
def State.mayRestore (s : State) (core : Nat) : Bool :=
  (coreCtxs core).all (fun c => (s.ctx c).run == .idle) && (s.fab core).isFree &&
    ((s.fab core).orphans.isEmpty || (s.fab core).stuck) && !s.drainStop (clusterOf core) && s.clActive (clusterOf core)
/-- R103 steps 2 to 6. -/
def State.restoreCore (s : State) (p : Preempt) (x : SavedCore) : State :=
  let core := x.core
  let s := (s.restorePool p x).releaseAll (· == .launchEngine)
  let s := match x.fab with
    | some f =>
      let stopped := (s.dbgOf f.pdom).stopped && (s.dbgOf f.pdom).stopHas f.task
      (s.setFab core { s.savedCtls p core (s.savedFab p core f) with holder := x.holder, orphans := x.orphans, halted := stopped, stopAt := false }).restartRegion core
    | none => s.updFab core fun f => { f with holder := x.holder, orphans := x.orphans }
  let s := s.unbufferSubs p.lids core
  let s := x.ctxs.foldl (fun s e => s.restoreCtx p e.1 e.2) s
  let s := s.restoreBarrier p core (x.ctxs.map Prod.fst)
  let s := (s.savedReqs p x).foldl (fun s m => s.toNet m (clusterOf core)) s
  s.updSch fun q => { q with restoring := SMap.set false q.restoring core false }

def execResumeCoreRestore (core : Nat) (s : State) : Result :=
  .next (s.unitCmd launchEp 0x52 fun i c =>
    match s.sch.preempts.find? fun p => p.resuming && p.saved.any fun x => x.core == core with
    | none => s
    | some p => match p.saved.find? fun x => x.core == core with
      | none => s
      | some x =>
        if !s.mayRestore core then s
        else
          let s := s.restoreCore p x
          let q := { p with saved := p.saved.filter fun y => y.core != core }
          (s.updSch fun z => { z with preempts := z.preempts.map fun y => if y == p then q else y }).endResume i c)

/-! ### RESUME of a frozen region (R57, R80, R135) -/

/-- Frozen by translation faults of address generators and by nothing else. -/
def Fabric.retryable (f : Fabric) : Bool :=
  let l := f.units.filter fun e => e.2.frozen
  f.st == .frozen && !f.held && !l.isEmpty && l.all fun e => isAg (e.1 / 16) && bits e.2.f0.toNat 60 4 == 4
/-- Each generator sends the request that it holds through a fresh walk. -/
def Fabric.retried (f : Fabric) (now : Nat) : Fabric :=
  { f with
    st := .running
    units := f.units.map fun e => (e.1, { e.2 with frozen := false })
    faultWord := []
    more := 0
    recorded := false
    quietSince := now }
def execResumeRegion (s : State) : Result :=
  .next (s.unitCmd launchEp 0x52 fun i c =>
    let m := c.msg
    if c.step ≠ 0 ∨ m.resumeBad.isSome = true ∨ m.scope ≠ 2 then s
    else
      let f := s.fab m.target
      if f.retryable && f.pdom == m.pdom then
        ((s.clearUnitFaults m.target).setFab m.target (f.retried s.clk.fab)).putCmd launchEp 0 i (c.ok 0 [])
      else s.putCmd launchEp 0 i (c.fail 0xB m.target))

end Sys2Proof.Machine
end

