-- ==== Sys2Proof/Machine/Quiet.lean ====
section
/-! DEFINITION. The fault record of a region in which no unit can fire any more (R134, R458 to R460). -/

namespace Sys2Proof.Machine

/-- The firing of a slot, by its operation code. -/
def fireSlot (core e k : Nat) (s : State) : Result :=
  match ((s.fab core).node e k).opc with
  | 0x01 => execVadd core e k s
  | 0x02 => execVsub core e k s
  | 0x03 => execVmul core e k s
  | 0x04 => execVfma core e k s
  | 0x05 => execVfms core e k s
  | 0x06 => execVmin core e k s
  | 0x07 => execVmax core e k s
  | 0x08 => execVabs core e k s
  | 0x09 => execVneg core e k s
  | 0x0A => execVand core e k s
  | 0x0B => execVor core e k s
  | 0x0C => execVxor core e k s
  | 0x0D => execVnot core e k s
  | 0x0E => execVshl core e k s
  | 0x0F => execVshr core e k s
  | 0x10 => execVsha core e k s
  | 0x11 => execVrshr core e k s
  | 0x12 => execVcmp core e k s
  | 0x13 => execVsel core e k s
  | 0x14 => execVcvt core e k s
  | 0x15 => execVsat core e k s
  | 0x16 => execVexp2 core e k s
  | 0x17 => execVlog2 core e k s
  | 0x18 => execVrcp core e k s
  | 0x19 => execVrsq core e k s
  | 0x1A => execVmad core e k s
  | 0x1B => execVdot4 core e k s
  | 0x1C => execVred core e k s
  | 0x1D => execVscan core e k s
  | 0x1E => execVperm core e k s
  | 0x1F => execVbcst core e k s
  | 0x20 => execVmov core e k s
  | 0x21 => execVcls core e k s
  | 0x28 => execPand core e k s
  | 0x29 => execPor core e k s
  | 0x2A => execPxor core e k s
  | 0x2B => execPnot core e k s
  | 0x2C => execFilt core e k s
  | 0x2D => execExpd core e k s
  | 0x2E => execMrg core e k s
  | 0x2F => execSplt core e k s
  | 0x30 => execFork core e k s
  | 0x31 => execDly core e k s
  | 0x32 => execSrc core e k s
  | 0x33 => execSink core e k s
  | 0x38 => execCnt core e k s
  | 0x39 => execCseq core e k s
  | 0x3A => execCpipe core e k s
  | 0x3B => execCstrm core e k s
  | 0x40 => execAgen core e k s
  | 0x41 => execLdn core e k s
  | 0x42 => execStn core e k s
  | 0x43 => execLdcn core e k s
  | 0x44 => execLdvn core e k s
  | 0x45 => execStvn core e k s
  | 0x46 => execLdfe core e k s
  | 0x47 => execStfe core e k s
  | 0x48 => execAtn core e k s
  | 0x49 => execOrdj core e k s
  | 0x4A => execGthr core e k s
  | 0x4B => execScat core e k s
  | 0x4C => execRport core e k s
  | 0x4D => execRecln core e k s
  | 0x50 => execMldb core e k s
  | 0x51 => execMrow core e k s
  | 0x52 => execMacz core e k s
  | 0x53 => execMout core e k s
  | 0x54 => execMsel core e k s
  | 0x58 => execFscan core e k s
  | 0x59 => execFint core e k s
  | 0x5A => execFuni core e k s
  | 0x5B => execFrep core e k s
  | 0x5C => execFred core e k s
  | 0x5D => execFdrop core e k s
  | 0x60 => execIld core e k s
  | 0x61 => execIstep core e k s
  | 0x62 => execIrstep core e k s
  | 0x63 => execIsmp core e k s
  | 0x64 => execIenc core e k s
  | 0x65 => execIdec core e k s
  | _ => .next s

/-- Whether an event would be a firing of a unit, a stage of one, or a fault that MORE counts, now. -/
def State.wouldFire (s : State) (core : Nat) (g : State → Result) : Bool :=
  match g (s.updFab core fun f => { f with quietSince := s.clk.fab + 1 }) with
  | .next t => (t.fab core).quietSince == s.clk.fab || (t.fab core).more != (s.fab core).more
  | _ => false
/-- Whether a slot's firing, or an aligned token at it, can go on. -/
def State.slotStirs (s : State) (core : Nat) (x : Nat × Nat) : Bool :=
  s.wouldFire core (fireSlot core x.1 x.2) ||
    if isMt x.1 then s.wouldFire core (execCommitPassTile core x.1 x.2) || s.wouldFire core (execDrainPassTile core x.1 x.2) ||
      s.wouldFire core (execBarrierTokenPass core x.1 x.2)
    else s.wouldFire core (execAlignedTokenAlign core x.1 x.2)
/-- Whether a signal, a result or an injection is under way that the fabric itself brings to a unit. -/
def State.unitStirs (s : State) (core : Nat) (x : Nat × Nat) : Bool :=
  let f := s.fab core
  let u := f.unit x.1 x.2
  (u.doneOwed != 0 && ((if isCn x.1 then f.parentOf x.1 else f.leafCtl x.1 x.2).isSome)) ||
    (u.pend.head?.any s.pendDone) || (isCn x.1 && f.commitPoint s.clk.fab x.1) ||
    [u.mat.l0, u.mat.l1].any fun l => l.st == 1 && match l.req.bind s.req with
      | some r => r.applied
      | none => false
/-- R134: a unit of the region can still fire. -/
def State.stirs (s : State) (core : Nat) : Bool :=
  let f := s.fab core
  !f.egress.isEmpty || (allSlots.any fun x => (f.node x.1 x.2).opc != 0 && s.slotStirs core x) ||
    allUnits.any fun x => f.used x.1 x.2 && s.unitStirs core x

def execFaultQuiesceRecord (core : Nat) (s : State) : Result :=
  let f := s.fab core
  .next (if f.flows && !f.faultWord.isEmpty && !f.recorded && f.quietSince + 16 ≤ s.clk.fab && !s.stirs core then
      (s.faultRecord core f).updFab core fun f => { f.idled s.clk.fab with st := .frozen, recorded := true }
    else s)

end Sys2Proof.Machine
end

