-- ==== Sys2Proof/Machine/Traffic.lean ====
section
/-! DEFINITION. What arrives at the ports: FMP packets, remote memory traffic, host accesses, and delivery contexts that
fail (R29 to R38, R42, R72, R73, R430). -/

namespace Sys2Proof.Machine

/-! ### FMP packets (R33, R34, R35) -/

def fmpMagic (b : List Byte) : Bool := leNat (b.take 4) == 0x504D4646 && leNat ((b.drop 4).take 1) == 1
def fmpCount (b : List Byte) : Nat := leNat ((b.drop 5).take 1)
def fmpHigh (b : List Byte) : Nat := leNat ((b.drop 8).take 8)
/-- Bits [69:64] and [63:48] of the header. -/
def fmpReserved (b : List Byte) : Bool := leNat ((b.drop 6).take 2) != 0 || bits (fmpHigh b) 0 6 != 0
def fmpSrc (b : List Byte) : Nat := bits (fmpHigh b) 6 10
def fmpPdom (b : List Byte) : Nat := bits (fmpHigh b) 16 16
/-- R34: a packet that the port drops. -/
def fmpBad (b : List Byte) : Bool :=
  b.length < 16 || !fmpMagic b || fmpCount b == 0 || 16 < fmpCount b || b.length != 16 + 64 * fmpCount b || fmpReserved b

/-- The messages of a packet. -/
def fmpMsgs (port pdc : Nat) (b : List Byte) : List Msg :=
  (List.range (fmpCount b)).map fun i => {
    words := (List.range 8).map fun j => wordOf ((b.drop (16 + 64 * i + 8 * j)).take 8)
    pdom := fmpPdom b
    sender := .port (port / 2)
    host := fmpSrc b == 0x3FF
    srcdev := fmpSrc b
    port := port
    pdc := pdc }
/-- The reply to every message that fails a check of its packet; none when the packet passes. -/
def State.fmpAnswer (s : State) (b : List Byte) : Option W64 :=
  if !s.domActive (fmpPdom b) then some (replyErr 5 (fmpPdom b))
  else if fmpSrc b ≠ 0x3FF ∧ s.inDomain (fmpSrc b) = false then some (replyErr 6 (fmpSrc b))
  else if fmpSrc b ≠ 0x3FF ∧ fmpPdom b = 0 then some (replyErr 7 0)
  else none
/-- R35: before the domain is configured only hosts under PDOM 0 are answered. -/
def State.fmpEarly (s : State) (b : List Byte) : Bool := !s.xl.domValid && !(fmpSrc b == 0x3FF && fmpPdom b == 0)
/-- A packet that its port took. -/
def State.takeFmp (s : State) (port pdc : Nat) (b : List Byte) : State :=
  if fmpBad b || s.fmpEarly b then s.dropPacket port
  else match s.fmpAnswer b with
    | some w => (fmpMsgs port pdc b).foldl (fun s m => s.replyTo (48 + port / 2) 0 (.port (port / 2)) m (m.word 2) w []) s
    | none => (fmpMsgs port pdc b).foldl (fun s m => s.toNet m (48 + port / 2)) s
def execFmpPacketReceive (port job : Nat) (via : Via) (bytes : List Byte) (s : State) : Result :=
  .next (s.receive { port := port, job := job, via := via } fun s => s.takeFmp port via.pdc bytes)

/-! ### Remote memory traffic (R31, R32, R35) -/

/-- A request from outside: it is carried out at once where its order and its memory allow it (R32, R206). -/
def State.takeIn (s : State) (r : Req) : State :=
  (s.issue r).serve s.mem.nextReq (Config.readAge s.clk.tick) s.found [r.kind]
/-- A request that is refused is answered with an error. -/
def State.refuseDev (s : State) (rx : Rx) (dev : Nat) (op : UetOp) : State := s.answerTo rx.via.pdc (.dev dev) op (some 5) []
/-- R35, R36: traffic of another device of a configured domain, dropped when it comes from elsewhere (log entry 65); an
address that does not exist is answered with an error. -/
def State.fromDevice (s : State) (rx : Rx) (dev : Nat) (op : UetOp) (pa n : Nat) (k : State → List Nat → State) : State :=
  s.receive rx fun s =>
    if !s.inDomain dev then s.dropPacket rx.port
    else match s.pieceKeys pa none n with
      | some keys => k s keys
      | none => s.refuseDev rx dev op
/-- A request of another device. -/
def devReq (rx : Rx) (dev cl : Nat) (kind : ReqKind) : Req := { by_ := .remote dev cl, path := 6, kind := kind, pdc := rx.via.pdc }
/-- R202, R203: a version, and bytes inside one word. -/
def versionBad (pa n ver : Nat) : Bool := n == 0 || 8 < pa % 8 + n || 2 ^ 48 ≤ ver

def execRemoteWriteArrive (rx : Rx) (dev cl pa : Nat) (data : List Byte) (s : State) : Result :=
  .next (s.fromDevice rx dev .write pa data.length fun s keys => s.takeIn { devReq rx dev cl .write with wr := keys.zip data })
/-- R202, R206: bytes inside one word create the version, are discarded, or wait for a version slot. -/
def execRemoteVersionedWriteArrive (rx : Rx) (dev cl pa ver : Nat) (data : List Byte) (s : State) : Result :=
  .next (s.fromDevice rx dev .write pa data.length fun s keys =>
    if versionBad pa data.length ver then s.refuseDev rx dev .write
    else s.takeIn { devReq rx dev cl .vstore with ver := ver, wr := keys.zip data })
/-- R203: a Read that asks for a version is a versioned load. -/
def execRemoteReadArrive (rx : Rx) (dev cl pa len : Nat) (s : State) : Result :=
  .next (s.fromDevice rx dev .read pa len fun s keys => match rx.ver with
    | none => s.takeIn { devReq rx dev cl .read with rd := keys }
    | some v =>
      if versionBad pa len v then s.refuseDev rx dev .read
      else s.takeIn { devReq rx dev cl .vload with ver := v, rd := keys })
/-- R215, R262, R376: operation codes 0 to 8, 9 for a compare-and-swap, 16 + code for FP32. -/
def execRemoteAtomicArrive (rx : Rx) (dev cl pa op : Nat) (dword : Bool) (cmp x : W64) (s : State) : Result :=
  .next (s.fromDevice rx dev .atomic pa (if dword then 8 else 4) fun s keys =>
    if pa % (if dword then 8 else 4) ≠ 0 then s.refuseDev rx dev .atomic
    else s.takeIn { devReq rx dev cl .atomic with ats := [{
      key := nth 0 keys 0
      op := op % 16
      dword := dword
      fp := 16 ≤ op
      cas := if op = 9 then some cmp else none
      x := x }] })

/-! ### Hosts (R73, R430) -/

/-- R430: the management register space as a host names it. -/
def inMgmtSpace (va : Nat) : Bool := 0xFFFFFFFE00000000 ≤ va && va ≤ 0xFFFFFFFEFFFFFFFF

/-- R31, R72: a host's access is answered. -/
def State.uet (s : State) (rx : Rx) (op : UetOp) (err : Option Nat) (data : List Byte) : State :=
  s.answerTo rx.via.pdc (.host rx.port) op err data
/-- R430, R278: a dword at a multiple of 8 or a word at a multiple of 4, on a development part. -/
def State.debugUet (s : State) (rx : Rx) (va size : Nat) (wdata : Option W64) : State :=
  let off := va - 0xFFFFFFFE00000000
  let op : UetOp := if wdata.isSome then .write else .read
  if !s.pkg.development then s.uet rx op (some 7) []
  else if ¬(size = 8 ∨ size = 4) ∨ va % size ≠ 0 then s.uet rx op (some 4) []
  else match wdata with
    | some w =>
      let (v, mask) := if size = 8 then (w, 0xFF) else if off % 8 = 0 then (w, 0x0F) else (w <<< 32, 0xF0)
      (s.regWrite off v mask).uet rx op none []
    | none =>
      if size = 8 then s.uet rx op none (leBytes (s.regRead off).toNat 8)
      else let r := s.regRead32 off
        r.1.uet rx op none (leBytes r.2 4)
def execMgmtDebugUetAccess (rx : Rx) (va size : Nat) (wdata : Option W64) (s : State) : Result :=
  .next (s.receive rx fun s => if inMgmtSpace va then s.debugUet rx va size wdata else s)

/-- R35, R72: a host access under a domain; `k` gets the translated keys. -/
def State.fromHost (s : State) (rx : Rx) (pdom acc va n : Nat) (k : State → List Nat → State) : State :=
  let op : UetOp := if acc = 1 then .write else .read
  if !s.domActive pdom || (!s.xl.domValid && pdom != 0) then s.uet rx op (some 5) []
  else match s.rangeKeys (264 + rx.port / 2) pdom acc (n / 65536 + 2) va n with
    | (s, .error x) => s.uet rx op (some x.1) []
    | (s, .ok keys) => k s keys
/-- A host's request is carried out at once, unless it goes on to another device. -/
def State.takeHost (s : State) (r : Req) : State := if r.dev.isNone then s.takeIn r else s.issue r
/-- A host's request; bytes of another device go on to it (R36). -/
def hostReq (rx : Rx) (va : Nat) (kind : ReqKind) (keys : List Nat) : Req :=
  { by_ := .port (rx.port / 2), path := 6, kind := kind, va := va, dev := (devsOf keys).head?, pdc := rx.via.pdc, hostPort := rx.port }
def execHostUetRead (rx : Rx) (pdom va len : Nat) (s : State) : Result :=
  .next (s.receive rx fun s =>
    if pdom = 0 ∧ inMgmtSpace va = true then s.debugUet rx va len none
    else s.fromHost rx pdom 0 va len fun s keys => match rx.ver with
      | none => s.takeHost { hostReq rx va .read keys with rd := keys }
      | some v =>
        if versionBad va len v then s.uet rx .read (some 4) []
        else s.takeHost { hostReq rx va .vload keys with ver := v, rd := keys })
def execHostUetWrite (rx : Rx) (pdom va : Nat) (ver : Option Nat) (data : List Byte) (s : State) : Result :=
  .next (s.receive rx fun s =>
    if pdom = 0 ∧ inMgmtSpace va = true then s.debugUet rx va data.length (some (wordOf (data.take 8)))
    else s.fromHost rx pdom 1 va data.length fun s keys => match ver with
      | none => s.takeHost { hostReq rx va .write keys with wr := keys.zip data }
      | some v =>
        if versionBad va data.length v then s.uet rx .write (some 4) []
        else s.takeHost { hostReq rx va .vstore keys with ver := v, wr := keys.zip data })

/-! ### Delivery contexts that fail (R37, R38) -/

/-- R37: an access to a device that cannot be completed, by its issuing agent. -/
def State.failReq (s : State) (i : Nat) (r : Req) : State :=
  match r.by_ with
  | .seq c => match s.opOfReq c i with
    | some o => (s.opFail c o 9).blockFollows s c
    | none => s.setReq i none
  | .unit core e k => (s.updFab core fun f => f.raise s.clk.fab core e k 7 0 9 0).setReq i none
  | .port _ => if r.reply then s.setReq i none else (s.endBad i r 9).answered i
  | _ => (s.setReq i none).engineFail r 0xD (r.dev.getD 0)
/-- R37: commands of a source that have reached the device: collectives on RUDI, copies and Larder programs on ROD. -/
def failCmds (src dev : Nat) (rudi : Bool) (m : MsgSt) : MsgSt := { m with
  cmds := m.cmds.map fun e => (e.1, if e.1 / 4096 = src ∧ (e.1 / 64 % 64 == 2) = rudi then e.2.map fun c =>
      if !c.finished && c.devs.contains dev then c.fail 0xD dev else c
    else e.2)
  larders := m.larders.map fun e => (e.1,
    if !rudi && (Agent.larder (e.1 / 16) 0).source == src && e.2.msg.isSome && e.2.devs.contains dev then
      { e.2 with lost := some (0xD, dev) }
    else e.2) }
/-- R37: the accesses of a source to a device that are not yet over, on ROD or on RUDI, fail, and the commands with them. -/
def State.failTo (s : State) (src d : Nat) (rudi : Bool) : State :=
  let hit (r : Req) : Bool := r.dev.isSome && (devsOf r.keys).contains d && r.coll.isSome == rudi && r.by_.source == src &&
    !r.acked && !(r.applied && r.kind == .read)
  let rs := s.mem.reqs.filterMap fun e => match e.2 with
    | some r => if hit r then some (e.1, r) else none
    | none => none
  (rs.foldl (fun s e => s.failReq e.1 e.2) s).updMsg (failCmds src d rudi)
/-- What a circuit still carries fails. -/
def State.failOn (s : State) (p : Pdc) : State :=
  let s := s.updNet fun n => { n with wait := n.wait.filter fun k => !k.on p }
  match p.dst, p.pds with
  | .dev d, .rod => s.failTo p.src d false
  | .dev d, .rudi => s.failTo p.src d true
  | _, _ => s
/-- A delivery context fails or is closed, and is gone; the numbers past this device's own are those of its peers. -/
def State.failPdc (s : State) (i : Nat) : State :=
  match s.net.pdcs[i]? with
  | some p => (s.updNet fun n => { n with pdcs := dropNth n.pdcs i }).failOn p
  | none => match s.net.inn[i - s.net.pdcs.length]? with
    | some c => s.updNet fun n => { n with
        inn := dropNth n.inn (i - n.pdcs.length)
        wait := n.wait.filter fun k => k.back != some c.id }
    | none => s
def execPdcRetransmitExhausted (i : Nat) (s : State) : Result := .next (s.failPdc i)
def execPdcClosedByPeer (i : Nat) (s : State) : Result := .next (s.failPdc i)

end Sys2Proof.Machine
end

