-- ==== Sys2Proof/Machine/Dispatch.lean ====
section
/-! DEFINITION. One arm per constructor of Instr. -/

namespace Sys2Proof.Machine

def exec (i : Instr) (s : State) : Host.Outcome State Fault Refusal :=
  match i with
  | .illegalInstructionTrap => Sys2Proof.Machine.execIllegalInstructionTrap s
  | .instructionFetchTrap cause => Sys2Proof.Machine.execInstructionFetchTrap cause s
  | .larderUndefinedCommand ld ix => Sys2Proof.Machine.execLarderUndefinedCommand ld ix s
  | .add rd ra rb => Sys2Proof.Machine.execAdd rd ra rb s
  | .sub rd ra rb => Sys2Proof.Machine.execSub rd ra rb s
  | .mul rd ra rb => Sys2Proof.Machine.execMul rd ra rb s
  | .mulh rd ra rb u => Sys2Proof.Machine.execMulh rd ra rb u s
  | .div rd ra rb u => Sys2Proof.Machine.execDiv rd ra rb u s
  | .rem rd ra rb u => Sys2Proof.Machine.execRem rd ra rb u s
  | .and rd ra rb => Sys2Proof.Machine.execAnd rd ra rb s
  | .or rd ra rb => Sys2Proof.Machine.execOr rd ra rb s
  | .xor rd ra rb => Sys2Proof.Machine.execXor rd ra rb s
  | .andn rd ra rb => Sys2Proof.Machine.execAndn rd ra rb s
  | .shl rd ra rb => Sys2Proof.Machine.execShl rd ra rb s
  | .shr rd ra rb => Sys2Proof.Machine.execShr rd ra rb s
  | .sha rd ra rb => Sys2Proof.Machine.execSha rd ra rb s
  | .min rd ra rb u => Sys2Proof.Machine.execMin rd ra rb u s
  | .max rd ra rb u => Sys2Proof.Machine.execMax rd ra rb u s
  | .clz rd ra => Sys2Proof.Machine.execClz rd ra s
  | .popc rd ra => Sys2Proof.Machine.execPopc rd ra s
  | .sext rd ra wd => Sys2Proof.Machine.execSext rd ra wd s
  | .cmp rd ra rb cond => Sys2Proof.Machine.execCmp rd ra rb cond s
  | .sel rd ra rb => Sys2Proof.Machine.execSel rd ra rb s
  | .addi rd ra imm => Sys2Proof.Machine.execAddi rd ra imm s
  | .andi rd ra imm => Sys2Proof.Machine.execAndi rd ra imm s
  | .ori rd ra imm => Sys2Proof.Machine.execOri rd ra imm s
  | .xori rd ra imm => Sys2Proof.Machine.execXori rd ra imm s
  | .shli rd ra imm => Sys2Proof.Machine.execShli rd ra imm s
  | .shri rd ra imm => Sys2Proof.Machine.execShri rd ra imm s
  | .shai rd ra imm => Sys2Proof.Machine.execShai rd ra imm s
  | .cmpi rd ra cond imm => Sys2Proof.Machine.execCmpi rd ra cond imm s
  | .limm rd imm => Sys2Proof.Machine.execLimm rd imm s
  | .addpc rd imm => Sys2Proof.Machine.execAddpc rd imm s
  | .bCond ra rb cond imm => Sys2Proof.Machine.execBCond ra rb cond imm s
  | .biCond ra imm5 cond imm => Sys2Proof.Machine.execBiCond ra imm5 cond imm s
  | .jmp imm => Sys2Proof.Machine.execJmp imm s
  | .jal imm => Sys2Proof.Machine.execJal imm s
  | .jalr rd ra imm => Sys2Proof.Machine.execJalr rd ra imm s
  | .ld rd ra sz off => Sys2Proof.Machine.execLd rd ra sz off s
  | .st rd ra sz off => Sys2Proof.Machine.execSt rd ra sz off s
  | .ldc rd ra sz off => Sys2Proof.Machine.execLdc rd ra sz off s
  | .stv rd ra rb sz off => Sys2Proof.Machine.execStv rd ra rb sz off s
  | .ldvt rd ra rb sz off => Sys2Proof.Machine.execLdvt rd ra rb sz off s
  | .recl ra rb off => Sys2Proof.Machine.execRecl ra rb off s
  | .amo rd ra rb sz op => Sys2Proof.Machine.execAmo rd ra rb sz op s
  | .acas rd ra rb sz => Sys2Proof.Machine.execAcas rd ra rb sz s
  | .fence scope => Sys2Proof.Machine.execFence scope s
  | .fencex px py scope => Sys2Proof.Machine.execFencex px py scope s
  | .waitc ldLim stLim cpLim tlLim => Sys2Proof.Machine.execWaitc ldLim stLim cpLim tlLim s
  | .spawn rd ra rb => Sys2Proof.Machine.execSpawn rd ra rb s
  | .join ra => Sys2Proof.Machine.execJoin ra s
  | .arm rd ra rb => Sys2Proof.Machine.execArm rd ra rb s
  | .end_ => Sys2Proof.Machine.execEnd s
  | .trig => Sys2Proof.Machine.execTrig s
  | .gang rd => Sys2Proof.Machine.execGang rd s
  | .bar => Sys2Proof.Machine.execBar s
  | .cfg ra rb => Sys2Proof.Machine.execCfg ra rb s
  | .run ra => Sys2Proof.Machine.execRun ra s
  | .bound ra elem => Sys2Proof.Machine.execBound ra elem s
  | .inj ra rb elem => Sys2Proof.Machine.execInj ra rb elem s
  | .rstat rd ra rb => Sys2Proof.Machine.execRstat rd ra rb s
  | .tidw ra n => Sys2Proof.Machine.execTidw ra n s
  | .tidr ra n => Sys2Proof.Machine.execTidr ra n s
  | .part rd ra => Sys2Proof.Machine.execPart rd ra s
  | .send ra => Sys2Proof.Machine.execSend ra s
  | .sendi ra => Sys2Proof.Machine.execSendi ra s
  | .csrr rd csr => Sys2Proof.Machine.execCsrr rd csr s
  | .csrw ra csr => Sys2Proof.Machine.execCsrw ra csr s
  | .csrs ra csr => Sys2Proof.Machine.execCsrs ra csr s
  | .csrc ra csr => Sys2Proof.Machine.execCsrc ra csr s
  | .trap imm => Sys2Proof.Machine.execTrap imm s
  | .nop => Sys2Proof.Machine.execNop s
  | .halt => Sys2Proof.Machine.execHalt s
  | .idle => Sys2Proof.Machine.execIdle s
  | .rft => Sys2Proof.Machine.execRft s
  | .bkpt => Sys2Proof.Machine.execBkpt s
  | .enter ra => Sys2Proof.Machine.execEnter ra s
  | .leave ra => Sys2Proof.Machine.execLeave ra s
  | .capd rd ra rb => Sys2Proof.Machine.execCapd rd ra rb s
  | .capv rd ra => Sys2Proof.Machine.execCapv rd ra s
  | .tlbi ra rb => Sys2Proof.Machine.execTlbi ra rb s
  | .pwrgdAssert => Sys2Proof.Machine.execPwrgdAssert s
  | .powerGoodHoldExpiry => Sys2Proof.Machine.execPowerGoodHoldExpiry s
  | .pwrgdDeassert => Sys2Proof.Machine.execPwrgdDeassert s
  | .railRemoval allAtOnce vaux => Sys2Proof.Machine.execRailRemoval allAtOnce vaux s
  | .thermtripAssert => Sys2Proof.Machine.execThermtripAssert s
  | .refclkCoreLoss => Sys2Proof.Machine.execRefclkCoreLoss s
  | .refclkCoreStable => Sys2Proof.Machine.execRefclkCoreStable s
  | .serdesRefclkLoss k => Sys2Proof.Machine.execSerdesRefclkLoss k s
  | .coldReset => Sys2Proof.Machine.execColdReset s
  | .warmReset => Sys2Proof.Machine.execWarmReset s
  | .bootRomStage readErr => Sys2Proof.Machine.execBootRomStage readErr s
  | .bootFabricFwStage readErr => Sys2Proof.Machine.execBootFabricFwStage readErr s
  | .portsUp => Sys2Proof.Machine.execPortsUp s
  | .i3cPrivateWrite data => Sys2Proof.Machine.execI3cPrivateWrite data s
  | .i3cPrivateRead words => Sys2Proof.Machine.execI3cPrivateRead words s
  | .sbEnergyloRead => Sys2Proof.Machine.execSbEnergyloRead s
  | .enAccLowRead cl => Sys2Proof.Machine.execEnAccLowRead cl s
  | .linkUp port llr cbfc => Sys2Proof.Machine.execLinkUp port llr cbfc s
  | .linkDown port => Sys2Proof.Machine.execLinkDown port s
  | .fmpPacketReceive port job via bytes => Sys2Proof.Machine.execFmpPacketReceive port job via bytes s
  | .remoteWriteArrive rx dev cl pa data => Sys2Proof.Machine.execRemoteWriteArrive rx dev cl pa data s
  | .remoteVersionedWriteArrive rx dev cl pa ver data => Sys2Proof.Machine.execRemoteVersionedWriteArrive rx dev cl pa ver data s
  | .remoteReadArrive rx dev cl pa len => Sys2Proof.Machine.execRemoteReadArrive rx dev cl pa len s
  | .remoteAtomicArrive rx dev cl pa op dword cmp x => Sys2Proof.Machine.execRemoteAtomicArrive rx dev cl pa op dword cmp x s
  | .collectiveDataArrive rx dev cl inbox pdom va desc group place data => Sys2Proof.Machine.execCollectiveDataArrive rx dev cl inbox pdom va desc group place data s
  | .hostUetRead rx pdom va len => Sys2Proof.Machine.execHostUetRead rx pdom va len s
  | .hostUetWrite rx pdom va ver data => Sys2Proof.Machine.execHostUetWrite rx pdom va ver data s
  | .mgmtDebugUetAccess rx va size wdata => Sys2Proof.Machine.execMgmtDebugUetAccess rx va size wdata s
  | .pdcRetransmitExhausted ix => Sys2Proof.Machine.execPdcRetransmitExhausted ix s
  | .pdcClosedByPeer ix => Sys2Proof.Machine.execPdcClosedByPeer ix s
  | .portModeTrace port => Sys2Proof.Machine.execPortModeTrace port s
  | .portModeDisable port => Sys2Proof.Machine.execPortModeDisable port s
  | .portModeData port => Sys2Proof.Machine.execPortModeData port s
  | .portModeSwitchComplete port => Sys2Proof.Machine.execPortModeSwitchComplete port s
  | .traceRecordSend port => Sys2Proof.Machine.execTraceRecordSend port s
  | .packetBaddstDiscard ep => Sys2Proof.Machine.execPacketBaddstDiscard ep s
  | .flitCrcReplay ix => Sys2Proof.Machine.execFlitCrcReplay ix s
  | .localLeafDelivery ix => Sys2Proof.Machine.execLocalLeafDelivery ix s
  | .memoryWriteApply ix ecc => Sys2Proof.Machine.execMemoryWriteApply ix ecc s
  | .memoryReadServe ix age ecc => Sys2Proof.Machine.execMemoryReadServe ix age ecc s
  | .versionedStoreApply ix => Sys2Proof.Machine.execVersionedStoreApply ix s
  | .versionStoreWaitRelease ix => Sys2Proof.Machine.execVersionStoreWaitRelease ix s
  | .versionStallTimeout ix => Sys2Proof.Machine.execVersionStallTimeout ix s
  | .atomicApply ix => Sys2Proof.Machine.execAtomicApply ix s
  | .writeAcknowledgeArrive ix => Sys2Proof.Machine.execWriteAcknowledgeArrive ix s
  | .tlbMissWalkStart ix => Sys2Proof.Machine.execTlbMissWalkStart ix s
  | .missEntryFree ix => Sys2Proof.Machine.execMissEntryFree ix s
  | .walkLevelReadReturn ix => Sys2Proof.Machine.execWalkLevelReadReturn ix s
  | .firstTouchZeroingDone ix => Sys2Proof.Machine.execFirstTouchZeroingDone ix s
  | .uncorrectableRetryResult ix ok => Sys2Proof.Machine.execUncorrectableRetryResult ix ok s
  | .messageInboxEnqueue ix => Sys2Proof.Machine.execMessageInboxEnqueue ix s
  | .inboxAcceptAfterWait ix => Sys2Proof.Machine.execInboxAcceptAfterWait ix s
  | .unitTakeMessage ep unit => Sys2Proof.Machine.execUnitTakeMessage ep unit s
  | .engineCommandComplete ep unit inbox => Sys2Proof.Machine.execEngineCommandComplete ep unit inbox s
  | .mgRead => Sys2Proof.Machine.execMgRead s
  | .mgWrite => Sys2Proof.Machine.execMgWrite s
  | .mgDomon => Sys2Proof.Machine.execMgDomon s
  | .mgDomoff => Sys2Proof.Machine.execMgDomoff s
  | .mgDomcfg => Sys2Proof.Machine.execMgDomcfg s
  | .mgFwupd => Sys2Proof.Machine.execMgFwupd s
  | .mgAttest => Sys2Proof.Machine.execMgAttest s
  | .mgDbgrd => Sys2Proof.Machine.execMgDbgrd s
  | .mgDbgwr => Sys2Proof.Machine.execMgDbgwr s
  | .launch => Sys2Proof.Machine.execLaunch s
  | .launchTableEntryFree lid => Sys2Proof.Machine.execLaunchTableEntryFree lid s
  | .successorRelease lid => Sys2Proof.Machine.execSuccessorRelease lid s
  | .donerepReply lid => Sys2Proof.Machine.execDonerepReply lid s
  | .preempt => Sys2Proof.Machine.execPreempt s
  | .preemptCoreSave core => Sys2Proof.Machine.execPreemptCoreSave core s
  | .resume => Sys2Proof.Machine.execResume s
  | .resumeRegion => Sys2Proof.Machine.execResumeRegion s
  | .resumeCoreRestore core => Sys2Proof.Machine.execResumeCoreRestore core s
  | .joinApply ix => Sys2Proof.Machine.execJoinApply ix s
  | .dispatch cl core k => Sys2Proof.Machine.execDispatch cl core k s
  | .gangDispatch cl slot cores => Sys2Proof.Machine.execGangDispatch cl slot cores s
  | .agePromotion cl slot => Sys2Proof.Machine.execAgePromotion cl slot s
  | .gangReservationStart cl => Sys2Proof.Machine.execGangReservationStart cl s
  | .monitorFire ix => Sys2Proof.Machine.execMonitorFire ix s
  | .barrierArrive c => Sys2Proof.Machine.execBarrierArrive c s
  | .barrierRelease g => Sys2Proof.Machine.execBarrierRelease g s
  | .barrierBreak g => Sys2Proof.Machine.execBarrierBreak g s
  | .queueDrainStopWrite cl v => Sys2Proof.Machine.execQueueDrainStopWrite cl v s
  | .registerWrite off value mask => Sys2Proof.Machine.execRegisterWrite off value mask s
  | .ceSlotWrite cl e p value => Sys2Proof.Machine.execCeSlotWrite cl e p value s
  | .ldCtxKill ld ix => Sys2Proof.Machine.execLdCtxKill ld ix s
  | .cfgComplete core => Sys2Proof.Machine.execCfgComplete core s
  | .alignedTokenAlign core elem k => Sys2Proof.Machine.execAlignedTokenAlign core elem k s
  | .faultQuiesceRecord core => Sys2Proof.Machine.execFaultQuiesceRecord core s
  | .commitPeriodInject core elem => Sys2Proof.Machine.execCommitPeriodInject core elem s
  | .commitPassTile core elem k => Sys2Proof.Machine.execCommitPassTile core elem k s
  | .drainPassTile core elem k => Sys2Proof.Machine.execDrainPassTile core elem k s
  | .regionDoneJoin core => Sys2Proof.Machine.execRegionDoneJoin core s
  | .barrierTokenPass core elem k => Sys2Proof.Machine.execBarrierTokenPass core elem k s
  | .logFullStallTimeout core elem k => Sys2Proof.Machine.execLogFullStallTimeout core elem k s
  | .logSpaceFree core elem k => Sys2Proof.Machine.execLogSpaceFree core elem k s
  | .egressLatchRelease core ix => Sys2Proof.Machine.execEgressLatchRelease core ix s
  | .timingErrorReplay core elem k => Sys2Proof.Machine.execTimingErrorReplay core elem k s
  | .elementWinterEntry core elem => Sys2Proof.Machine.execElementWinterEntry core elem s
  | .elementWakeComplete core elem => Sys2Proof.Machine.execElementWakeComplete core elem s
  | .arrivalBarrierComplete core b => Sys2Proof.Machine.execArrivalBarrierComplete core b s
  | .freedSlotNoticeArrive ix => Sys2Proof.Machine.execFreedSlotNoticeArrive ix s
  | .throttledNoticeRelease ix => Sys2Proof.Machine.execThrottledNoticeRelease ix s
  | .fullEmptyWaitRelease core elem k => Sys2Proof.Machine.execFullEmptyWaitRelease core elem k s
  | .mldbLoadComplete core elem => Sys2Proof.Machine.execMldbLoadComplete core elem s
  | .loadResultWrite core elem k => Sys2Proof.Machine.execLoadResultWrite core elem k s
  | .ldvnSatisfied core elem k => Sys2Proof.Machine.execLdvnSatisfied core elem k s
  | .sbsBatchSend ix => Sys2Proof.Machine.execSbsBatchSend ix s
  | .sbsBatchApply ix => Sys2Proof.Machine.execSbsBatchApply ix s
  | .ringHeadReread cl inbox => Sys2Proof.Machine.execRingHeadReread cl inbox s
  | .cpyLin cl e inbox => Sys2Proof.Machine.execCpyLin cl e inbox s
  | .cpyTile cl e inbox => Sys2Proof.Machine.execCpyTile cl e inbox s
  | .cpyGath cl e inbox => Sys2Proof.Machine.execCpyGath cl e inbox s
  | .cpyScat cl e inbox => Sys2Proof.Machine.execCpyScat cl e inbox s
  | .cpyMcast cl e inbox failed => Sys2Proof.Machine.execCpyMcast cl e inbox failed s
  | .collAr cl inbox => Sys2Proof.Machine.execCollAr cl inbox s
  | .collAg cl inbox => Sys2Proof.Machine.execCollAg cl inbox s
  | .collRs cl inbox => Sys2Proof.Machine.execCollRs cl inbox s
  | .collBc cl inbox => Sys2Proof.Machine.execCollBc cl inbox s
  | .collStepAdvance cl inbox => Sys2Proof.Machine.execCollStepAdvance cl inbox s
  | .sbsOn cl inbox => Sys2Proof.Machine.execSbsOn cl inbox s
  | .sbsOff cl inbox => Sys2Proof.Machine.execSbsOff cl inbox s
  | .sbsFlush cl inbox => Sys2Proof.Machine.execSbsFlush cl inbox s
  | .ringPost cl inbox => Sys2Proof.Machine.execRingPost cl inbox s
  | .larderLaunch ld => Sys2Proof.Machine.execLarderLaunch ld s
  | .lnop ld ix => Sys2Proof.Machine.execLnop ld ix s
  | .lloop ld ix => Sys2Proof.Machine.execLloop ld ix s
  | .lend ld ix => Sys2Proof.Machine.execLend ld ix s
  | .lbase ld ix => Sys2Proof.Machine.execLbase ld ix s
  | .ladd ld ix => Sys2Proof.Machine.execLadd ld ix s
  | .lpush ld ix => Sys2Proof.Machine.execLpush ld ix s
  | .lpushm ld ix failed => Sys2Proof.Machine.execLpushm ld ix failed s
  | .lfill ld ix => Sys2Proof.Machine.execLfill ld ix s
  | .lspill ld ix => Sys2Proof.Machine.execLspill ld ix s
  | .lstamp ld ix => Sys2Proof.Machine.execLstamp ld ix s
  | .lwaitv ld ix => Sys2Proof.Machine.execLwaitv ld ix s
  | .lbr ld ix => Sys2Proof.Machine.execLbr ld ix s
  | .lhalt ld ix => Sys2Proof.Machine.execLhalt ld ix s
  | .lgath ld ix => Sys2Proof.Machine.execLgath ld ix s
  | .larderWaitRelease ld ix => Sys2Proof.Machine.execLarderWaitRelease ld ix s
  | .damageIntegralUpdate temps => Sys2Proof.Machine.execDamageIntegralUpdate temps s
  | .bucketUpdate mw => Sys2Proof.Machine.execBucketUpdate mw s
  | .clpwrReqWrite cl v => Sys2Proof.Machine.execClpwrReqWrite cl v s
  | .clretSaveGo cl => Sys2Proof.Machine.execClretSaveGo cl s
  | .clretSaveComplete cl => Sys2Proof.Machine.execClretSaveComplete cl s
  | .clclkGate cl => Sys2Proof.Machine.execClclkGate cl s
  | .clrailRetention cl => Sys2Proof.Machine.execClrailRetention cl s
  | .clrailOff cl => Sys2Proof.Machine.execClrailOff cl s
  | .clwake cl => Sys2Proof.Machine.execClwake cl s
  | .springComplete cl => Sys2Proof.Machine.execSpringComplete cl s
  | .atticDrainSend cl => Sys2Proof.Machine.execAtticDrainSend cl s
  | .dbgHalt pdom => Sys2Proof.Machine.execDbgHalt pdom s
  | .dbgRun pdom => Sys2Proof.Machine.execDbgRun pdom s
  | .fabricStopAtEdge core => Sys2Proof.Machine.execFabricStopAtEdge core s
  | .captureStart pdom => Sys2Proof.Machine.execCaptureStart pdom s
  | .captureStop pdom => Sys2Proof.Machine.execCaptureStop pdom s
  | .pcSample pdom => Sys2Proof.Machine.execPcSample pdom s
  | .breakpointHit c ix => Sys2Proof.Machine.execBreakpointHit c ix s
  | .watchpointHit c j addr => Sys2Proof.Machine.execWatchpointHit c j addr s
  | .mdbgHalt => Sys2Proof.Machine.execMdbgHalt s
  | .mdbgRun => Sys2Proof.Machine.execMdbgRun s
  | .mdbgStep => Sys2Proof.Machine.execMdbgStep s
  | .mdbgBreakpointHit ix => Sys2Proof.Machine.execMdbgBreakpointHit ix s
  | .seqOperationComplete c ix => Sys2Proof.Machine.execSeqOperationComplete c ix s
  | .timecmpMatch => Sys2Proof.Machine.execTimecmpMatch s
  | .vadd core elem k => Sys2Proof.Machine.execVadd core elem k s
  | .vsub core elem k => Sys2Proof.Machine.execVsub core elem k s
  | .vmul core elem k => Sys2Proof.Machine.execVmul core elem k s
  | .vfma core elem k => Sys2Proof.Machine.execVfma core elem k s
  | .vfms core elem k => Sys2Proof.Machine.execVfms core elem k s
  | .vmin core elem k => Sys2Proof.Machine.execVmin core elem k s
  | .vmax core elem k => Sys2Proof.Machine.execVmax core elem k s
  | .vabs core elem k => Sys2Proof.Machine.execVabs core elem k s
  | .vneg core elem k => Sys2Proof.Machine.execVneg core elem k s
  | .vand core elem k => Sys2Proof.Machine.execVand core elem k s
  | .vor core elem k => Sys2Proof.Machine.execVor core elem k s
  | .vxor core elem k => Sys2Proof.Machine.execVxor core elem k s
  | .vnot core elem k => Sys2Proof.Machine.execVnot core elem k s
  | .vshl core elem k => Sys2Proof.Machine.execVshl core elem k s
  | .vshr core elem k => Sys2Proof.Machine.execVshr core elem k s
  | .vsha core elem k => Sys2Proof.Machine.execVsha core elem k s
  | .vrshr core elem k => Sys2Proof.Machine.execVrshr core elem k s
  | .vcmp core elem k => Sys2Proof.Machine.execVcmp core elem k s
  | .vsel core elem k => Sys2Proof.Machine.execVsel core elem k s
  | .vcvt core elem k => Sys2Proof.Machine.execVcvt core elem k s
  | .vsat core elem k => Sys2Proof.Machine.execVsat core elem k s
  | .vexp2 core elem k => Sys2Proof.Machine.execVexp2 core elem k s
  | .vlog2 core elem k => Sys2Proof.Machine.execVlog2 core elem k s
  | .vrcp core elem k => Sys2Proof.Machine.execVrcp core elem k s
  | .vrsq core elem k => Sys2Proof.Machine.execVrsq core elem k s
  | .vmad core elem k => Sys2Proof.Machine.execVmad core elem k s
  | .vdot4 core elem k => Sys2Proof.Machine.execVdot4 core elem k s
  | .vred core elem k => Sys2Proof.Machine.execVred core elem k s
  | .vscan core elem k => Sys2Proof.Machine.execVscan core elem k s
  | .vperm core elem k => Sys2Proof.Machine.execVperm core elem k s
  | .vbcst core elem k => Sys2Proof.Machine.execVbcst core elem k s
  | .vmov core elem k => Sys2Proof.Machine.execVmov core elem k s
  | .vcls core elem k => Sys2Proof.Machine.execVcls core elem k s
  | .pand core elem k => Sys2Proof.Machine.execPand core elem k s
  | .por core elem k => Sys2Proof.Machine.execPor core elem k s
  | .pxor core elem k => Sys2Proof.Machine.execPxor core elem k s
  | .pnot core elem k => Sys2Proof.Machine.execPnot core elem k s
  | .filt core elem k => Sys2Proof.Machine.execFilt core elem k s
  | .expd core elem k => Sys2Proof.Machine.execExpd core elem k s
  | .mrg core elem k => Sys2Proof.Machine.execMrg core elem k s
  | .splt core elem k => Sys2Proof.Machine.execSplt core elem k s
  | .fork core elem k => Sys2Proof.Machine.execFork core elem k s
  | .dly core elem k => Sys2Proof.Machine.execDly core elem k s
  | .src core elem k => Sys2Proof.Machine.execSrc core elem k s
  | .sink core elem k => Sys2Proof.Machine.execSink core elem k s
  | .cnt core elem k => Sys2Proof.Machine.execCnt core elem k s
  | .cseq core elem k => Sys2Proof.Machine.execCseq core elem k s
  | .cpipe core elem k => Sys2Proof.Machine.execCpipe core elem k s
  | .cstrm core elem k => Sys2Proof.Machine.execCstrm core elem k s
  | .controllerDoneSignal core elem k => Sys2Proof.Machine.execControllerDoneSignal core elem k s
  | .agen core elem k => Sys2Proof.Machine.execAgen core elem k s
  | .ldn core elem k => Sys2Proof.Machine.execLdn core elem k s
  | .ldcn core elem k => Sys2Proof.Machine.execLdcn core elem k s
  | .stn core elem k => Sys2Proof.Machine.execStn core elem k s
  | .ldvn core elem k => Sys2Proof.Machine.execLdvn core elem k s
  | .stvn core elem k => Sys2Proof.Machine.execStvn core elem k s
  | .ldfe core elem k => Sys2Proof.Machine.execLdfe core elem k s
  | .stfe core elem k => Sys2Proof.Machine.execStfe core elem k s
  | .atn core elem k => Sys2Proof.Machine.execAtn core elem k s
  | .ordj core elem k => Sys2Proof.Machine.execOrdj core elem k s
  | .gthr core elem k => Sys2Proof.Machine.execGthr core elem k s
  | .scat core elem k => Sys2Proof.Machine.execScat core elem k s
  | .rport core elem k => Sys2Proof.Machine.execRport core elem k s
  | .recln core elem k => Sys2Proof.Machine.execRecln core elem k s
  | .mldb core elem k => Sys2Proof.Machine.execMldb core elem k s
  | .mrow core elem k => Sys2Proof.Machine.execMrow core elem k s
  | .macz core elem k => Sys2Proof.Machine.execMacz core elem k s
  | .mout core elem k => Sys2Proof.Machine.execMout core elem k s
  | .msel core elem k => Sys2Proof.Machine.execMsel core elem k s
  | .fscan core elem k => Sys2Proof.Machine.execFscan core elem k s
  | .fint core elem k => Sys2Proof.Machine.execFint core elem k s
  | .funi core elem k => Sys2Proof.Machine.execFuni core elem k s
  | .frep core elem k => Sys2Proof.Machine.execFrep core elem k s
  | .fred core elem k => Sys2Proof.Machine.execFred core elem k s
  | .fdrop core elem k => Sys2Proof.Machine.execFdrop core elem k s
  | .ild core elem k => Sys2Proof.Machine.execIld core elem k s
  | .istep core elem k => Sys2Proof.Machine.execIstep core elem k s
  | .irstep core elem k => Sys2Proof.Machine.execIrstep core elem k s
  | .ismp core elem k => Sys2Proof.Machine.execIsmp core elem k s
  | .ienc core elem k => Sys2Proof.Machine.execIenc core elem k s
  | .idec core elem k => Sys2Proof.Machine.execIdec core elem k s

end Sys2Proof.Machine
end

