-- ==== Sys2Proof/Machine/Step.lean ====
section
/-! DEFINITION. One step: time passes, then the first event of the agenda comes about, or the current sequencer
context does what it does next. -/

namespace Sys2Proof.Machine

def step (s : State) : Host.Outcome State Fault Refusal :=
  let s := s.pass
  match s.agenda with
  | i :: rest => exec i { s with agenda := rest }
  | [] =>
    match s.nextInstr with
    | .error t => .next t
    | .ok i =>
      match exec i s with
      | .next t => .next t.settle
      | r => r

/-- The instruction with the low `nbits` bits of `w` put where the next step fetches. -/
def State.withFetchWord (s : State) (nbits w : Nat) : State :=
  let s := s.readyToFetch
  let v := w % 2 ^ nbits
  let pc := (s.ctx s.cur).pc
  (s.placeWord s.cur pc (v % 2 ^ 32)).placeWord s.cur (pc + 4#64) (v / 2 ^ 32)

end Sys2Proof.Machine
end

