-- ==== Sys2Proof/Safety.lean ====
section
/-! DEFINITION. Terms in which claims speak of a run: the canonical form of memory, what a read of one byte
gives, and what an instruction leaves as it was. -/

namespace Sys2Proof.Machine

/-- The canonical form of memory: addresses rising, no entry equal to what an unlisted byte reads as. -/
def Memory.wf (m : SMap Byte) : Bool := SMap.wf Config.blankByte m

/-- Every byte of memory reads as before. -/
def State.sameMem (s t : State) : Prop := ∀ k, t.byte k = s.byte k

/-- Every byte of memory outside a list of keys reads as before. -/
def State.sameMemBut (s t : State) (keys : List Nat) : Prop := ∀ k, k ∉ keys → t.byte k = s.byte k

/-- The bytes of a list have been written one after another, and no other byte. -/
def State.wrote (s t : State) (l : List (Nat × Byte)) : Prop :=
  t.mem.bytes = l.foldl (fun b e => SMap.set Config.blankByte b e.1 e.2) s.mem.bytes

/-! ### Sequencer contexts -/

/-- Nothing but one context differs: memory, every other context, the fabrics and all special state are as before. -/
def State.onlyCtx (s t : State) (c : Nat) : Prop := t = { s with ctxs := t.ctxs } ∧ ∀ d, d ≠ c → t.ctx d = s.ctx d

/-- The scalars that an instruction of the current context names are ready: none pending, none owed a deferred fault. -/
def State.ready (s : State) (rs : List Reg) : Prop :=
  (s.ctx s.cur).owedIn rs = false ∧ rs.any (s.ctx s.cur).pending = false

/-- The current context has written `v` with taint `tt` to `d` (s0 discards it) and gone on by `n` bytes; nothing else
has changed but its stall reason and its breakpoint mark. -/
def State.wroteReg (s t : State) (d : Reg) (v : W64) (tt : Bool) (n : Nat) : Prop :=
  let x := s.ctx s.cur
  let y := t.ctx s.cur
  s.onlyCtx t s.cur ∧
  y = { x with pc := x.pc + w64 n, regs := y.regs, taint := y.taint, stall := 0, bpDone := 0 } ∧
  ∀ r, y.reg r = (if r = d ∧ d ≠ 0#5 then v else x.reg r) ∧ y.taintOf r = (if r = d ∧ d ≠ 0#5 then tt else x.taintOf r)

/-- The current context has gone on by `n` bytes and nothing else has changed. -/
def State.wentOn (s t : State) (n : Nat) : Prop :=
  s.onlyCtx t s.cur ∧
  t.ctx s.cur = { s.ctx s.cur with pc := (s.ctx s.cur).pc + w64 n, stall := 0, bpDone := 0 }

/-- The current context waits with a stall reason, and nothing else has changed. -/
def State.waits (s t : State) (reason : Nat) : Prop :=
  s.onlyCtx t s.cur ∧ t.ctx s.cur = { s.ctx s.cur with stall := reason }

/-- The current context with one more operation outstanding, four bytes on. -/
def Ctx.withOp (x : Ctx) (o : Op) : Ctx :=
  { x with
    ops := x.ops ++ [{ o with id := x.nextOp }]
    nextOp := x.nextOp + 1
    pc := x.pc + 4#64
    stall := 0
    bpDone := 0 }

/-- The current context has started an operation that has no request, and nothing else has changed. -/
def State.startedOp (s t : State) (o : Op) (f : Ctx → Ctx) : Prop :=
  s.onlyCtx t s.cur ∧ t.ctx s.cur = f ((s.ctx s.cur).withOp o)

/-- The current context has started an operation on one new request to memory, and nothing else has changed. -/
def State.started (s t : State) (o : Op) (r : Req) : Prop :=
  t.ctx s.cur = (s.ctx s.cur).withOp { o with req := some s.mem.nextReq } ∧
  (∀ d, d ≠ s.cur → t.ctx d = s.ctx d) ∧
  t.req s.mem.nextReq = some r ∧ (∀ i, i ≠ s.mem.nextReq → t.req i = s.req i) ∧
  t = { s with
    ctxs := t.ctxs
    mem := { s.mem with reqs := t.mem.reqs, nextReq := s.mem.nextReq + 1 } }

/-- An access of the current context passes its checks (alignment, windows and translation, watchpoints) and reaches
the byte `k` of this device's memory. -/
def State.reaches (s : State) (a : W64) (n acc k : Nat) : Prop :=
  a.toNat % n = 0 ∧ s.resolve s.cur a acc = .mem k ∧
  (isMgmt s.cur = true ∨ s.watchesFor (s.ctx s.cur).task a n (acc == 1) 3 = [])

/-! ### Traps and transfers -/

/-- A target passes the checks of R256: a multiple of 4, executable, a word of kind 0b00 or 0b01. -/
def State.validTarget (s : State) (c : Nat) (a : W64) : Prop :=
  a.toNat % 4 = 0 ∧ ∃ k, s.resolve c a 2 = .mem k ∧ (s.codeWord (.mem k)).toNat < 2 ^ 31

/-- A context whose handler can take a trap. -/
def State.hasHandler (s : State) (c : Nat) : Prop :=
  (s.ctx c).csr.tvec ≠ 0#64 ∧ (s.ctx c).csr.inTrap = false ∧ (s.clearFaults (.seq c)).validTarget c (s.ctx c).csr.tvec

/-- R313: the context has taken a trap: TPC, TCAUSE, TDETAIL and INTRAP written, pc at TVEC; nothing else has changed
but that faults delivered to the context are done with. -/
def State.tookTrap (s t : State) (c cause : Nat) (detail tpc : W64) : Prop :=
  let x := s.ctx c
  t.ctx c = { x with
    pc := x.csr.tvec
    stall := 0
    bpDone := 0
    csr := { x.csr with
      tpc := tpc
      tcause := BitVec.ofNat 8 cause
      tdetail := detail
      inTrap := true
      deferred := false } } ∧
  (∀ d, d ≠ c → t.ctx d = s.ctx d) ∧ t = { s.clearFaults (.seq c) with ctxs := t.ctxs }

/-- The current context has gone to `a`, after `link`; nothing else has changed. -/
def State.wentTo (s t : State) (a : W64) (link : Ctx → Ctx) : Prop :=
  s.onlyCtx t s.cur ∧ t.ctx s.cur = { link (s.ctx s.cur) with
    pc := a
    stall := 0
    bpDone := 0 }

/-! ### Fabrics -/

/-- Nothing but the fabric of one core differs. -/
def State.onlyFab (s t : State) (core : Nat) : Prop := t = { s with fabs := t.fabs } ∧ ∀ c, c ≠ core → t.fab c = s.fab c

/-- The unit of the node in a slot may act: the region runs, the unit is neither stopped nor frozen, has not yet fired in
this row cycle, holds the operation, and has the permit that it needs. -/
def State.mayFire (s : State) (core e k opc : Nat) : Prop :=
  let f := s.fab core
  f.live e (unitSlot e k) = true ∧ f.rested s.clk.fab e (unitSlot e k) = true ∧ (f.node e k).opc = opc ∧
    f.noPermit e (unitSlot e k) = false

/-- The unit of the node in a slot has appended the tokens of `l` at each output port of `os`, then taken the token at
the head of each port of `ps`; no other channel, and nothing outside the fabric, has changed. -/
def State.passed (s t : State) (core e k : Nat) (ps os : List Nat) (l : List Tok) : Prop :=
  s.onlyFab t core ∧ (t.fab core).chans = (s.fab core).chans.map fun c =>
    let q := if os.any (c.outOf e (unitSlot e k)) then c.q ++ l else c.q
    { c with q := if ps.any (c.into e (unitSlot e k)) then q.tail else q }

/-- The unit of an element has appended one token at each output port that `outs` names, then taken the token at the head
of each port of `ps`; no other channel, and nothing outside the fabric, has changed; `car` is what it then carries. -/
def State.passedEach (s t : State) (core e : Nat) (ps : List Nat) (outs : List (Nat × Tok)) (car : Carry) : Prop :=
  s.onlyFab t core ∧ ((t.fab core).unit e 0).car = car ∧ (t.fab core).chans = (s.fab core).chans.map fun c =>
    let q := c.q ++ (outs.filter fun x => c.outOf e 0 x.1).map Prod.snd
    { c with q := if ps.any (c.into e 0) then q.tail else q }

/-- A slot of a ve or fu works on a firing that holds DATA: `g` is the fabric with its tokens taken, `y` the firing. -/
def State.firing (s : State) (core e k opc : Nat) (g : Fabric) (y : Fly) : Prop :=
  let f := s.fab core
  f.live e 0 = true ∧ f.rested s.clk.fab e 0 = true ∧ (f.node e k).opc = opc ∧ (isVe e || isFu e) = true ∧ f.vecTake e k = .ok (g, y) ∧
    (y.lead (f.inPorts e 0)).isData = true

/-- A DATA token of computed lanes; a dead lane holds 0, but for one that holds a field of an address token (log entry 100). -/
def laneTok (l : List Tok) (p : BitVec 16) (taint : Bool) (v : Nat → W32) : Tok :=
  { taint := taint, pred := p, lanes := (List.range 16).map fun i => if p.getLsbD i || fieldLane l i then v i else 0#32 }

/-- The slot has written a token to the space reserved at each of its outputs; nothing outside the fabric has changed. -/
def State.wroteTok (s t : State) (core e k : Nat) (g : Fabric) (tok : Tok) : Prop :=
  s.onlyFab t core ∧ (t.fab core).chans = g.chans.map fun c =>
    if (outsOf ((s.fab core).node e k).omask).any (c.outOf e 0) then { c with q := c.q ++ [tok], resv := c.resv - 1 } else c

/-- The unit of a tile or remote port has started an access, for which it waits with `p` behind the others; no byte of
memory, no context and no other fabric has changed. -/
def State.startedUnit (s t : State) (core e k : Nat) (p : Pend) : Prop :=
  ((t.fab core).unit e (unitSlot e k)).pend = ((s.fab core).unit e (unitSlot e k)).pend ++ [p] ∧
    (∀ c, c ≠ core → t.fab c = s.fab c) ∧ s.sameMem t ∧ ∀ c, t.ctx c = s.ctx c

/-- Room for one more access: fewer than 64 under way and in use over a circuit, the ORDER token it needs there, space for its
tokens, and no firing of the unit yet in this row cycle. -/
def State.unitRoom (s : State) (core e k : Nat) : Prop :=
  let f := s.fab core
  let u := unitSlot e k
  let n := f.node e k
  f.rested s.clk.fab e u = true ∧ (f.unit e u).accesses + f.heldBack e u 8 < 64 ∧ (∃ o, f.orderTok e u k n = .ok o) ∧ f.roomAll e u n.dataOuts 1 = none ∧
    f.roomAll e u (if n.ordOut then [1] else []) 1 = none

/-- The ranges of `size` bytes at the addresses `l` of a space are the keys `ks`, whose banks are free, and no watchpoint
meets the lanes `la` of `wide` bytes. -/
def State.unitReaches (s : State) (core e k space acc size : Nat) (l : List Nat) (wide : Nat) (la : List (Nat × Nat))
    (ks : List (List Nat)) (dev : Option Nat) : Prop :=
  s.reach (.unit core e (unitSlot e k)) core (s.fab core).pdom space acc size l = .keys ks dev ∧
    s.bankBusy ks.flatten = false ∧
    ∀ x ∈ la, s.watchesFor (s.fab core).task (watchAddr space x.2) wide (acc == 1) 4 = []

end Sys2Proof.Machine
end

