-- ==== Sys2Proof/Certificates/Slice0/Obligations.lean ====
section
/-! DEFINITION. Statements for the provers. -/

open Sys2Proof Sys2Proof.Machine

/-! ### Arithmetic (R277, R280, R282 to R285) -/

/-- R282, R283, R280: each register form writes its value to d with the taint of its sources, goes on by four bytes and
changes nothing else; DIV and REM do so for a divisor that is not 0, and a zero divisor raises the divide trap, cause 6.
R277, R236: the stall reason is 8 after a multiplication or division, at that instruction's pc, and 0 after the others.
R282, R284, R285, R253: the forms of one source and the immediate forms; immediates are sign-extended, shift amounts are
not. LIMM and ADDPC are two words long and write an untainted value. -/
def Obligations.AluForms : Prop :=
  ((∀ (s : State) (d a b : Reg), s.ready [d, a, b] →
     let x := s.ctx s.cur
     let A := x.reg a
     let B := x.reg b
     let done (i : Instr) (v : W64) : Prop := ∃ t, exec i s = .next t ∧ s.wroteReg t d v (x.taintOf a || x.taintOf b) 4
     let slow (i : Instr) (v : W64) : Prop := ∃ t, exec i s = .next (t.slow s.cur x.pc) ∧ s.wroteReg t d v (x.taintOf a || x.taintOf b) 4
     done (.add d a b) (A + B) ∧ done (.sub d a b) (A - B) ∧ slow (.mul d a b) (A * B) ∧
     slow (.mulh d a b true) (BitVec.ofNat 64 (A.toNat * B.toNat / 2 ^ 64)) ∧
     slow (.mulh d a b false) (BitVec.ofInt 64 (A.toInt * B.toInt / 2 ^ 64)) ∧
     done (.and d a b) (A &&& B) ∧ done (.or d a b) (A ||| B) ∧ done (.xor d a b) (A ^^^ B) ∧ done (.andn d a b) (A &&& ~~~B) ∧
     done (.shl d a b) (A <<< (B.toNat % 64)) ∧ done (.shr d a b) (A >>> (B.toNat % 64)) ∧
     done (.sha d a b) (A.sshiftRight (B.toNat % 64)) ∧
     done (.min d a b true) (if A.toNat ≤ B.toNat then A else B) ∧ done (.max d a b true) (if A.toNat ≤ B.toNat then B else A) ∧
     done (.min d a b false) (if A.toInt ≤ B.toInt then A else B) ∧ done (.max d a b false) (if A.toInt ≤ B.toInt then B else A) ∧
     done (.cmp d a b 0#3) (if A = B then 1#64 else 0#64) ∧ done (.cmp d a b 1#3) (if A = B then 0#64 else 1#64) ∧
     done (.cmp d a b 2#3) (if A.toInt < B.toInt then 1#64 else 0#64) ∧
     done (.cmp d a b 3#3) (if A.toInt < B.toInt then 0#64 else 1#64) ∧
     done (.cmp d a b 4#3) (if A.toNat < B.toNat then 1#64 else 0#64) ∧
     done (.cmp d a b 5#3) (if A.toNat < B.toNat then 0#64 else 1#64) ∧
     (B ≠ 0#64 →
       slow (.div d a b true) (BitVec.ofNat 64 (A.toNat / B.toNat)) ∧ slow (.rem d a b true) (BitVec.ofNat 64 (A.toNat % B.toNat)) ∧
       slow (.div d a b false) (BitVec.ofInt 64 (A.toInt.tdiv B.toInt)) ∧
       slow (.rem d a b false) (BitVec.ofInt 64 (A.toInt - B.toInt * A.toInt.tdiv B.toInt))) ∧
     (∃ t, exec (.sel d a b) s = .next t ∧
       s.wroteReg t d (if x.reg d ≠ 0#64 then A else B) (x.taintOf d || x.taintOf a || x.taintOf b) 4)) ∧
   (∀ (s : State) (d a b : Reg) (u : Bool) (i : Instr), (i = .div d a b u ∨ i = .rem d a b u) →
     s.ready [d, a, b] → (s.ctx s.cur).reg b = 0#64 →
     exec i s = .next (s.trap s.cur 6 0#64))) ∧
  ((∀ (s : State) (d a : Reg), s.ready [d, a] →
     let x := s.ctx s.cur
     let A := x.reg a
     let done (i : Instr) (v : W64) : Prop := ∃ t, exec i s = .next t ∧ s.wroteReg t d v (x.taintOf a) 4
     (A = 0#64 → done (.clz d a) 64#64) ∧
     (∀ n : Nat, n < 64 → 2 ^ n ≤ A.toNat → A.toNat < 2 ^ (n + 1) → done (.clz d a) (BitVec.ofNat 64 (63 - n))) ∧
     done (.popc d a) (BitVec.ofNat 64 ((List.range 64).countP fun i => A.getLsbD i)) ∧
     done (.sext d a 0#2) ((A.setWidth 8).signExtend 64) ∧ done (.sext d a 1#2) ((A.setWidth 16).signExtend 64) ∧
     done (.sext d a 2#2) ((A.setWidth 32).signExtend 64)) ∧
   (∀ (s : State) (d a : Reg) (i14 : BitVec 14) (i6 : BitVec 6) (i11 : BitVec 11) (i44 : BitVec 44), s.ready [d, a] → s.ready [d] →
     let x := s.ctx s.cur
     let A := x.reg a
     let I := i11.signExtend 64
     let done (i : Instr) (v : W64) : Prop := ∃ t, exec i s = .next t ∧ s.wroteReg t d v (x.taintOf a) 4
     done (.addi d a i14) (A + i14.signExtend 64) ∧ done (.andi d a i14) (A &&& i14.signExtend 64) ∧
     done (.ori d a i14) (A ||| i14.signExtend 64) ∧ done (.xori d a i14) (A ^^^ i14.signExtend 64) ∧
     done (.shli d a i6) (A <<< i6.toNat) ∧ done (.shri d a i6) (A >>> i6.toNat) ∧ done (.shai d a i6) (A.sshiftRight i6.toNat) ∧
     done (.cmpi d a 0#3 i11) (if A = I then 1#64 else 0#64) ∧ done (.cmpi d a 1#3 i11) (if A = I then 0#64 else 1#64) ∧
     done (.cmpi d a 2#3 i11) (if A.toInt < I.toInt then 1#64 else 0#64) ∧
     done (.cmpi d a 3#3 i11) (if A.toInt < I.toInt then 0#64 else 1#64) ∧
     done (.cmpi d a 4#3 i11) (if A.toNat < I.toNat then 1#64 else 0#64) ∧
     done (.cmpi d a 5#3 i11) (if A.toNat < I.toNat then 0#64 else 1#64) ∧
     (∃ t, exec (.limm d i44) s = .next t ∧ s.wroteReg t d (i44.signExtend 64) false 8) ∧
     (∃ t, exec (.addpc d i44) s = .next t ∧ s.wroteReg t d (x.pc + i44.signExtend 64) false 8)))


/-! ### Branches and jumps (R286, R287) -/

/-- R286, R287, R256: a branch whose condition holds, and each jump, goes to its target when the target passes its
checks; a branch whose condition fails goes on. The link is pc + 4, untainted, written after a is read. R260: the six
conditions. -/
def Obligations.BranchesAndJumps : Prop :=
  (∀ (s : State) (d a b : Reg) (c : BitVec 3) (i5 : BitVec 5) (d11 : BitVec 11) (d24 : BitVec 24) (i14 : BitVec 14), c.toNat < 6 →
    let x := s.ctx s.cur
    let A := x.reg a
    let goes (i : Instr) (to_ : W64) (link : Ctx → Ctx) : Prop := s.validTarget s.cur to_ → ∃ t, exec i s = .next t ∧ s.wentTo t to_ link
    let on (i : Instr) : Prop := ∃ t, exec i s = .next t ∧ s.wentOn t 4
    (s.ready [a, b] → if condHolds c A (x.reg b) then goes (.bCond a b c d11) (x.pc + 4#64 * d11.signExtend 64) id else on (.bCond a b c d11)) ∧
    (s.ready [a] → if condHolds c A (i5.signExtend 64) then goes (.biCond a i5 c d11) (x.pc + 4#64 * d11.signExtend 64) id
      else on (.biCond a i5 c d11)) ∧
    goes (.jmp d24) (x.pc + 4#64 * d24.signExtend 64) id ∧
    (s.ready [31#5] → goes (.jal d24) (x.pc + 4#64 * d24.signExtend 64) fun y => y.setReg 31#5 (x.pc + 4#64) false) ∧
    (s.ready [d, a] → goes (.jalr d a i14) (A + i14.signExtend 64) fun y => y.setReg d (x.pc + 4#64) false)) ∧
  (∀ a b : W64,
    (condHolds 0#3 a b ↔ a = b) ∧ (condHolds 1#3 a b ↔ a ≠ b) ∧
    (condHolds 2#3 a b ↔ a.toInt < b.toInt) ∧ (condHolds 3#3 a b ↔ b.toInt ≤ a.toInt) ∧
    (condHolds 4#3 a b ↔ a.toNat < b.toNat) ∧ (condHolds 5#3 a b ↔ b.toNat ≤ a.toNat))


/-- R256, R286 to R288, R292: a target that is no multiple of 4 and a misaligned access raise the alignment trap with the
address as detail; no link is written and no access is made. -/
def Obligations.MisalignedAddressesTrap : Prop :=
  (∀ (s : State) (d a : Reg) (i14 : BitVec 14), s.ready [d, a] →
    let to_ := (s.ctx s.cur).reg a + i14.signExtend 64
    to_.toNat % 4 ≠ 0 → s.hasHandler s.cur →
    ∃ t, exec (.jalr d a i14) s = .next t ∧ s.tookTrap t s.cur 4 to_ (s.ctx s.cur).pc) ∧
  (∀ (s : State) (d a : Reg) (z : BitVec 2) (o12 : BitVec 12), s.ready [d, a] → s.hasHandler s.cur →
    let x := s.ctx s.cur
    let va := x.reg a + o12.signExtend 64
    va.toNat % 2 ^ z.toNat ≠ 0 → x.nLd < 64 → x.nSt < 64 →
    (∀ i : Instr, (i = .ld d a z o12 ∨ i = .ldc d a z o12 ∨ i = .st d a z o12) →
      ∃ t, exec i s = .next t ∧ s.tookTrap t s.cur 4 va x.pc))

/-! ### Traps (R254, R257, R312 to R316) -/

/-- R313, R314, R316, R254, R257: with a handler that passes its checks, each of these takes its trap: cause, detail and
the pc that TPC saves are the rules' own; scalars and taint bits are unchanged. A trap with no handler, or inside one,
halts the management sequencer and changes nothing else of it; the task of another context whose stores, copies and
messages are acknowledged, and which asks for no record, ends. -/
def Obligations.TrapsAreTaken : Prop :=
  (∀ (s : State) (i14 : BitVec 14) (f : Nat), s.hasHandler s.cur → f < 16 →
    let pc := (s.ctx s.cur).pc
    (∃ t, exec (.trap i14) s = .next t ∧ s.tookTrap t s.cur 0x09 (i14.setWidth 64) (pc + 4#64)) ∧
    (∃ t, exec .bkpt s = .next t ∧ s.tookTrap t s.cur 0x07 0xFF#64 (pc + 4#64)) ∧
    (∃ t, exec .illegalInstructionTrap s = .next t ∧ s.tookTrap t s.cur 0x01 0#64 pc) ∧
    (∃ t, exec (.instructionFetchTrap f) s = .next t ∧ s.tookTrap t s.cur (0x10 + f) pc pc)) ∧
  (∀ (s : State) (i14 : BitVec 14), ((s.ctx s.cur).csr.tvec = 0#64 ∨ (s.ctx s.cur).csr.inTrap = true) →
    (s.cur = 1024 → ∃ t, exec (.trap i14) s = .next t ∧ t.ctx 1024 = { s.ctx 1024 with run := .halted } ∧
      (∀ d, d ≠ 1024 → t.ctx d = s.ctx d) ∧ t.mem = s.mem) ∧
    (s.cur < 1024 → (s.ctx s.cur).nSt = 0 → (s.ctx s.cur).nCp = 0 → (s.ctx s.cur).csr.trec = 0#64 →
      ∃ t, exec (.trap i14) s = .next t ∧ t.ctx s.cur = {} ∧ s.sameMem t))

/-- R315, R256: RFT sets pc from TPC and clears INTRAP when TPC passes the checks of a target; the first check that TPC fails,
in the order of R256, decides the trap. With INTRAP = 0 it raises the illegal-instruction trap with detail 0. Its
word is that of the system group, fn 0x003. -/
def Obligations.ReturnFromTrap : Prop :=
  ∀ s : State,
    let x := s.ctx s.cur
    (x.csr.inTrap = true → s.validTarget s.cur x.csr.tpc →
      ∃ t, exec .rft s = .next t ∧ s.onlyCtx t s.cur ∧ t.ctx s.cur = { x with
        pc := x.csr.tpc
        stall := 0
        bpDone := 0
        csr := { x.csr with inTrap := false } }) ∧
    (x.csr.inTrap = true → x.csr.tpc.toNat % 4 ≠ 0 → exec .rft s = .next (s.trap s.cur 4 x.csr.tpc)) ∧
    (∀ f, x.csr.inTrap = true → x.csr.tpc.toNat % 4 = 0 → s.resolve s.cur x.csr.tpc 2 = .fault f →
      exec .rft s = .next (s.trap s.cur (0x10 + f) x.csr.tpc)) ∧
    (∀ k, x.csr.inTrap = true → x.csr.tpc.toNat % 4 = 0 → s.resolve s.cur x.csr.tpc 2 = .mem k →
      2 ^ 31 ≤ (s.codeWord (.mem k)).toNat → exec .rft s = .next (s.trap s.cur 2 x.csr.tpc)) ∧
    (x.csr.inTrap = false → exec .rft s = .next (s.trap s.cur 1 0#64)) ∧ decode 0x3C000003#32 0#32 = .ok .rft

/-! ### Scalar memory (R288 to R292) -/

/-- R288, R290, R280: LD, LDC and LDVT start a read on path S of as many bytes as their size, which owes d the result (s0
discards it): LDC taints d, the others give d the taint of the address register; LDVT names its version. R288, R289, R291:
ST and STV start a store on path S of the low bytes of d, little-endian; RECL starts the retirement of versions of a dword.
No byte of memory changes yet. -/
def Obligations.LoadsAndStoresStart : Prop :=
  (∀ (s : State) (d a b : Reg) (z : BitVec 2) (o12 : BitVec 12) (o7 : BitVec 7) (k : Nat),
     let x := s.ctx s.cur
     let n := 2 ^ z.toNat
     let va := x.reg a + o12.signExtend 64
     let vb := x.reg a + o7.signExtend 64
     let ta := x.taintOf a
     let owes : Option Reg := if d = 0#5 then none else some d
     let read : Req := { by_ := .seq s.cur, path := 0, kind := .read, va := va.toNat, rd := keyRange k n, dep := ta }
     x.nLd < 64 →
     (s.ready [d, a] → s.reaches va n 0 k →
       (∃ t, exec (.ld d a z o12) s = .next t ∧
         s.started t { id := 0, form := .ld, inLd := true, dst := owes, taint := ta, va := va.toNat } read) ∧
       (∃ t, exec (.ldc d a z o12) s = .next t ∧
         s.started t { id := 0, form := .ld, inLd := true, dst := owes, taint := true, va := va.toNat } { read with consume := true })) ∧
     (s.ready [d, a, b] → (x.reg b).toNat < 2 ^ 48 → s.reaches vb n 0 k →
       ∃ t, exec (.ldvt d a b z o7) s = .next t ∧
         s.started t { id := 0, form := .ldvt, inLd := true, dst := owes, taint := ta, va := vb.toNat }
           { read with kind := .vload, va := vb.toNat, ver := (x.reg b).toNat })) ∧
  (∀ (s : State) (d a b : Reg) (z : BitVec 2) (o12 : BitVec 12) (o7 : BitVec 7) (k : Nat),
     let x := s.ctx s.cur
     let n := 2 ^ z.toNat
     let va := x.reg a + o12.signExtend 64
     let vb := x.reg a + o7.signExtend 64
     let dep := x.taintOf a || x.taintOf d
     let bytes := (keyRange k n).zip ((List.range n).map fun i => (x.reg d).extractLsb' (8 * i) 8)
     x.nSt < 64 →
     (s.ready [d, a] → s.reaches va n 1 k →
       ∃ t, exec (.st d a z o12) s = .next t ∧ s.sameMem t ∧
         s.started t { id := 0, form := .st, inSt := true, va := va.toNat }
           { by_ := .seq s.cur, path := 0, kind := .write, va := va.toNat, wr := bytes, dep := dep }) ∧
     (s.ready [d, a, b] → (x.reg b).toNat < 2 ^ 48 → s.reaches vb n 1 k →
       ∃ t, exec (.stv d a b z o7) s = .next t ∧ s.sameMem t ∧
         s.started t { id := 0, form := .st, inSt := true, va := vb.toNat }
           { by_ := .seq s.cur, path := 0, kind := .vstore, va := vb.toNat, ver := (x.reg b).toNat, wr := bytes, dep := dep }) ∧
     (s.ready [a, b] → (x.reg b).toNat < 2 ^ 48 → s.reaches vb 8 1 k →
       ∃ t, exec (.recl a b o7) s = .next t ∧ s.sameMem t ∧
         s.started t { id := 0, form := .st, inSt := true, va := vb.toNat }
           { by_ := .seq s.cur, path := 0, kind := .retire, va := vb.toNat, ver := (x.reg b).toNat, rd := keyRange k 8, dep := x.taintOf a }))




/-- R292, R262: AMO and ACAS start one atomic update of a word or dword, which counts in LD and in ST and owes d the old
value; an ACAS compares with the old d. What each integer update makes of an old value and an operand of n bits. -/
def Obligations.AtomicsStart : Prop :=
  (∀ (s : State) (d a b : Reg) (z : BitVec 1) (op : BitVec 4) (k : Nat), s.ready [d, a, b] →
    let x := s.ctx s.cur
    let n := if z = 0#1 then 4 else 8
    let va := x.reg a
    let o : Op := { id := 0, form := .amo, inLd := true, inSt := true, dst := if d = 0#5 then none else some d, taint := x.taintOf a,
                    va := va.toNat, n := n }
    let r : Req := { by_ := .seq s.cur, path := 0, kind := .atomic, va := va.toNat, dep := x.taintOf a || x.taintOf b }
    x.nLd < 64 → x.nSt < 64 → s.reaches va n 1 k →
    (∃ t, exec (.amo d a b z op) s = .next t ∧ s.sameMem t ∧
      s.started t o { r with ats := [{ key := k, op := op.toNat, dword := n == 8, fp := false, cas := none, x := x.reg b }] }) ∧
    (∃ t, exec (.acas d a b z) s = .next t ∧ s.sameMem t ∧
      s.started t o { r with
        ats := [{ key := k, op := 8, dword := n == 8, fp := false, cas := some (x.reg d), x := x.reg b }]
        dep := x.taintOf a || x.taintOf b || x.taintOf d })) ∧
  (∀ (n old x : Nat), (n = 32 ∨ n = 64) → old < 2 ^ n → x < 2 ^ n →
    let so : Int := if 2 * old < 2 ^ n then (old : Int) else (old : Int) - (2 ^ n : Nat)
    let sx : Int := if 2 * x < 2 ^ n then (x : Int) else (x : Int) - (2 ^ n : Nat)
    amoOp 0 n old x = (old + x) % 2 ^ n ∧ amoOp 1 n old x = Nat.land old x ∧ amoOp 2 n old x = Nat.lor old x ∧
    amoOp 3 n old x = Nat.xor old x ∧ amoOp 4 n old x = (if sx < so then x else old) ∧ amoOp 5 n old x = (if so < sx then x else old) ∧
    amoOp 6 n old x = Nat.min old x ∧ amoOp 7 n old x = Nat.max old x ∧ amoOp 8 n old x = x ∧ ∀ op ≤ 8, amoOp op n old x < 2 ^ n)


/-- R294, R295: FENCE with nothing of its scope under way, and WAITC with every class at its limit, go on and change
nothing else; FENCE waits with reason 1 while a store of its scope is under way. FENCEX goes on without changing the
value that any byte has; from then on every access of the context under way keeps its order with what follows (R209). With
source S it waits as FENCE does, for its stores alone unless the target is S too. -/
def Obligations.FencesAndWaits : Prop :=
  ∀ (s : State) (sc px py l st cp tl : BitVec 3),
    let x := s.ctx s.cur
    (x.owed = [] → s.fenceBusy s.cur sc.toNat false = false → ∃ t, exec (.fence sc) s = .next t ∧ s.wentOn t 4) ∧
    (x.owed = [] → s.fenceBusy s.cur sc.toNat false = true → ∃ t, exec (.fence sc) s = .next t ∧ s.waits t 1) ∧
    ((px = 0#3 → s.fenceBusy s.cur sc.toNat (py != 0#3) = false) → (px = 0#3 → py = 0#3 → x.owed = []) →
      ∃ t, exec (.fencex px py sc) s = .next t ∧ s.sameMem t ∧ t.ctx s.cur = { x with
        pc := x.pc + 4#64
        stall := 0
        bpDone := 0 } ∧
      t = { s with
        ctxs := t.ctxs
        mem := { s.mem with
          stale := t.mem.stale
          reqs := t.mem.reqs } } ∧
      ∀ i r, s.req i = some r →
        t.req i = some (if r.by_ = .seq s.cur ∧ r.applied = false then { r with fences := (s.mem.nextReq, sc.toNat) :: r.fences } else r)) ∧
    (px = 0#3 → (py = 0#3 → x.owed = []) → s.fenceBusy s.cur sc.toNat (py != 0#3) = true →
      ∃ t, exec (.fencex px py sc) s = .next t ∧ s.waits t 1) ∧
    (x.owed = [] → x.nLd ≤ l.toNat → x.nSt ≤ st.toNat → x.nCp ≤ cp.toNat → x.nTl ≤ tl.toNat →
      ∃ t, exec (.waitc l st cp tl) s = .next t ∧ s.wentOn t 4) ∧
    (x.owed = [] → (l.toNat < x.nLd ∨ st.toNat < x.nSt ∨ cp.toNat < x.nCp ∨ tl.toNat < x.nTl) →
      ∃ t, exec (.waitc l st cp tl) s = .next t ∧ s.waits t 1)

/-- R279, R288: the data of a load comes: once its request has been served, the completion of the operation writes the
bytes, zero-extended, to d with the operation's taint, and the operation leaves the LD count. -/
def Obligations.LoadCompletes : Prop :=
  ∀ (s : State) (c : Nat) (o : Op) (i : Nat) (r : Req) (d : Reg), c < 1024 → (s.ctx c).run ≠ .stopped → s.ctx c = { s.ctx c with ops := [o] } →
    (s.fab (coreOf c)).orphans = [] → o.form = .ld → o.inTl = false → o.req = some i → o.dst = some d → s.req i = some r →
    r.applied = true → r.bad = 0 →
    ∃ t, exec (.seqOperationComplete c 0) s = .next t ∧ (t.ctx c).ops = [] ∧ t.req i = none ∧
      (∀ e, (t.ctx c).reg e = if e = d ∧ d ≠ 0#5 then BitVec.ofNat 64 (leNat r.bytes) else (s.ctx c).reg e) ∧
      (∀ e, (t.ctx c).taintOf e = if e = d ∧ d ≠ 0#5 then o.taint else (s.ctx c).taintOf e) ∧
      (t.ctx c).pc = (s.ctx c).pc ∧ (∀ e, e ≠ c → t.ctx e = s.ctx e) ∧ s.sameMem t

/-! ### Tasks, messages, regions (R296 to R310) -/

/-- R300: GANG (major opcode 0x2D) writes the gang size and the rank to d, untainted. -/
def Obligations.GangReadsSizeAndRank : Prop :=
  ∀ (s : State) (d : Reg), s.cur < 1024 → s.ready [d] →
    let x := (s.ctx s.cur).task
    (∃ t, exec (.gang d) s = .next t ∧ s.wroteReg t d (BitVec.ofNat 64 (x.size * 2 ^ 32 + x.rank)) false 4) ∧
    (x.size = 1 → x.rank = 0 → ∃ t, exec (.gang d) s = .next t ∧ s.wroteReg t d 0x100000000#64 false 4) ∧
    decode (0x2D000000#32 ||| d.setWidth 32 <<< 19) 0#32 = .ok (.gang d)

/-- R299, R94, R95, R217: END of a task with its stores, copies and messages acknowledged empties the context, and the
launch counts it; TRIG lowers U once and goes on. U and E count records: a gang's counts with the last of its members
to trigger, or to end. R301, R279: BAR starts an operation of class TL and sets BARSTAT.PEND; while a BAR is pending another
waits with stall reason 4. R153: TRIG and BAR make every pending line of the task's subscriptions due. -/
def Obligations.EndTrigAndBar : Prop :=
  (∀ (s : State) (l : Launch), s.cur < 1024 → (s.ctx s.cur).owed = [] → (s.ctx s.cur).nSt = 0 → (s.ctx s.cur).nCp = 0 →
    let x := s.ctx s.cur
    s.launchOf x.task.lid = some l →
    let u := if x.task.notrig || x.task.triggered || !s.wholeRec s.cur x.task GangSt.trigs then l.u else l.u - 1
    let due (t : State) : Prop := ∀ y ∈ t.msg.subs, y.pubCtx = s.cur → ∀ e ∈ y.due, e.2 = some 0
    (∃ t, exec .end_ s = .next t ∧ t.ctx s.cur = {} ∧ (∀ d, d ≠ s.cur → t.ctx d = s.ctx d) ∧ s.sameMem t ∧
      t.launchOf x.task.lid = some { l with
        u := u
        e := if s.wholeRec s.cur x.task GangSt.ended then l.e - 1 else l.e }) ∧
    (∃ t, exec .trig s = .next t ∧ (∀ d, d ≠ s.cur → t.ctx d = s.ctx d) ∧ s.sameMem t ∧ due t ∧
      t.launchOf x.task.lid = some { l with u := u } ∧
      t.ctx s.cur = { x with
        pc := x.pc + 4#64
        stall := 0
        bpDone := 0
        task := { x.task with triggered := true } })) ∧
  (∀ s : State, s.cur < 1024 → (s.ctx s.cur).owed = [] →
    let x := s.ctx s.cur
    (x.csr.barPending = false → x.nTl < 64 →
      ∃ t, exec .bar s = .next t ∧ (∀ y ∈ t.msg.subs, y.pubCtx = s.cur → ∀ e ∈ y.due, e.2 = some 0) ∧
        (s.urge s.cur).startedOp t { id := 0, form := .bar, inTl := true } fun y =>
        { y with csr := { y.csr with barPending := true } }) ∧
    (x.csr.barPending = true → ∃ t, exec .bar s = .next t ∧ s.waits t 4))


/-- R296, R297, R298, R322, R323: the forms of class CP start their operations, which owe d a result where the form
has one. SPAWN reads 32 bytes and ARM the word on path S; JOIN sends its join once stores, copies and messages are acknowledged. -/
def Obligations.CpOperationsStart : Prop :=
  ∀ (s : State) (d a b : Reg) (k : Nat), (s.ctx s.cur).nCp < 64 →
    let x := s.ctx s.cur
    let owes : Option Reg := if d = 0#5 then none else some d
    (s.cur < 1024 → s.ready [d, a, b] → (x.reg a).toNat % 32 = 0 → s.reaches (x.reg a) 32 0 k →
      ∃ t, exec (.spawn d a b) s = .next t ∧
        s.started t { id := 0, form := .spawn, inCp := true, dst := owes, x := x.reg b, va := (x.reg a).toNat }
          { by_ := .seq s.cur, path := 0, kind := .read, va := (x.reg a).toNat, rd := keyRange k 32, dep := x.taintOf a }) ∧
    (s.cur < 1024 → s.ready [a] → x.owed = [] → (x.reg a).toNat < 2 ^ 32 → x.nSt = 0 → x.nCp = 0 →
      ∃ t, exec (.join a) s = .next t ∧
        t.ctx s.cur = x.withOp { id := 0, form := .join, inCp := true, x := x.reg a } ∧
        t.sch.joins = s.sch.joins ++ [((x.reg a).toNat, some (s.cur, x.nextOp))] ∧ s.sameMem t) ∧
    (s.cur < 1024 → d ≠ 0#5 → s.ready [d, a, b] → s.reaches (x.reg a) 8 0 k →
      ∃ t, exec (.arm d a b) s = .next t ∧
        s.started t { id := 0, form := .arm, inCp := true, dst := some d, va := (x.reg a).toNat
                      x := BitVec.ofNat 64 ((x.reg d).toNat % 2 ^ 32), y := BitVec.ofNat 64 ((x.reg b).toNat % 2 ^ 48) }
          { by_ := .seq s.cur, path := 0, kind := .read, va := (x.reg a).toNat, rd := keyRange k 8, dep := x.taintOf a }) ∧
    (s.ready [d, a, b] → (x.reg b).toNat % 2 ^ 16 < 2 ^ 6 → (x.reg b).toNat < 2 ^ 32 →
      ∃ t, exec (.capd d a b) s = .next t ∧
        s.startedOp t { id := 0, form := .capd, inCp := true, dst := owes, x := x.reg a, y := x.reg b, done := true } id) ∧
    (s.ready [d, a] → ∃ t, exec (.capv d a) s = .next t ∧
      s.startedOp t { id := 0, form := .capv, inCp := true, dst := owes, x := x.reg a, done := true } id) ∧
    (s.ready [a, b] → (x.reg b).toNat < 3 * 2 ^ 16 → s.privileged s.cur = true →
      ∃ t, exec (.tlbi a b) s = .next t ∧
        s.startedOp t { id := 0, form := .tlbi, inCp := true, x := x.reg a, y := x.reg b, done := true } id)

/-- R310, R63: SENDI gives the network one message of eight scalars, in order, from the context's endpoint under its
domain, when the destination is on this device and its inbox has room; a message to another device of the domain leaves as
an FMP packet. SEND issues a read of 64 bytes on path S, and gives the network the block once it has come: it issues a
second time then, the operation recorded and the context standing at its pc meanwhile, with stall reason 0 (the model's
choice, log entry 90). -/
def Obligations.MessagesAreSent : Prop :=
  ∀ (s : State) (a : Reg) (k : Nat), (s.ctx s.cur).nCp < 64 →
    let x := s.ctx s.cur
    let src := if s.cur = 1024 then 54 else s.cur / 128
    let sent (i : Instr) (ws : List W64) (y : Ctx) : Prop :=
      let m : Msg := { words := ws, pdom := x.task.pdom, sender := .seq s.cur, req := some x.nextOp, lid := x.task.lid }
      s.ownDev m.ddev = true → (s.inbox m.key).length < 64 →
      ∃ t, exec i s = .next t ∧ t.msg = { s.msg with net := s.msg.net ++ [{ msg := m, src := src }] } ∧
        t.ctx s.cur = y.withOp { id := 0, form := .send, inCp := true } ∧ (∀ d, d ≠ s.cur → t.ctx d = s.ctx d) ∧ s.sameMem t
    (a.toNat ≤ 24 → s.ready ((List.range 8).map fun i => a + BitVec.ofNat 5 i) →
      let ws := (List.range 8).map fun i => x.reg (a + BitVec.ofNat 5 i)
      let m : Msg := { words := ws, pdom := x.task.pdom, sender := .seq s.cur, req := some x.nextOp, lid := x.task.lid }
      sent (.sendi a) ws x ∧
      (s.ownDev m.ddev = false → s.inDomain m.ddev = true → ∃ t, exec (.sendi a) s = .next t ∧ s.sameMem t ∧ t.msg.net = s.msg.net ∧
        t.ctx s.cur = x.withOp { id := 0, form := .send, inCp := true, done := true, y := BitVec.ofNat 64 (m.ddev + 1) }) ∧
      (s.ownDev m.ddev = false → s.inDomain m.ddev = false → exec (.sendi a) s = .next (s.trap s.cur 0x16 0#64))) ∧
    (x.sendRead = none → s.ready [a] → s.sendWaits x a = false → s.reaches (x.reg a) 64 0 k →
      ∃ t, exec (.send a) s = .next t ∧ s.sameMem t ∧
        t.ctx s.cur = { x with
          ops := x.ops ++ [{ id := x.nextOp, form := .send, req := some s.mem.nextReq, x := x.pc, va := (x.reg a).toNat }]
          nextOp := x.nextOp + 1
          stall := 0 } ∧
        t.req s.mem.nextReq = some { by_ := .seq s.cur, path := 0, kind := .read, va := (x.reg a).toNat, rd := keyRange k 64,
                                     dep := x.taintOf a }) ∧
    (∀ (o : Op) (i : Nat) (r : Req), x.sendRead = some o → o.req = some i → s.req i = some r → r.applied = true → r.bad = 0 →
      sent (.send a) ((List.range 8).map fun j => BitVec.ofNat 64 (leNat ((r.bytes.drop (8 * j)).take 8))) (x.dropOp o))

/-- R303 to R305, R308: with FAB = 1 the region forms start operations of class TL, which complete in issue order; RUN
asks for a CFG since the last RUN, BOUND and INJ for a RUN since the last CFG. R93, R220: BOUND and INJ that name an element
in Winter (power 1) are held with stall reason 9 while it wakes. -/
def Obligations.RegionFormsStart : Prop :=
  ∀ (s : State) (d a b : Reg) (e : BitVec 8), s.cur < 1024 → (s.ctx s.cur).task.fab = true → (s.ctx s.cur).nTl < 64 →
    let x := s.ctx s.cur
    let A := x.reg a
    let B := x.reg b
    let inWindow (v : W64) : Prop := 0xFFFFFFFE00000000 ≤ v.toNat ∧ v.toNat < 0xFFFFFFFF00000000
    let controller := 0x40 ≤ e.toNat ∧ e.toNat < 0x50
    let generator := 0x38 ≤ e.toNat ∧ e.toNat < 0x3C
    let core := s.cur / 4
    let winter := (s.fab core).powerOf e.toNat = 1
    let held := (s.updFab core fun f => f.wake s.clk.fab e.toNat).stallFor s.cur 9
    (s.ready [a, b] → A.toNat % 64 = 0 → B.toNat % 32 = 0 → ¬ inWindow A → ¬ inWindow B →
      ∃ t, exec (.cfg a b) s = .next t ∧ s.startedOp t { id := 0, form := .cfg, inTl := true, x := A, y := B, n := s.mem.nextReq,
                                                             taint := x.taintOf a || x.taintOf b } fun y =>
        { y with
          cfgSince := true
          cfgFailed := false
          ranSince := false }) ∧
    (s.ready [a] → A.toNat < 2 ^ 32 → x.cfgSince = true →
      ∃ t, exec (.run a) s = .next t ∧
        s.startedOp t { id := 0, form := .run, inTl := true, x := A, n := if a = 0#5 then 0 else 1 } fun y =>
          { y with
            cfgSince := false
            ranSince := true }) ∧
    (s.ready [a] → (controller ∨ generator) → x.ranSince = true →
      (¬ winter → ∃ t, exec (.bound a e) s = .next t ∧
        s.startedOp t { id := 0, form := .bound, inTl := true, x := A, n := e.toNat, taint := x.taintOf a } id) ∧
      (winter → exec (.bound a e) s = .next held)) ∧
    (s.ready [a, b] → controller → (B = 4#64 ∨ B = 2#64 ∧ A.toNat < 2 ^ 16) → x.ranSince = true →
      (¬ winter → ∃ t, exec (.inj a b e) s = .next t ∧
        s.startedOp t { id := 0, form := .inj, inTl := true, x := A, y := B, n := e.toNat } id) ∧
      (winter → exec (.inj a b e) s = .next held)) ∧
    (s.ready [d, a] →
      ∃ t, exec (.part d a) s = .next t ∧
        s.startedOp t { id := 0, form := .part, inTl := true, dst := if d = 0#5 then none else some d, x := A } id)

/-- R306, R307: RSTAT reads fabric state of the task's own domain to d, untainted, and another domain's as 0, and its stall
reason is 8 (R277); one that names an element in Winter is held with reason 9 while it wakes (R93, R220). TIDW starts
a read of 64 bytes, TIDR a store of the entry's 64 bytes. -/
def Obligations.TensorTableAndStatus : Prop :=
  ∀ (s : State) (d a b : Reg) (n : BitVec 8) (k : Nat), s.cur < 1024 →
    let x := s.ctx s.cur
    let core := s.cur / 4
    let f := s.fab core
    let A := x.reg a
    (s.ready [d, a, b] → x.reg b = 0x200#64 →
      ∃ t, exec (.rstat d a b) s = .next (t.slow s.cur x.pc) ∧
        s.wroteReg t d (if x.task.pdom = f.pdom then BitVec.ofNat 64 f.status else 0#64) false 4) ∧
    (∀ i < 64, s.ready [d, a, b] → x.reg b = BitVec.ofNat 64 (0x40 + i) → x.task.pdom = f.pdom →
      ∃ t, exec (.rstat d a b) s = .next (t.slow s.cur x.pc) ∧
        s.wroteReg t d (BitVec.ofNat 64 (SMap.get 0 s.mem.arrive (core * 64 + i))) false 4) ∧
    (∀ (e u : Nat), s.ready [d, a, b] → A.toNat = e + 2 ^ 8 * u → e < 2 ^ 8 → u < 2 ^ 4 → elemAssigned e = true → x.task.pdom = f.pdom →
      let y := f.unit e (if 8 ≤ e ∧ e < 0x10 then u else 0)
      (f.powerOf e = 1 → (x.reg b).toNat ≤ 14 →
        exec (.rstat d a b) s = .next ((s.updFab core fun f => f.wake s.clk.fab e).stallFor s.cur 9)) ∧
      (f.powerOf e ≠ 1 → x.reg b = 12#64 → ∃ t, exec (.rstat d a b) s = .next (t.slow s.cur x.pc) ∧ s.wroteReg t d y.f0 false 4) ∧
      (f.powerOf e ≠ 1 → x.reg b = 13#64 → ∃ t, exec (.rstat d a b) s = .next (t.slow s.cur x.pc) ∧ s.wroteReg t d y.f1 false 4)) ∧
    (s.ready [a] → x.task.fab = true → A.toNat % 64 = 0 → x.nTl < 64 → s.reaches A 64 0 k →
      ∃ t, exec (.tidw a n) s = .next t ∧
        s.started t { id := 0, form := .tidw, inTl := true, n := n.toNat, va := A.toNat }
          { by_ := .seq s.cur, path := 0, kind := .read, va := A.toNat, rd := keyRange k 64, dep := x.taintOf a }) ∧
    (s.ready [a] → A.toNat % 64 = 0 → x.nSt < 64 → s.reaches A 64 1 k →
      ∃ t, exec (.tidr a n) s = .next t ∧ s.sameMem t ∧
        s.started t { id := 0, form := .tidr, inSt := true, va := A.toNat }
          { by_ := .seq s.cur, path := 0, kind := .write, va := A.toNat, wr := (keyRange k 64).zip (s.tidBytes core n.toNat), dep := x.taintOf a })

/-! ### CSRs and the system group (R318 to R321) -/

/-- R318, R319: CSRR reads each CSR to d, untainted: SELF holds the launch, the PDOM, whether it is the management
sequencer, the context and the core; VSTAT waits for an outstanding LDVT. R318: CSRW writes, CSRS sets and CSRC clears the
bits of s[a] in a CSR that is RW as a whole, and in the RW field INTRAP of TSTATUS; TREC keeps bits [5:0] at 0, and RO fields
stay. In W1C fields, those of BARSTAT, RSTS and MEVT, CSRW and CSRS clear what s[a] sets and CSRC nothing. R320: MEVT shows the management inbox and, while TIME has reached TIMECMP,
TIMER, which another TIMECMP leaves set. R277: after each the stall reason is 8, at its own pc. -/
def Obligations.CsrReadsAndWrites : Prop :=
  (∀ (s : State) (d : Reg), s.ready [d] →
     let x := s.ctx s.cur
     let reads (n : BitVec 12) (v : W64) : Prop := ∃ t, exec (.csrr d n) s = .next (t.slow s.cur x.pc) ∧ s.wroteReg t d v false 4
     reads 0x000#12 (BitVec.ofNat 64 (s.clk.fab - x.csr.cycleBase)) ∧ reads 0x001#12 (BitVec.ofNat 64 s.clk.time) ∧
     (s.cur < 1024 → reads 0x002#12
       (BitVec.ofNat 64 (x.task.lid * 2 ^ 32 + x.task.pdom * 2 ^ 16 + s.cur % 4 * 2 ^ 8 + s.cur / 4))) ∧
     (s.cur = 1024 → reads 0x002#12 (BitVec.ofNat 64 (x.task.lid * 2 ^ 32 + x.task.pdom * 2 ^ 16 + 2 ^ 10))) ∧
     reads 0x003#12 x.task.recw3 ∧
     reads 0x008#12 (BitVec.ofNat 64 (x.nLd * 2 ^ 24 + x.nSt * 2 ^ 16 + x.nCp * 2 ^ 8 + x.nTl)) ∧
     reads 0x010#12 x.csr.tvec ∧ reads 0x011#12 x.csr.tpc ∧ reads 0x012#12 (x.csr.tcause.setWidth 64) ∧ reads 0x013#12 x.csr.tdetail ∧
     reads 0x014#12 (BitVec.ofNat 64 (x.csr.inTrap.toNat + 2 * x.csr.deferred.toNat)) ∧ reads 0x015#12 x.csr.trec ∧
     reads 0x021#12 (BitVec.ofNat 64 (x.csr.barEpoch.toNat * 2 ^ 32 + 2 * x.csr.barPending.toNat + x.csr.barBroken.toNat)) ∧
     reads 0x022#12 (BitVec.ofNat 64 (x.csr.tidwRef.toNat + 2 * x.csr.cfgFail.toNat + 4 * x.csr.discard.toNat)) ∧
     ((∀ o ∈ x.ops, o.form ≠ .ldvt) → reads 0x020#12 (x.csr.vstat.setWidth 64)) ∧
     ((∃ o ∈ x.ops, o.form = .ldvt) → ∃ t, exec (.csrr d 0x020#12) s = .next t ∧ s.waits t 1) ∧
     (s.cur = 1024 → reads 0x101#12 (x.csr.mevtEn.setWidth 64) ∧ reads 0x102#12 x.csr.timecmp)) ∧
  (∀ (s : State) (a : Reg), s.ready [a] →
     let x := s.ctx s.cur
     let A := x.reg a
     let does (i : Instr) (r : Csrs) : Prop := ∃ t, exec i s = .next t ∧ s.onlyCtx t s.cur ∧ t.ctx s.cur = { x with
       pc := x.pc + 4#64
       stall := 8
       slowPc := x.pc
       bpDone := 0
       csr := r }
     does (.csrw a 0x010#12) { x.csr with tvec := A } ∧ does (.csrs a 0x010#12) { x.csr with tvec := x.csr.tvec ||| A } ∧
     does (.csrc a 0x010#12) { x.csr with tvec := x.csr.tvec &&& ~~~A } ∧
     does (.csrw a 0x011#12) { x.csr with tpc := A } ∧ does (.csrs a 0x011#12) { x.csr with tpc := x.csr.tpc ||| A } ∧
     does (.csrc a 0x011#12) { x.csr with tpc := x.csr.tpc &&& ~~~A } ∧
     does (.csrw a 0x012#12) { x.csr with tcause := A.setWidth 8 } ∧
     does (.csrs a 0x012#12) { x.csr with tcause := x.csr.tcause ||| A.setWidth 8 } ∧
     does (.csrc a 0x012#12) { x.csr with tcause := x.csr.tcause &&& ~~~(A.setWidth 8) } ∧
     does (.csrw a 0x013#12) { x.csr with tdetail := A } ∧ does (.csrs a 0x013#12) { x.csr with tdetail := x.csr.tdetail ||| A } ∧
     does (.csrc a 0x013#12) { x.csr with tdetail := x.csr.tdetail &&& ~~~A } ∧
     does (.csrw a 0x014#12) { x.csr with inTrap := A.getLsbD 0 } ∧
     does (.csrs a 0x014#12) { x.csr with inTrap := x.csr.inTrap || A.getLsbD 0 } ∧
     does (.csrc a 0x014#12) { x.csr with inTrap := x.csr.inTrap && !A.getLsbD 0 } ∧
     does (.csrw a 0x015#12) { x.csr with trec := A &&& ~~~63#64 } ∧
     does (.csrs a 0x015#12) { x.csr with trec := (x.csr.trec ||| A) &&& ~~~63#64 } ∧
     does (.csrc a 0x015#12) { x.csr with trec := x.csr.trec &&& ~~~A &&& ~~~63#64 } ∧
     does (.csrw a 0x021#12) { x.csr with barBroken := x.csr.barBroken && !A.getLsbD 0 } ∧
     does (.csrs a 0x021#12) { x.csr with barBroken := x.csr.barBroken && !A.getLsbD 0 } ∧
     does (.csrc a 0x021#12) x.csr ∧
     does (.csrw a 0x022#12) { x.csr with
       tidwRef := x.csr.tidwRef && !A.getLsbD 0
       cfgFail := x.csr.cfgFail && !A.getLsbD 1
       discard := x.csr.discard && !A.getLsbD 2 } ∧
     does (.csrs a 0x022#12) { x.csr with
       tidwRef := x.csr.tidwRef && !A.getLsbD 0
       cfgFail := x.csr.cfgFail && !A.getLsbD 1
       discard := x.csr.discard && !A.getLsbD 2 } ∧
     does (.csrc a 0x022#12) x.csr ∧
     (s.cur = 1024 →
       let seen := x.csr.mevt ||| (if x.csr.timecmp.toNat ≤ s.clk.time % 2 ^ 64 then 2#3 else 0#3)
       let cmp (v : W64) : Csrs := { x.csr with
         timecmp := v
         mevt := seen }
       does (.csrw a 0x100#12) { x.csr with mevt := x.csr.mevt &&& ~~~(A.setWidth 3) } ∧
       does (.csrs a 0x100#12) { x.csr with mevt := x.csr.mevt &&& ~~~(A.setWidth 3) } ∧ does (.csrc a 0x100#12) x.csr ∧
       does (.csrw a 0x101#12) { x.csr with mevtEn := A.setWidth 3 } ∧
       does (.csrs a 0x101#12) { x.csr with mevtEn := x.csr.mevtEn ||| A.setWidth 3 } ∧
       does (.csrc a 0x101#12) { x.csr with mevtEn := x.csr.mevtEn &&& ~~~(A.setWidth 3) } ∧
       does (.csrw a 0x102#12) (cmp A) ∧ does (.csrs a 0x102#12) (cmp (x.csr.timecmp ||| A)) ∧
       does (.csrc a 0x102#12) (cmp (x.csr.timecmp &&& ~~~A)))) ∧
  (∀ (s : State) (d : Reg), s.ready [d] → s.cur = 1024 →
     let x := s.ctx 1024
     ∃ t v, exec (.csrr d 0x100#12) s = .next (t.slow s.cur x.pc) ∧ s.wroteReg t d v false 4 ∧ v.toNat < 8 ∧
       (v.getLsbD 0 = true ↔ s.inbox (inboxKey 54 0 0) ≠ []) ∧ v.getLsbD 2 = x.csr.mevt.getLsbD 2 ∧
       (v.getLsbD 1 = true ↔ x.csr.mevt.getLsbD 1 = true ∨ x.csr.timecmp.toNat ≤ s.clk.time % 2 ^ 64))




/-- R318, R281: a CSR number outside the table, and a write to a CSR that is RO as a whole, raise the illegal-instruction
trap; CSRs 0x100 to 0x102 raise the privilege trap in every task, PDOM 0 included. -/
def Obligations.CsrTraps : Prop :=
  ∀ (s : State) (d a : Reg) (n : BitVec 12), s.hasHandler s.cur → s.ready [d] → s.ready [a] →
    let pc := (s.ctx s.cur).pc
    let traps (i : Instr) (cause : Nat) : Prop := ∃ t, exec i s = .next t ∧ s.tookTrap t s.cur cause 0#64 pc
    (0x003 < n.toNat ∧ n.toNat ≠ 0x008 ∧ n.toNat < 0x010 ∨ 0x015 < n.toNat ∧ n.toNat < 0x020 ∨ 0x022 < n.toNat ∧ n.toNat < 0x100 ∨
      0x102 < n.toNat → traps (.csrr d n) 1 ∧ traps (.csrw a n) 1 ∧ traps (.csrs a n) 1 ∧ traps (.csrc a n) 1) ∧
    (n.toNat ≤ 0x003 ∨ n.toNat = 0x008 ∨ n.toNat = 0x020 → traps (.csrw a n) 1 ∧ traps (.csrs a n) 1 ∧ traps (.csrc a n) 1) ∧
    (0x100 ≤ n.toNat ∧ n.toNat ≤ 0x102 → s.cur < 1024 →
      traps (.csrr d n) 3 ∧ traps (.csrw a n) 3 ∧ traps (.csrs a n) 3 ∧ traps (.csrc a n) 3)

/-- R320: NOP goes on; HALT stops a privileged context; IDLE goes on at once when MEVT & MEVTEN is nonzero and otherwise
waits with stall reason 10. R321, R232: with no breakpoint on it, ENTER pushes its region id on the stack, whose depth
saturates at 255 and whose entry 16 below is then overwritten, and LEAVE pops. An id of 0xFFFF or above raises the illegal-instruction trap with detail 2. -/
def Obligations.SystemForms : Prop :=
  (∀ s : State,
    let x := s.ctx s.cur
    (∃ t, exec .nop s = .next t ∧ s.wentOn t 4) ∧
    (s.privileged s.cur = true → ∃ t, exec .halt s = .next t ∧ s.onlyCtx t s.cur ∧ t.ctx s.cur = { x with run := .halted }) ∧
    (s.cur = 1024 →
      (Nat.land (s.mevt x) x.csr.mevtEn.toNat ≠ 0 → ∃ t, exec .idle s = .next t ∧ s.wentOn t 4) ∧
      (Nat.land (s.mevt x) x.csr.mevtEn.toNat = 0 → ∃ t, exec .idle s = .next t ∧ s.waits t 10))) ∧
  (∀ (s : State) (a : Reg), s.ready [a] →
    let x := s.ctx s.cur
    let v := x.reg a
    (v.toNat < 0xFFFF → s.breakpointsFor s.cur 1 v.toNat = [] →
      ∃ t, exec (.enter a) s = .next t ∧ s.onlyCtx t s.cur ∧ t.ctx s.cur = { x with
        pc := x.pc + 4#64
        stall := 0
        bpDone := 0
        depth := Nat.min (x.depth + 1) 255
        lost := Nat.max x.lost (x.depth - 15)
        stack := SMap.set 0#16 x.stack (x.depth % 16) (v.setWidth 16) }) ∧
    (v.toNat < 0xFFFF → s.breakpointsFor s.cur 2 v.toNat = [] →
      ∃ t, exec (.leave a) s = .next t ∧ s.onlyCtx t s.cur ∧ t.ctx s.cur = { x with
        pc := x.pc + 4#64
        stall := 0
        bpDone := 0
        depth := x.depth - 1
        lost := Nat.min x.lost (x.depth - 1) }) ∧
    (0xFFFF ≤ v.toNat → s.hasHandler s.cur →
      (∃ t, exec (.enter a) s = .next t ∧ s.tookTrap t s.cur 1 2#64 x.pc) ∧
      (∃ t, exec (.leave a) s = .next t ∧ s.tookTrap t s.cur 1 2#64 x.pc)))


/-- R281: the uses that raise the privilege trap with detail 0, with their conditions. -/
def Obligations.PrivilegeTraps : Prop :=
  ∀ (s : State) (d a b : Reg) (e : BitVec 8), s.hasHandler s.cur → s.ready [d, a, b] → (s.ctx s.cur).owed = [] →
    let x := s.ctx s.cur
    let traps (i : Instr) : Prop := ∃ t, exec i s = .next t ∧ s.tookTrap t s.cur 3 0#64 x.pc
    (s.cur < 1024 → x.task.pdom ≠ 0 → traps .halt) ∧ (s.cur < 1024 → traps .idle) ∧
    (s.cur = 1024 → traps (.spawn d a b) ∧ traps (.join a) ∧ traps (.arm d a b) ∧ traps .end_ ∧ traps .trig ∧
      traps (.gang d) ∧ traps .bar ∧ traps (.cfg a b) ∧ traps (.run a) ∧ traps (.bound a e) ∧ traps (.inj a b e) ∧
      traps (.rstat d a b) ∧ traps (.tidw a e) ∧ traps (.tidr a e) ∧ traps (.part d a)) ∧
    (s.cur < 1024 → x.task.fab = false → traps (.cfg a b) ∧ traps (.run a) ∧ traps (.bound a e) ∧ traps (.inj a b e) ∧
      traps (.part d a) ∧ traps (.tidw a e)) ∧
    (s.cur < 1024 → x.task.pdom ≠ 0 →
      (2 ≤ (x.reg b).toNat / 2 ^ 16 % 4 ∨ (x.reg b).toNat % 2 ^ 16 ≠ x.task.pdom) → traps (.tlbi a b))

/-! ### Package (R11 to R30, R38, R43) -/

/-- R13, R14, R15, R17: rails and clocks. PWRGD starts a reset hold of 2 ms, which ends no sooner; a rail out of its window
after PWRGD or a lost core reference resets every domain but the management block and sets its sticky bit (what a hold keeps, here the
management sequencer's registers and pc, is the model's choice, log entry 66); when the reference is back the boot begins
again, with context 1024 fresh (log entry 66), but for one that has failed (log entry 85 says what SB.STATUS then shows). A lost SerDes reference takes
down its four ports. A sensor at 115 °C, 920 units of 0.125 °C, asserts THERMTRIP_N. -/
def Obligations.RailsAndClocks : Prop :=
  ∀ s : State, s.pkg.vaux = true →
    (exec .pwrgdAssert s = .next { s with pkg := { s.pkg with
      rails := true
      pwrgd := true
      pwrgdAt := s.clk.up
      hold := true } }) ∧
    (s.pkg.pwrgd = true → s.pkg.hold = true →
      (s.pkg.pwrgdAt + 4000000 ≤ s.clk.up → exec .powerGoodHoldExpiry s = .next { s with pkg := { s.pkg with hold := false } }) ∧
      (s.clk.up < s.pkg.pwrgdAt + 4000000 → exec .powerGoodHoldExpiry s = .next s)) ∧
    (s.pkg.pwrgd = false → exec .pwrgdDeassert s = .next { s with pkg := { s.pkg with rails := false } }) ∧
    (s.pkg.pwrgd = true → ∃ t, exec .pwrgdDeassert s = .next t ∧ t.pkg = { s.pkg with
        rails := false
        pwrgd := false
        hold := true
        railFlt := true } ∧
      t.fabs = [] ∧ t.sch = {} ∧ (∀ c, c ≠ 1024 → t.ctx c = {}) ∧ (t.ctx 1024).regs = (s.ctx 1024).regs ∧ (t.ctx 1024).pc = (s.ctx 1024).pc) ∧
    (920 ≤ s.pkg.tempMax.toInt → exec .thermtripAssert s = .next { s with pkg := { s.pkg with
      thermtrip := true
      therm := true } }) ∧
    (s.pkg.tempMax.toInt < 920 → exec .thermtripAssert s = .next s) ∧
    (∃ t, exec .refclkCoreLoss s = .next t ∧ t.pkg = { s.pkg with
        refLost := true
        clkHold := true
        clkFlt := true } ∧
      t.fabs = [] ∧ t.sch = {} ∧ ∀ c, c ≠ 1024 → t.ctx c = {}) ∧
    (s.pkg.clkHold = true →
      (s.pkg.bootStage ≠ 0xFE#8 →
        ∃ t, exec .refclkCoreStable s = .next t ∧ t.ctx 1024 = { run := .running } ∧ t.pkg = { s.pkg with
          refLost := false
          clkHold := false
          bootStage := 0#8
          failCode := 0#8
          celOff := false
          recovery := false }) ∧
      (s.pkg.bootStage = 0xFE#8 →
        exec .refclkCoreStable s = .next { s with pkg := { s.pkg with
          refLost := false
          clkHold := false } })) ∧
    (∀ k < 3, ∃ t, exec (.serdesRefclkLoss k) s = .next t ∧ (∀ i < 4, (t.port (4 * k + i)).linkUp = false) ∧
      (∀ p, (∀ i < 4, p ≠ 4 * k + i) → t.port p = s.port p) ∧ s.sameMem t)

/-- R18, R14: a cold reset leaves the reset state under the fuses; a warm reset keeps the sticky bits, the fuses, the boot
count and THERMTRIP_N besides, and comes only while every rail is within its window; rails removed at once lose all state. -/
def Obligations.Resets : Prop :=
  ∀ s : State,
    (∃ t, exec .coldReset s = .next t ∧
      t = { State.reset with
        pkg := s.pkg.fused
        clk := { up := s.clk.up, tick := s.clk.tick }
        mem := { bytes := t.mem.bytes }
        net := { tx := s.net.tx }
        out := s.out
        agenda := s.agenda
        finds := s.finds } ∧
      t.pkg.status = 0 ∧ t.pkg.bootCount = s.pkg.bootCount ∧ t.mem.frames = [] ∧ t.xl.domValid = false) ∧
    (s.pkg.rails = false → exec .warmReset s = .next s) ∧
    (s.pkg.vaux = true → s.pkg.rails = true → ∃ t, exec .warmReset s = .next t ∧ t.pkg.bootStage = 0#8 ∧ t.pkg.clkFlt = s.pkg.clkFlt ∧ t.pkg.therm = s.pkg.therm ∧
      t.pkg.railFlt = s.pkg.railFlt ∧ t.pkg.thermtrip = s.pkg.thermtrip ∧ t.pkg.bootCount = s.pkg.bootCount ∧
      t.pkg.minSvn = s.pkg.minSvn ∧ t.mem.frames = [] ∧ t.xl.domValid = false ∧ t.fabs = [] ∧ t.sch = {} ∧
      ∀ c, t.ctx c = if c = 1024 then { run := .running } else {}) ∧
    (∀ vaux, ∃ t, exec (.railRemoval true vaux) s = .next t ∧ t.pkg.vaux = false ∧ t.pkg.thermtrip = false ∧ ∀ c, t.ctx c = {})

/-- R20 to R23, R35: a boot stage verifies the primary image, then the recovery image. When one passes, the stage measures
it, draws its keys and shows its number; the layer secret is gone once the fabric firmware is loaded. With both bad it shows
0xFE and the code of the check that the recovery image fails. Every ROM stage counts in the boot count, a failed one and
a repeated one too (the model's choice, log entry 85). No stage runs while the core reference is lost. -/
def Obligations.BootStages : Prop :=
  ∀ (s : State) (h body h1 body1 : List Byte), s.pkg.vaux = true →
    (s.pkg.clkHold = true → exec (.bootRomStage 0) s = .next s ∧ exec (.bootFabricFwStage 0) s = .next s ∧ exec .portsUp s = .next s) ∧
    (s.pkg.clkHold = false → s.pkg.bootStage = 0#8 → s.slotImage 1 0 = (h, body) → s.slotImage 1 1 = (h1, body1) →
      let a := s.pkg.verify (imageShape 1 h) h body false
      let b := s.pkg.verify (imageShape 1 h1) h1 body1 false
      let measured (p : Pkg) (image : List Byte) : Prop := p.bootStage = 1#8 ∧ p.mgmtMeas = Config.sha384 image ∧
        p.secretReadable = false ∧ p.layerSecret = Config.hmac384 Config.uniqueSecret (Config.sha384 image)
      ∃ t, exec (.bootRomStage 0) s = .next t ∧ t = { s with pkg := t.pkg } ∧ t.pkg.bootCount = s.pkg.bootCount + 1#32 ∧
        (a = 0 → measured t.pkg (h ++ body) ∧ t.pkg.recovery = false) ∧
        (a ≠ 0 → b = 0 → measured t.pkg (h1 ++ body1) ∧ t.pkg.recovery = true ∧ t.pkg.failCode = BitVec.ofNat 8 a) ∧
        (a ≠ 0 → b ≠ 0 → t.pkg.bootStage = 0xFE#8 ∧ t.pkg.failCode = BitVec.ofNat 8 b ∧ t.pkg.mgmtMeas = s.pkg.mgmtMeas)) ∧
    (s.pkg.clkHold = false → s.pkg.bootStage = 1#8 → s.slotImage 2 0 = (h, body) → s.slotImage 2 1 = (h1, body1) →
      let a := s.pkg.verify (imageShape 2 h) h body false
      let b := s.pkg.verify (imageShape 2 h1) h1 body1 false
      let measured (p : Pkg) (image : List Byte) : Prop := p.bootStage = 2#8 ∧ p.fabMeas = Config.sha384 image ∧
        p.aliasKey = Config.deriveKey s.pkg.layerSecret (Config.sha384 image) ∧ p.layerSecret = 0#384
      ∃ t, exec (.bootFabricFwStage 0) s = .next t ∧ t = { s with pkg := t.pkg } ∧
        (a = 0 → measured t.pkg (h ++ body)) ∧
        (a ≠ 0 → b = 0 → measured t.pkg (h1 ++ body1) ∧ t.pkg.recovery = true ∧ t.pkg.failCode = BitVec.ofNat 8 a) ∧
        (a ≠ 0 → b ≠ 0 → t.pkg.bootStage = 0xFE#8 ∧ t.pkg.failCode = BitVec.ofNat 8 b ∧ t.pkg.fabMeas = s.pkg.fabMeas)) ∧
    (s.pkg.clkHold = false → s.pkg.hold = false → s.pkg.bootStage = 2#8 → exec .portsUp s = .next { s with pkg := { s.pkg with bootStage := 3#8 } })

/-- R25, R27, R228: a private write of one byte sets the pointer and every further byte is NACKed; a private read gives
the register at the pointer, which goes on by 4; a read of a low half latches its high half. -/
def Obligations.Sideband : Prop :=
  ∀ s : State, s.pkg.vaux = true →
    (∀ b rest, exec (.i3cPrivateWrite (b :: rest)) s = .next { s with
      pkg := { s.pkg with sbPtr := b }
      out := s.out ++ rest.map fun _ => .nack }) ∧
    (∃ t w, exec (.i3cPrivateRead 1) s = .next t ∧ t.out = s.out ++ [.sb w]) ∧
    (s.pkg.sbPtr.toNat % 4 = 0 → s.pkg.sbPtr.toNat < 0xFC → ∃ t, exec (.i3cPrivateRead 1) s = .next t ∧
      t.pkg.sbPtr.toNat = s.pkg.sbPtr.toNat + 4 ∧ t.out = s.out ++ [.sb (BitVec.ofNat 32 (s.pkg.sbReg s.pkg.sbPtr.toNat))]) ∧
    (∃ t, exec .sbEnergyloRead s = .next t ∧
      t.out = s.out ++ [.sb (BitVec.ofNat 32 (s.pkg.energy / 100000 % 2 ^ 64 % 2 ^ 32))] ∧
      t.pkg.energyLatch = BitVec.ofNat 32 (s.pkg.energy / 100000 % 2 ^ 64 / 2 ^ 32)) ∧
    (∀ cl < 8, ∃ t, exec (.enAccLowRead cl) s = .next t ∧
      t.clu cl = { s.clu cl with enLatch := BitVec.ofNat 32 ((s.clu cl).enAcc / 100000 % 2 ^ 64 / 2 ^ 32) } ∧ s.sameMem t)

/-- R21, R30, R38, R43: links and port modes. With the boot over and no reset held, a link comes up, and runs without LLR or
CBFC when the peer declines it; a disabled port has none. When the ports that carry device traffic change, each circuit on
another port moves to one that does, in order: the lowest (log entry 97). A mode that would leave no data port is refused; the
switch comes once no open circuit is left, and closes the port's circuits to collectors. While the domains are held in
reset a mode's write has no effect (log entry 66). -/
def Obligations.LinksAndPortModes : Prop :=
  ∀ (s : State) (p : Nat),
    let x := s.port p
    let lands (t : State) (l : List Pdc) (f : Port) : Prop := t.port p = f ∧ (∀ q, q ≠ p → t.port q = s.port q) ∧
      t = { s with
        pkg := t.pkg
        net := t.net } ∧
      ∀ q, (s.setPort p f).dataPort = some q → s.net.wait = [] → t.net.wait = [] ∧ t.net.tx = s.net.tx ∧
        t.net.pdcs = l.map fun c => if (t.port c.port).carries || c.src / 64 == 1 then c else { c with port := q }
    let all := s.net.pdcs
    (∀ llr cbfc, s.pkg.bootStage = 3#8 → s.pkg.hold = false → s.pkg.clkHold = false → (x.modeAct ≠ 2 ∨ x.mode ≠ 2) →
      ∃ t, exec (.linkUp p llr cbfc) s = .next t ∧ lands t all { x with
        linkUp := true
        llrOff := x.llr && !llr
        cbfcOff := x.cbfc && !cbfc }) ∧
    (∀ llr cbfc, (s.pkg.bootStage ≠ 3#8 ∨ s.pkg.hold = true ∨ s.pkg.clkHold = true) → exec (.linkUp p llr cbfc) s = .next s) ∧
    (∃ t, exec (.linkDown p) s = .next t ∧ t.pkg = s.pkg ∧ lands t all { x with linkUp := false }) ∧
    (s.held = true → exec (.portModeTrace p) s = .next s ∧ exec (.portModeDisable p) s = .next s ∧ exec (.portModeData p) s = .next s) ∧
    (s.held = false → (∃ q < 12, q ≠ p ∧ (s.port q).mode = 0) →
      (∃ t, exec (.portModeTrace p) s = .next t ∧ t.pkg = s.pkg ∧ lands t all { x with mode := 1 }) ∧
      (∃ t, exec (.portModeDisable p) s = .next t ∧ t.pkg = s.pkg ∧ lands t all { x with mode := 2 })) ∧
    (s.held = false → (∀ q < 12, q ≠ p → (s.port q).mode ≠ 0) →
      exec (.portModeTrace p) s = .next (s.setPort p { x with modeRef := true }) ∧
      exec (.portModeDisable p) s = .next (s.setPort p { x with modeRef := true })) ∧
    (s.held = false → ∃ t, exec (.portModeData p) s = .next t ∧ t.pkg = s.pkg ∧ lands t all { x with mode := 0 }) ∧
    (x.modeAct ≠ x.mode → (x.mode = 0 → x.modeAct = 2 → x.linkUp = true) →
      (x.mode ≠ 0 → (∀ c ∈ all, c.port = p → c.src / 64 = 1) ∧ ∀ c ∈ s.net.inn, c.port ≠ p) →
      ∃ t, exec (.portModeSwitchComplete p) s = .next t ∧ t.pkg = s.pkg ∧ lands t (all.filter fun c => c.src != 64 + p) { x with
        modeAct := x.mode
        linkUp := x.linkUp && x.mode != 2 })

/-- R31, R43, R44, R240: the oldest record of an Attic that drains to a trace port leaves on its port, while that has a link, as
a Send under TRCOL's JobID to its collector; one that drains to the cellar leaves for the ring, whose write pointer counts its
64-byte units. -/
def Obligations.TraceDrains : Prop :=
  ∀ (s : State) (cl p : Nat) (r : List W64) (rest : List (List W64)), (s.clu cl).records = r :: rest →
    let col := (s.port p).trcol.toNat
    let gone (i : Instr) : Prop := ∃ t k, exec i s = .next t ∧ t.clu cl = { s.clu cl with records := rest } ∧ s.sameMem t ∧
      t.net.tx = s.net.tx ++ [k] ∧ k.port = p ∧ k.op = .send ∧ k.dst = .collector (col % 2 ^ 32) ∧
      k.job = col / 2 ^ 32 % 2 ^ 24 ∧ k.data = r.flatMap fun w => leBytes w.toNat 8
    ((s.port p).linkUp = true → (s.clu cl).attDest = 2 → s.tracePortOf cl = some p →
      (cl < 8 → (∀ d < cl, (s.clu d).attDest ≠ 2) → gone (.traceRecordSend p)) ∧ gone (.atticDrainSend cl)) ∧
    ((s.clu cl).attDest = 1 → s.pkg.celOff = false → r.length = 8 →
      ∃ t, exec (.atticDrainSend cl) s = .next t ∧ t.clu cl = { s.clu cl with
        records := rest
        wptr := (s.clu cl).wptr + 1#64 })

/-! ### What arrives at the ports (R29 to R38, R42, R73) -/

/-- R29, R34, R35, R42: a port that carries device traffic drops, and counts, a packet that needs a feature that R29 leaves out
or has another JobID than the configured domain's; one whose security check fails only sets AUTHFAIL. The messages of an FMP
packet that passes every check go to their inboxes in order; one with a bad header, count, length or reserved field is dropped
and counted, and so is remote memory traffic before the domain is configured. Where a packet fails both checks, that of
its security comes first (the model's choice, log entry 97). -/
def Obligations.PacketsAreChecked : Prop :=
  ∀ (s : State) (rx : Rx) (b : List Byte) (tss : Bool), (s.port rx.port).serves = true → s.inTss rx = some tss →
    let u := s.openIn rx tss
    let p := rx.port
    let taken := (tss = true → rx.via.auth = true) ∧ rx.via.known = true ∧ (s.xl.domValid = true → rx.job = s.xl.jobid.toNat)
    let dropped (v t : State) : Prop := t.msg = v.msg ∧ t.mem = v.mem ∧ t.net.inn = v.net.inn ∧
      t.port p = { s.port p with drops := Nat.min ((s.port p).drops + 1) (2 ^ 32 - 1) }
    (∀ (i : Instr) (dev cl pdom pa n op : Nat) (ver : Option Nat) (d : Bool) (x y : W64),
      (i = .fmpPacketReceive p rx.job rx.via b ∨ i = .remoteWriteArrive rx dev cl pa b ∨ i = .remoteVersionedWriteArrive rx dev cl pa n b ∨
        i = .remoteReadArrive rx dev cl pa n ∨ i = .remoteAtomicArrive rx dev cl pa op d x y ∨
        i = .hostUetRead rx pdom pa n ∨ i = .hostUetWrite rx pdom pa ver b ∨ i = .mgmtDebugUetAccess rx pa n none) →
      (tss = true → rx.via.auth = false → ∃ t, exec i s = .next t ∧ t.msg = s.msg ∧ t.mem = s.mem ∧
        t.port p = { s.port p with authFail := true }) ∧
      ((tss = true → rx.via.auth = true) → (rx.via.known = false ∨ s.xl.domValid = true ∧ rx.job ≠ s.xl.jobid.toNat) →
        ∃ t, exec i s = .next t ∧ dropped s t)) ∧
    (taken →
      let src := leNat ((b.drop 8).take 8) / 2 ^ 6 % 2 ^ 10
      let pdom := leNat ((b.drop 8).take 8) / 2 ^ 16 % 2 ^ 16
      let count := leNat ((b.drop 5).take 1)
      let wellMade := leNat (b.take 4) = 0x504D4646 ∧ leNat ((b.drop 4).take 1) = 1 ∧ 1 ≤ count ∧ count ≤ 16 ∧
        b.length = 16 + 64 * count ∧ leNat ((b.drop 6).take 2) = 0 ∧ leNat ((b.drop 8).take 8) % 2 ^ 6 = 0
      (wellMade → s.xl.domValid = true → s.domActive pdom = true → pdom ≠ 0 → src ≠ 0x3FF → src ∈ s.xl.members →
        ∃ t, exec (.fmpPacketReceive p rx.job rx.via b) s = .next t ∧
          t = { u with msg := { s.msg with net := s.msg.net ++ (fmpMsgs p rx.via.pdc b).map fun m => { msg := m, src := 48 + p / 2 } } }) ∧
      (¬ wellMade → ∃ t, exec (.fmpPacketReceive p rx.job rx.via b) s = .next t ∧ dropped u t) ∧
      (s.xl.domValid = false → ∀ (i : Instr) (dev cl pa n op : Nat) (d : Bool) (x y : W64),
        (i = .remoteWriteArrive rx dev cl pa b ∨ i = .remoteVersionedWriteArrive rx dev cl pa n b ∨
          i = .remoteReadArrive rx dev cl pa n ∨ i = .remoteAtomicArrive rx dev cl pa op d x y) →
        ∃ t, exec i s = .next t ∧ dropped u t))

/-- R31, R35, R202, R206, R215: traffic of a device of the domain to bytes that exist, with no request before it and no error found: a Write stores
its bytes in order and is acknowledged, a versioned Write to one word creates its version, is discarded, or waits at a full
version slot, a Read returns bytes, or the status and bytes of the version it asks for, an Atomic returns the old value
and stores the new one. Each answer leaves on the circuit of its request (R42). -/
def Obligations.RemoteTrafficIsServed : Prop :=
  ∀ (s : State) (rx : Rx) (tss : Bool) (dev cl pa : Nat) (data : List Byte) (keys : List Nat),
    (s.port rx.port).serves = true → s.inTss rx = some tss → (tss = true → rx.via.auth = true) → rx.via.known = true →
    (s.xl.domValid = true → rx.job = s.xl.jobid.toNat) → s.inDomain dev = true → s.mem.reqs = [] → s.held = false → s.found = .good →
    (∀ k ∈ keys, k < 2 ^ 60 ∧ isPool k = false) → s.net.wait = [] → (∀ c ∈ s.net.inn, c.id = rx.via.pdc → c.port = rx.port) →
    let answered (t : State) (op : UetOp) (l : List Byte) : Prop := t.mem.reqs = [] ∧ t.net.tx = s.net.tx ++ [{
      port := rx.port, op := op, src := 48, dst := .dev dev, job := s.xl.jobid.toNat, data := l, back := some rx.via.pdc, tss := tss }]
    (s.pieceKeys pa none data.length = some keys →
      ∃ t, exec (.remoteWriteArrive rx dev cl pa data) s = .next t ∧ s.wrote t (keys.zip data) ∧ answered t .write []) ∧
    (∀ v, s.pieceKeys pa none data.length = some keys → data ≠ [] → pa % 8 + data.length ≤ 8 → v < 2 ^ 48 →
      let w := s.wordVer (nth 0 keys 0)
      let i : Instr := .remoteVersionedWriteArrive rx dev cl pa v data
      (w.newest < v → s.versionFull (nth 0 keys 0) = false →
        ∃ t, exec i s = .next t ∧ s.wrote t (keys.zip data) ∧ (t.wordVer (nth 0 keys 0)).newest = v ∧ answered t .write []) ∧
      (w.newest < v → s.versionFull (nth 0 keys 0) = true →
        ∃ t r, exec i s = .next t ∧ s.sameMem t ∧ t.net.tx = s.net.tx ∧ t.req s.mem.nextReq = some r ∧ r.applied = false ∧
          r.heldAt = some s.clk.fab) ∧
      (v ≤ w.newest → ∃ t, exec i s = .next t ∧ s.sameMem t ∧ t.mem.vers = s.mem.vers ∧ answered t .write [])) ∧
    (∀ n, s.pieceKeys pa none n = some keys →
      (rx.ver = none → s.mem.stale = [] →
        ∃ t, exec (.remoteReadArrive rx dev cl pa n) s = .next t ∧ s.sameMem t ∧ answered t .read (keys.map s.byte)) ∧
      (∀ v, rx.ver = some v → n ≠ 0 → pa % 8 + n ≤ 8 → v < 2 ^ 48 →
        ∃ t, exec (.remoteReadArrive rx dev cl pa n) s = .next t ∧ s.sameMem t ∧
          answered t .read (match s.loadVersion (nth 0 keys 0) v with
            | none => [0#8]
            | some (w, image) => (if w = v then 1#8 else 2#8) :: ((leBytes image.toNat 8).drop (nth 0 keys 0 % 8)).take keys.length))) ∧
    (∀ op x, op < 9 → s.pieceKeys pa none 8 = some keys → pa % 8 = 0 →
      let k := nth 0 keys 0
      let old := leNat ((keyRange k 8).map s.byte)
      ∃ t, exec (.remoteAtomicArrive rx dev cl pa op true 0#64 x) s = .next t ∧
        s.wrote t ((keyRange k 8).zip (leBytes (amoOp op 64 old (x.toNat % 2 ^ 64)) 8)) ∧ answered t .atomic (leBytes old 8))

/-- R73, R72, R430: a host's access under an active domain of a configured device, translated by its port block to bytes of
this device, reads or writes them and completes; under a domain that is not active it ends with an error completion. Each
completion leaves on the circuit of its request (R42). The management registers answer a host only on a development part. -/
def Obligations.HostAccesses : Prop :=
  ∀ (s : State) (rx : Rx) (tss : Bool) (pdom va n : Nat) (data : List Byte) (keys : List Nat),
    (s.port rx.port).serves = true → s.inTss rx = some tss → (tss = true → rx.via.auth = true) → rx.via.known = true →
    (s.xl.domValid = true → rx.job = s.xl.jobid.toNat) → pdom ≠ 0 → rx.ver = none →
    s.held = false → s.found = .good → s.net.wait = [] → (∀ c ∈ s.net.inn, c.id = rx.via.pdc → c.port = rx.port) →
    let p := rx.port
    let u := s.openIn rx tss
    let answered (t : State) (op : UetOp) (err : Option Nat) (l : List Byte) : Prop := t.net.tx = s.net.tx ++ [{
      port := p, op := op, src := 48, dst := .host p, job := s.xl.jobid.toNat, data := l, back := some rx.via.pdc, tss := tss, err := err }]
    (s.domActive pdom = true → s.xl.domValid = true → (∀ k ∈ keys, k < 2 ^ 60 ∧ isPool k = false) → s.mem.reqs = [] →
      (u.rangeKeys (264 + p / 2) pdom 0 (n / 65536 + 2) va n = (u, .ok keys) → s.mem.stale = [] →
        ∃ t, exec (.hostUetRead rx pdom va n) s = .next t ∧ s.sameMem t ∧ answered t .read none (keys.map s.byte)) ∧
      (u.rangeKeys (264 + p / 2) pdom 1 (data.length / 65536 + 2) va data.length = (u, .ok keys) →
        ∃ t, exec (.hostUetWrite rx pdom va none data) s = .next t ∧ s.wrote t (keys.zip data) ∧
          answered t .write none [])) ∧
    (s.domActive pdom = false →
      (∃ t, exec (.hostUetRead rx pdom va n) s = .next t ∧ t = { u with net := t.net } ∧ answered t .read (some 5) []) ∧
      (∃ t, exec (.hostUetWrite rx pdom va none data) s = .next t ∧ t = { u with net := t.net } ∧ answered t .write (some 5) [])) ∧
    (∀ off, off < 2 ^ 32 - 2 ^ 24 → off % 8 = 0 →
      (s.pkg.development = true →
        ∃ t, exec (.mgmtDebugUetAccess rx (0xFFFFFFFE00000000 + off) 8 none) s = .next t ∧ t = { u with net := t.net } ∧
          answered t .read none (leBytes (u.regRead off).toNat 8)) ∧
      (s.pkg.development = false →
        ∃ t, exec (.mgmtDebugUetAccess rx (0xFFFFFFFE00000000 + off) 8 none) s = .next t ∧ t = { u with net := t.net } ∧
          answered t .read (some 7) []))

/-- R37, R38: a delivery context that fails or is closed is gone; with no request outstanding, the engine commands that have
reached its device end with cause 0xD: collectives for a RUDI context, the others for a ROD context. -/
def Obligations.DeliveryContextsFail : Prop :=
  ∀ (s : State) (i d : Nat) (c : Pdc), s.net.pdcs[i]? = some c → s.mem.reqs = [] → c.dst = .dev d →
    ∀ e : Instr, (e = .pdcRetransmitExhausted i ∨ e = .pdcClosedByPeer i) →
      ∃ t, exec e s = .next t ∧ t.net.pdcs = dropNth s.net.pdcs i ∧ s.sameMem t ∧
        ∀ u inbox x, u < 64 → inbox < 64 → s.cmd (4096 * c.src + 64 * u + inbox) = some x → x.finished = false → x.err = false →
          d ∈ x.devs → (c.pds = .rod ∧ u ≠ 2 ∨ c.pds = .rudi ∧ u = 2) →
          t.cmd (4096 * c.src + 64 * u + inbox) = some { x with
            finished := true
            err := true
            cause := 0xD
            result := d }

/-! ### Requests at their owning memory (R45, R59, R201 to R207, R215, R461) -/

/-- R201, R202, R207, R215: a request that nothing earlier holds up, to memory within reach: a write stores its bytes, a
read takes the bytes that are there when nothing is stale, a versioned store above the newest version with room creates
its version, an atomic returns the old value and stores the new one, a retirement drops the versions of its word at or below
its limit but the newest one. R461: a request to the issuer's own leaf is carried
out as it is delivered. (Requests of other devices and of hosts are answered as they are applied: RemoteTrafficIsServed and
HostAccesses.) -/
def Obligations.RequestsAreServed : Prop :=
  ∀ (s : State) (i : Nat) (r : Req), s.req i = some r → s.mayApply i = true → s.found = .good → s.reachable r = true → r.dev = none →
    s.bankBusy r.banked = false →
    (∀ k ∈ r.keys, k < 2 ^ 60) → (∀ d c, r.by_ ≠ .remote d c) → (∀ b, r.by_ ≠ .port b) →
    let applied (t : State) (r' : Req) : Prop := t.req i = some { r' with applied := true }
    (r.kind = .write → r.circ = 0 → ∃ t, exec (.memoryWriteApply i .good) s = .next t ∧ s.wrote t r.wr ∧ applied t r) ∧
    (r.kind = .read → s.mem.stale = [] →
      ∃ t, exec (.memoryReadServe i 0 .good) s = .next t ∧ s.sameMem t ∧ applied t { r with bytes := r.rd.map s.byte }) ∧
    (r.kind = .vstore → r.wr ≠ [] → (s.wordVer (nth 0 (r.wr.map Prod.fst) 0)).newest < r.ver →
      s.versionFull (nth 0 (r.wr.map Prod.fst) 0) = false →
      (∃ t, exec (.versionedStoreApply i) s = .next t ∧ s.wrote t r.wr ∧ applied t r ∧
        (t.wordVer (nth 0 (r.wr.map Prod.fst) 0)).newest = r.ver) ∧
      (r.heldAt.isSome = true → ∃ t, exec (.versionStoreWaitRelease i) s = .next t ∧ s.wrote t r.wr ∧ applied t r)) ∧
    (r.kind = .vstore → r.ver ≤ (s.wordVer (nth 0 (r.wr.map Prod.fst) 0)).newest →
      ∃ t, exec (.versionedStoreApply i) s = .next t ∧ s.sameMem t ∧ applied t r) ∧
    (r.kind = .retire →
      let k := nth 0 r.rd 0
      ∃ t, exec (.memoryWriteApply i .good) s = .next t ∧ s.sameMem t ∧ applied t r ∧
        t.wordVer k = { s.wordVer k with older := (s.wordVer k).older.filter fun v => r.ver < v.1 } ∧
        ∀ j, j / 8 ≠ k / 8 → t.wordVer j = s.wordVer j) ∧
    (∀ a, r.kind = .atomic → r.ats = [a] → a.fp = false → a.cas = none →
      let n := if a.dword then 64 else 32
      let old := leNat ((keyRange a.key (n / 8)).map s.byte)
      ∃ t, exec (.atomicApply i) s = .next t ∧ applied t { r with vals := [BitVec.ofNat 64 old] } ∧
        s.wrote t ((keyRange a.key (n / 8)).zip (leBytes (amoOp a.op n old (a.x.toNat % 2 ^ n)) (n / 8)))) ∧
    (∀ a e, r.kind = .atomic → r.ats = [a] → a.cas = some e → a.dword = true →
      let old := leNat ((keyRange a.key 8).map s.byte)
      ∃ t, exec (.atomicApply i) s = .next t ∧ applied t { r with vals := [BitVec.ofNat 64 old] } ∧
        s.wrote t (if old = e.toNat then (keyRange a.key 8).zip (leBytes a.x.toNat 8) else [])) ∧
    (r.kind = .write → r.circ = 0 → r.by_.endpoint = ownerOf (nth 0 r.keys 0) →
      ∃ t, exec (.localLeafDelivery i) s = .next t ∧ s.wrote t r.wr ∧ applied t r)


/-- R279, R47: the acknowledge of a store ends its operation; R206, R293: a store that waits past the stall limit is
dropped and its fault, cause 0xB, is owed; R59, R60: a lasting error, found by a retry or at once, ends the access with cause
0xA and is counted; a transient or a corrected one is counted and the access goes on; R45: a packet to an endpoint that does
not exist is discarded and counted, and R46: a resent flit has no effect of its own. -/
def Obligations.AcknowledgesAndErrors : Prop :=
  ∀ (s : State) (i c : Nat) (r : Req) (o : Op), s.req i = some r →
    (r.by_ = .seq c → (s.ctx c).run ≠ .stopped → r.kind = .write → r.applied = true → r.acked = false → r.bad = 0 → (s.ctx c).ops = [o] → o.req = some i →
      o.form = .st → o.inSt = true →
      ∃ t, exec (.writeAcknowledgeArrive i) s = .next t ∧ (t.ctx c).ops = [] ∧ t.req i = none ∧ s.sameMem t) ∧
    (∀ at_, c < 1024 → (s.ctx c).run ≠ .stopped → r.by_ = .seq c → r.heldAt = some at_ → r.applied = false → (s.ctx c).ops = [o] → o.req = some i → (s.ctx c).owed = [] →
      at_ + 2 ^ (s.clu (c / 128)).vstall ≤ s.clk.fab →
      ∃ t f, exec (.versionStallTimeout i) s = .next t ∧ (t.ctx c).ops = [] ∧ t.req i = none ∧ (t.ctx c).owed = [f] ∧ f.cause = 0xB ∧
        f.va = o.va ∧ s.sameMem t) ∧
    (∀ k rest, r.dev = none → s.mayApply i = true → s.reachable r = true → s.bankBusy r.banked = false → r.keys = k :: rest → (∀ j ∈ r.keys, j < 2 ^ 60) →
      (∀ d c, r.by_ ≠ .remote d c) → (∀ b, r.by_ ≠ .port b) →
      let counts (t : State) (lo n : Nat) : Prop :=
        SMap.get 0#64 t.mem.errcnt (errHome k) = countError lo n (SMap.get 0#64 s.mem.errcnt (errHome k))
      (∀ e, (e = .uncorrectableRetryResult i false ∨ r.kind = .write ∧ e = .memoryWriteApply i (.lasting 0) ∨
          r.kind = .read ∧ e = .memoryReadServe i 0 (.lasting 0)) →
        ∃ t, exec e s = .next t ∧ counts t 48 16 ∧ t.req i = some { r with
          applied := true
          bad := 0xA }) ∧
      (∀ e, r.kind = .write → r.circ = 0 → (e = .uncorrectableRetryResult i true ∨ e = .memoryWriteApply i (.transient 0)) →
        ∃ t, exec e s = .next t ∧ counts t 32 16 ∧ s.wrote t r.wr ∧ t.req i = some { r with applied := true }) ∧
      (r.kind = .write → r.circ = 0 →
        ∃ t, exec (.memoryWriteApply i (.corrected 0)) s = .next t ∧ counts t 0 32 ∧ s.wrote t r.wr ∧
          t.req i = some { r with applied := true })) ∧
    (∀ ep n rest, 56 ≤ ep → n.msg.dep = ep → s.msg.net = n :: rest →
      exec (.packetBaddstDiscard ep) s = .next (State.opDone { s with
        msg := { s.msg with net := rest }
        mem := { s.mem with baddst := BitVec.ofNat 32 (Nat.min (s.mem.baddst.toNat + 1) (2 ^ 32 - 1)) } } n.msg)) ∧
    exec (.flitCrcReplay i) s = .next s

/-! ### Translation (R52 to R58) -/

/-- R54 to R58: an access that misses takes a miss entry, at once or when one is free; each read of the walk, by one of the 64
walkers of its group (16 on the I/O die), checks one entry: a fault ends every request chained on it, a table leads a level down, a leaf whose frames the domain owns fills the
TLBs; otherwise the frames are zeroed and owned first. R53, R54: the causes of a walk, in order: an entry that is not
valid 2, reserved bits or a misplaced leaf 3; the right that an access needs is the entry's own. -/
def Obligations.WalksFollowTheTables : Prop :=
  (∀ (s : State) (i : Nat) (w : Want) (m : Miss),
    let g := l2Group (tlbGroup w.who)
    let page := w.va / 65536 * 65536
    let fresh := s.xl.wants[i]? = some w ∧ s.xl.misses.any (missOf g w.pdom page) = false ∧ s.l1Full w.who = false ∧
      (s.xl.misses.filter fun x => x.group == g).length < 1024
    let starts (e : Instr) : Prop := ∃ t x, exec e s = .next t ∧ t.xl.wants = dropNth s.xl.wants i ∧
      t.xl.misses = s.xl.misses ++ [x] ∧ x.group = g ∧ x.pdom = w.pdom ∧ x.va = page ∧ x.waiters = [(w.who, w.acc)] ∧ s.sameMem t
    (fresh → w.held = false → starts (.tlbMissWalkStart i)) ∧ (fresh → w.held = true → starts (.missEntryFree i)) ∧
    (s.xl.misses[i]? = some m → m.leaf = none → s.domActive m.pdom = true → s.hasWalker i m = true → s.found = .good →
      (∀ c, s.checkEntry m.pdom m.va m.level m.acc (s.entryAt m.table (idxOf m.va m.level)) = .fault c →
        ∃ t, exec (.walkLevelReadReturn i) s = .next t ∧ t.xl.misses = dropNth s.xl.misses i ∧ s.sameMem t ∧
          t.xl.faults = s.xl.faults ++ m.waiters.map fun w => (w.1, m.pdom, m.va, c)) ∧
      (∀ table, s.checkEntry m.pdom m.va m.level m.acc (s.entryAt m.table (idxOf m.va m.level)) = .down table →
        ∃ t, exec (.walkLevelReadReturn i) s = .next t ∧ s.sameMem t ∧ t.xl.misses = setNth s.xl.misses i { m with
          level := m.level + 1
          table := table }) ∧
      (∀ e, s.checkEntry m.pdom m.va m.level m.acc (s.entryAt m.table (idxOf m.va m.level)) = .leaf e → s.needsZero e = false →
        m.waiters = [] →
        ∃ t, exec (.walkLevelReadReturn i) s = .next t ∧ t.xl.misses = dropNth s.xl.misses i ∧ s.sameMem t ∧ e ∈ t.tlb m.group) ∧
      (∀ e, s.checkEntry m.pdom m.va m.level m.acc (s.entryAt m.table (idxOf m.va m.level)) = .leaf e → s.needsZero e = true →
        ∃ t, exec (.walkLevelReadReturn i) s = .next t ∧ t.xl.misses = setNth s.xl.misses i { m with leaf := some e } ∧ s.sameMem t)) ∧
    (∀ e, s.xl.misses[i]? = some m → m.leaf = some e → e.dev = none → m.waiters = [] →
      ∃ t, exec (.firstTouchZeroingDone i) s = .next t ∧ t.xl.misses = dropNth s.xl.misses i ∧ e ∈ t.tlb m.group ∧
        (∀ f ∈ framesOf e.base (2 ^ pageBits e.level), (t.frame f).owner = some e.pdom ∧
          ((s.frame f).owner ≠ some e.pdom → ∀ j < 65536, t.byte (f * 65536 + j) = Config.blankByte)) ∧
        ∀ k, k / 65536 ∉ framesOf e.base (2 ^ pageBits e.level) → t.byte k = s.byte k)) ∧
  (∀ (s : State) (pdom va level acc w : Nat), level < 5 →
    (w % 2 = 0 → s.checkEntry pdom va level acc w = .fault 2) ∧
    (w % 2 = 1 → w / 2 ^ 54 % 2 ^ 10 ≠ 0 → s.checkEntry pdom va level acc w = .fault 3) ∧
    (w % 2 = 1 → w / 2 % 2 = 1 → level < 2 → s.checkEntry pdom va level acc w = .fault 3) ∧
    (∀ e, s.checkEntry pdom va level acc w = .leaf e → w % 2 = 1 ∧ w / 2 % 2 = 1 ∧ 2 ≤ level ∧ e.pdom = pdom ∧ e.level = level ∧
      e.base % 2 ^ pageBits level = 0 ∧ (acc = 0 → e.rd = true) ∧ (acc = 1 → e.wr = true) ∧ (acc = 2 → e.ex = true)))

/-! ### Messages at their units, and the management block (R63 to R71, R72 to R75, R81, R82, R230, R431, R432) -/

/-- R63 to R67, R70, R71: a message that nothing earlier holds up enters its inbox behind the others, or waits in the
network while the inbox is full; a unit takes the message at the head of the highest inbox that it can, checks it and runs
it; a command whose effects are complete and acknowledged is done with, and its reply, where one is asked for, is a versioned store. -/
def Obligations.MessagesReachUnits : Prop :=
  ∀ s : State,
    (∀ i n, s.msg.net[i]? = some n → s.heldUp i n.msg = false → n.msg.exists_ = true → s.opens n.msg = true →
      let m := n.msg
      let enters (e : Instr) : Prop := ∃ t, exec e s = .next t ∧ t.inbox m.key = s.inbox m.key ++ [m] ∧
        (∀ k, k ≠ m.key → t.inbox k = s.inbox k) ∧ t.msg.net = dropNth s.msg.net i ∧ t = { s with msg := t.msg }
      ((s.inbox m.key).length < 64 → (n.waiting = false → enters (.messageInboxEnqueue i)) ∧
        (n.waiting = true → enters (.inboxAcceptAfterWait i))) ∧
      (64 ≤ (s.inbox m.key).length → n.waiting = false →
        exec (.messageInboxEnqueue i) s = .next { s with msg := { s.msg with net := setNth s.msg.net i { n with waiting := true } } })) ∧
    (∀ ep u inbox m rest, let key := inboxKey ep u inbox
      s.nextInbox ep u = some inbox → s.inbox key = m :: rest → s.msgFault m = none →
      ∃ t, exec (.unitTakeMessage ep u) s = .next t ∧ t.cmd key = some { msg := m, took := s.clk.tick } ∧ t.inbox key = rest ∧
        (∀ k, k ≠ key → t.cmd k = s.cmd k ∧ t.inbox k = s.inbox k) ∧ s.sameMem t) ∧
    (∀ ep u inbox c, let key := inboxKey ep u inbox
      s.cmd key = some c → c.finished = true → c.msg.host = false → s.acknowledged (.eng ep u inbox) = true →
      s.statusStored ep u c = true →
      (c.msg.word 1 = 0 → ∃ t, exec (.engineCommandComplete ep u inbox) s = .next t ∧ t.cmd key = none ∧ s.sameMem t) ∧
      (∀ pa k, c.err = false → c.msg.word 1 ≠ 0 → c.msg.word 1 % 8 = 0 → c.msg.word 2 < 2 ^ 48 →
        s.xlate (tlbGroup (.eng ep u inbox)) c.msg.pdom (w64 (c.msg.word 1)) 1 = .ok pa none → s.physKey pa = some k →
        (s.wordVer k).newest < c.msg.word 2 → s.versionFull k = false → s.held = false → s.found = .good →
        ∃ t, exec (.engineCommandComplete ep u inbox) s = .next t ∧ (t.wordVer k).newest = c.msg.word 2 ∧
          s.wrote t ((keyRange k 8).zip (leBytes (c.result % 2 ^ 57) 8))))

/-- R72 to R75, R81, R82, R22, R24, R35, R230, R431, R432: what each service of the management block does with a command that
passes its checks and reads memory without an error, while the management sequencer serves messages and no domain is held in
reset. Of its debug unit, HALT and an enabled breakpoint that holds the pc halt the sequencer before its next instruction,
STEP lets it run one, and RUN lets it go on; a breakpoint that is not enabled, or holds another pc, halts nothing. -/
def Obligations.ManagementServices : Prop :=
  (∀ (s : State) (c : Cmd), s.cmd (inboxKey 54 0 0) = some c → c.finished = false → s.found = .good → s.mgmtServes = true →
    s.held = false →
    let m := c.msg
    let W (i : Nat) : Nat := m.word i
    let ends (i : Instr) (P : State → Prop) (data : List Byte) : Prop := ∃ t r, exec i s = .next t ∧
      t.cmd (inboxKey 54 0 0) = some { c with
        finished := true
        result := r
        data := data } ∧ P t
    (m.opc = 1 → W 3 % 8 = 0 → ends .mgRead (fun t => t = { s with msg := t.msg }) (leBytes (s.regRead (W 3)).toNat 8)) ∧
    (m.opc = 2 → W 3 % 8 = 0 → exec .mgWrite s =
      .next ((s.regWrite (W 3) (nth 0#64 m.words 4) (W 5 % 2 ^ 8)).setCmd (inboxKey 54 0 0) (some (c.ok 0 [])))) ∧
    (m.opc = 3 → 0 < W 3 → W 3 < 0xFFFF → W 4 % 4096 = 0 → W 4 < 2 ^ 40 → s.domActive (W 3) = false → s.domsOn < 256 →
      let on (t : State) (dbg : Bool) : Prop := t.dom (W 3) = some { root := W 4, maxPrio := W 5 % 8, debug := dbg } ∧
        ∀ p, p ≠ W 3 → t.dom p = s.dom p
      (W 5 / 8 % 2 = 0 → ends .mgDomon (on · false) (leBytes 0 8)) ∧
      (W 5 / 8 % 2 = 1 → ∃ ck, ends .mgDomon (fun t => on t true ∧ t.capE (W 3) 0 = ⟨true, ck, 0, 63#6, none⟩)
        (leBytes (capHandle (W 3) 0 ck).toNat 8))) ∧
    (m.opc = 4 → s.domActive (W 3) = true → s.domBusy (W 3) = false →
      ends .mgDomoff (fun t => t.dom (W 3) = none ∧ ∀ p, p ≠ W 3 → t.dom p = s.dom p) []) ∧
    (∀ l, let h := l.take 256
      let body := (l.drop 256).take (bodyLen h)
      let code := s.pkg.verify (Config.domShape h) h body false
      m.opc = 5 → s.xl.domValid = false → 256 ≤ W 4 → W 4 ≤ 2 ^ 24 + 256 → s.mgFetch 0 (W 3) (W 4) .good = (s, .ok l) →
      ∃ t u, exec .mgDomcfg s = .next t ∧ t.cmd (inboxKey 54 0 0) = some u ∧ u.finished = true ∧ s.sameMem t ∧
        (code = 0 → u.err = c.err ∧ t.pkg = s.pkg ∧ t.xl = { s.xl with
          domValid := true
          jobid := Config.domJob body
          devnum := Config.domDev body
          members := Config.domMembers body
          domKey := Config.domKey body }) ∧
        (code ≠ 0 → u.err = true ∧ u.cause = 9 ∧ t.xl = s.xl ∧ t.pkg = { s.pkg with failCode := BitVec.ofNat 8 code })) ∧
    (∀ h body, let ty := leNat ((h.drop 4).take 2)
      let code := s.pkg.verify ((ty == 1 || ty == 2) && imageShape ty h) h body false
      m.opc = 6 → W 4 ≤ 1 → s.fetchImage (W 3) .good = (s, .ok (h, body)) →
      ∃ t u, exec .mgFwupd s = .next t ∧ t.cmd (inboxKey 54 0 0) = some u ∧ u.finished = true ∧
        (code = 0 → u.err = c.err ∧ t = { (s.writeFlash (slotKey ty (W 4)) (h ++ body)).raiseMinimum with msg := t.msg }) ∧
        (code ≠ 0 → u.err = true ∧ u.cause = 9 ∧ s.sameMem t ∧ t.pkg = { s.pkg with failCode := BitVec.ofNat 8 code })) ∧
    (∀ nonce, m.opc = 7 → s.mgFetch 0 (W 3) 48 .good = (s, .ok nonce) →
      ends .mgAttest (fun t => t = { s with msg := t.msg }) (s.report nonce)) ∧
    (m.opc = 8 → W 5 = 8 → inDebugWindow (W 4) = true →
      ends .mgDbgrd (fun t => t = { s with msg := t.msg })
        (leBytes (s.dbgRead (handleDom m) (W 4 % 65536 / 8 * 8)).toNat 8)) ∧
    (∀ keys, m.opc = 9 → inDebugWindow (W 4) = false → s.rangeKeys 271 (handleDom m) 1 2 (W 4) 8 = (s, .ok keys) →
      (∀ k ∈ keys, k < 2 ^ 60) → ends .mgDbgwr (fun t => s.wrote t (keys.zip (leBytes (W 5) 8))) [])) ∧
  (∀ s : State, (s.ctx 1024).run = .running →
      let dbg (i : Instr) (hit : Nat) : Prop := exec i s = .next { s with dbg := { s.dbg with
        mHit := hit
        mHalted := true
        mStep := false } }
      dbg .mdbgHalt 15 ∧
      (∀ i < 4, s.dbg.mHalted = false → (s.ctx 1024).bpDone = 0 → s.mdbgAt i (s.ctx 1024).pc = true → dbg (.mdbgBreakpointHit i) i) ∧
      (∀ i, s.mdbgAt i (s.ctx 1024).pc = false → exec (.mdbgBreakpointHit i) s = .next s) ∧
      (∀ i pc, s.mdbgAt i pc = true ↔ (SMap.get 0#64 s.dbg.mBp i).toNat % 2 = 1 ∧ (SMap.get 0#64 s.dbg.mBp i).toNat / 4 * 4 = pc.toNat) ∧
      exec .mdbgStep s = .next { s with dbg := { s.dbg with
        mStep := true
        mHalted := false } } ∧
      (s.dbg.mHalted = true →
        ∃ t, exec .mdbgRun s = .next t ∧ t = { s with
          dbg := { s.dbg with
            mHalted := false
            mStep := false }
          ctxs := t.ctxs } ∧ (∀ d, d ≠ 1024 → t.ctx d = s.ctx d) ∧ t.ctx 1024 = { s.ctx 1024 with bpDone := 1 }))

/-! ### Launches, records, gangs and barriers (R76, R77, R83 to R98, R301) -/

/-- R76, R77, R94: a LAUNCH that breaks no limit takes the next free id and enters the table with U = E = COUNT, then writes
its records, one at a time, each to the next cluster of CMASK; the reply follows the last (that each record is one
event of its own is the model's choice, log entry 69). At U = 0 the successors' joins
are sent; at E = 0 the second reply is written, after the first, and the entry freed. R87, R91, R92: joins and monitors. -/
def Obligations.LaunchesAndJoins : Prop :=
  ∀ s : State,
    (∀ c, let m := c.msg
      s.cmd (inboxKey 55 0 0) = some c → c.finished = false → m.opc = 0x50 →
      (∀ d lid, c.step = 0 → s.dom m.pdom = some d → m.launchBad d.maxPrio = none → s.sch.nextLid = lid → lid < 65536 →
        s.launchOf lid = none →
        ∃ t l, exec .launch s = .next t ∧ t.launchOf lid = some l ∧ l.u = m.lCount ∧ l.e = m.lCount ∧ l.pdom = m.pdom ∧
          l.written = 0 ∧ l.pred = s.predOf m ∧ (∀ j, j ≠ lid → t.launchOf j = s.launchOf j) ∧
          t.cmd (inboxKey 55 0 0) = some { c with
            step := 1
            result := lid } ∧ s.sameMem t) ∧
      (∀ l slot, let cl := maskCluster m.lCmask l.written
        c.step ≠ 0 → s.launchOf c.result = some l → s.clActive cl = true → s.findSlot cl = some slot →
        ∃ t r, exec .launch s = .next t ∧ t.recAt cl slot = some r ∧ r.code = nth 0#64 m.words 3 ∧
          r.frame = w64 (m.word 4 + 64 * (m.word 5 / 2 ^ 48 % 2 ^ 16) * l.written) ∧ r.pdom = m.pdom ∧ r.lid = c.result ∧
          r.prio = m.lPrio ∧ r.gang = m.lGang ∧ r.st = (if l.pred = none then .ready else .pending) ∧
          r.join = (if l.pred = none then 0 else 1) ∧ (∃ x, t.launchOf c.result = some x ∧ x.written = l.written + 1) ∧
          (l.written + 1 = m.lCount → t.cmd (inboxKey 55 0 0) = some (c.ok c.result [])) ∧ s.sameMem t)) ∧
    (∀ lid l, s.launchOf lid = some l →
      (∀ j x, l.u = 0 → s.successors lid = [(j, x)] → x.joined = false → x.written = x.msg.lCount →
        ∃ t, exec (.successorRelease lid) s = .next t ∧ t.sch.joins = s.sch.joins ++ x.handles.map (·, none) ∧
          t.launchOf j = some { x with joined := true }) ∧
      (l.e = 0 → l.donerep = true → l.replied = false → s.firstReplied lid = true → exec (.donerepReply lid) s =
        .next ((s.setLaunch lid (some { l with replied := true })).replyTo 55 0 .launchEngine l.msg (l.msg.word 2 + 1) 0#64 [])) ∧
      (l.e = 0 → l.donerep = false → l.preempted = false → s.successors lid = [] →
        ∃ t, exec (.launchTableEntryFree lid) s = .next t ∧ t.launchOf lid = none ∧ ∀ j, j ≠ lid → t.launchOf j = s.launchOf j)) ∧
    (∀ i cl slot r, let h := handleOf cl (s.gen cl slot) slot
      s.sch.joins[i]? = some (h, none) → cl < 8 → slot < 2 ^ 20 → s.gen cl slot < 2 ^ 8 → s.recAt cl slot = some r →
      r.st = .pending → s.clActive cl = true → s.preempted r.lid = false →
      ∃ t, exec (.joinApply i) s = .next t ∧ t.sch.joins = dropNth s.sch.joins i ∧
        t.recAt cl slot = some (if 1 < r.join then { r with join := r.join - 1 } else { r with
          join := 0
          st := .ready
          seq := s.sch.nextSeq
          since := s.clk.time
          readyAt := s.clk.time })) ∧
    (∀ i m, s.sch.monitors[i]? = some m → m.ver ≤ (s.wordVer m.key).newest →
      exec (.monitorFire i) s = .next { s with sch := { s.sch with
        monitors := dropNth s.sch.monitors i
        joins := s.sch.joins ++ [(m.handle, none)] } })

/-- R88, R256: the record that a cluster serves next starts its task on an idle context of a core where it is placeable: pc
at CODE, s30 the frame, every other scalar 0. R96, R98: a gang starts whole, its members ranked by core, each on the lowest idle context of its core
(the model's choice, log entry 72), its barrier at superstep 1 (log entry 74). R89, R97: a
record that is ready for 65,536 network cycles rises; an aged gang reserves the cores of its clusters on which it could run
(`reserveCores`: and those that become so, log entry 73). -/
def Obligations.RecordsAreDispatched : Prop :=
  ∀ (s : State) (cl slot : Nat) (r : Rec),
    let v := s.reserveCores
    (∀ core k, let c := 4 * core + k
      v.serveNext cl = some (slot, r) → r.gang = 0 → k < 4 → (s.ctx c).run = .idle → core ∈ v.placeCores cl slot r →
      ∃ t u, exec (.dispatch cl core k) s = .next t ∧ u.recAt cl slot = none ∧ u.ctx c = r.start s.clk.fab none 0 1 ∧
        (u.ctx c).pc = r.code ∧ (∀ i, (u.ctx c).reg i = if i = 30#5 then r.frame else 0#64) ∧
        (r.fab = true → (u.fab core).holder = some c) ∧ (∀ d, d ≠ c → u.ctx d = s.ctx d) ∧ (u.validTarget c r.code → t = u)) ∧
    (∀ cs, s.recAt cl slot = some r → r.st = .ready → 1 < r.gang → gangCores r.gang = some cs.length → cs.Pairwise (· < ·) →
      (∀ core ∈ cs, core ∈ v.placeCores cl slot r) → v.serveNext cl = some (slot, r) →
      let ms := cs.map fun core => (core, (s.idleCtx core).getD 0)
      ∃ u x, exec (.gangDispatch cl slot cs) s = .next ((ms.zip (List.range ms.length)).foldl
          (fun t m => t.startTask r m.1.1 m.1.2 (some s.sch.nextGang) m.2 ms.length) u) ∧
        u.recAt cl slot = none ∧ u.gangOf s.sch.nextGang = some x ∧ x.members = ms.map Prod.snd ∧ x.epoch = 1 ∧
        x.clusters = gangClusters r.gang cl ∧ x.broken = false ∧ ∀ d, u.ctx d = s.ctx d) ∧
    (s.recAt cl slot = some r → r.st = .ready → r.since + 65536 ≤ s.clk.time → r.prio < r.maxPrio →
      ∃ t, exec (.agePromotion cl slot) s = .next t ∧ t.recAt cl slot = some { r with
        prio := r.prio + 1
        since := s.clk.time
        seq := s.sch.nextSeq } ∧ ∀ k j, recKey k j ≠ recKey cl slot → t.recAt k j = s.recAt k j) ∧
    (∀ k, s.agedGangs k = [(cl, slot, r)] → s.recAt cl slot = some r → s.holdsResv cl slot k = false →
      exec (.gangReservationStart k) s = .next { s with sch := { s.sch with
        resv := SMap.set none s.sch.resv k (some (cl, slot, if s.barrierFree r.gang cl then (cores k).filter (s.coreFits r) else [])) } })

/-- R98, R301: a BAR in a task of gang size 1 completes with its stores; a member that arrives is noted; when every member has
arrived the barrier releases all of them with the superstep's number, from 1 modulo 2^16, also when one has ended since it
arrived (both the model's choice, log entry 74); a member that has ended without arriving breaks it, and
every outstanding BAR completes at once with the broken bit, as every later one does. -/
def Obligations.BarriersRelease : Prop :=
  ∀ (s : State) (c : Nat),
    let x := s.ctx c
    (c < 1024 → x.hasBar = true → x.run ≠ .stopped →
      (x.task.gang = none → x.barReady Op.inSt = true →
        ∃ t, exec (.barrierArrive c) s = .next t ∧ (t.ctx c).csr.barPending = false ∧ (t.ctx c).ops = x.ops.filter (·.form != .bar) ∧
          (∀ d, d ≠ c → t.ctx d = s.ctx d) ∧ s.sameMem t) ∧
      (∀ gi g, x.task.gang = some gi → s.gangOf gi = some g →
        (g.broken = false → (x.barReady fun o => o.inSt || o.inCp) = true → c ∉ g.arrived →
          ∃ t, exec (.barrierArrive c) s = .next t ∧ t.gangOf gi = some { g with arrived := g.arrived ++ [c] } ∧
            (∀ d, t.ctx d = s.ctx d) ∧ s.sameMem t) ∧
        (g.broken = true → ∃ t, exec (.barrierArrive c) s = .next t ∧ (t.ctx c).csr.barPending = false ∧
          (t.ctx c).csr.barBroken = true ∧ (t.ctx c).ops = x.ops.filter (·.form != .bar) ∧ s.sameMem t))) ∧
    (∀ gi g, s.gangOf gi = some g → g.broken = false → (∀ m ∈ g.members, (s.ctx m).run ≠ .stopped) →
      let live := g.members.filter fun m => (s.ctx m).task.gang == some gi
      ((∀ m ∈ g.members, m ∈ g.arrived ∧ ((s.ctx m).task.gang = some gi ∨ m ∈ g.ended)) →
        s.hubsBusy g (s.ctx (nth 0 live 0)).task = false →
        ∃ t, exec (.barrierRelease gi) s = .next t ∧ t.gangOf gi = some { g with
            epoch := g.epoch + 1
            arrived := [] } ∧ s.sameMem t ∧ (∀ d, d ∉ live → t.ctx d = s.ctx d) ∧
          ∀ m ∈ live, (t.ctx m).csr.barPending = false ∧ (t.ctx m).csr.barEpoch.toNat = g.epoch % 65536 ∧
            (t.ctx m).csr.barBroken = (s.ctx m).csr.barBroken ∧ (t.ctx m).regs = (s.ctx m).regs) ∧
      (∀ m ∈ g.ended, m ∉ g.arrived →
        ∃ t, exec (.barrierBreak gi) s = .next t ∧ t.gangOf gi = some { g with
            broken := true
            arrived := [] } ∧ s.sameMem t ∧
          ∀ m ∈ live, (s.ctx m).hasBar = true → (t.ctx m).csr.barPending = false ∧ (t.ctx m).csr.barBroken = true))

/-! ### Registers, power and the debug unit (R8, R79, R80, R100 to R105, R156, R218 to R237, R320, R427, R428) -/

/-- R8, R105, R156, R411, R427: stores to registers. STOP, REQ and KILL take effect at once; a CE.SLOT table at the next
entry 0; VSTALL keeps its value for a value out of range (log entry 24 says where entry 0 stands). A read-only register
and an unassigned offset ignore the write. While the domains are held in reset such stores have no effect (log entry 66). -/
def Obligations.RegistersAreWritten : Prop :=
  ∀ (s : State) (cl : Nat) (v : Bool) (w : W64),
    (s.held = true → ∀ ld i e p, exec (.queueDrainStopWrite cl v) s = .next s ∧ exec (.clpwrReqWrite cl v) s = .next s ∧
      exec (.ldCtxKill ld i) s = .next s ∧ exec (.ceSlotWrite cl e p w) s = .next s) ∧
    (s.held = false →
    (∃ t, exec (.queueDrainStopWrite cl v) s = .next t ∧ t.drainStop cl = v ∧ (∀ d, d ≠ cl → t.drainStop d = s.drainStop d) ∧
      t = { s with sch := { s.sch with stop := t.sch.stop } }) ∧
    (∃ t, exec (.clpwrReqWrite cl v) s = .next t ∧ t.clu cl = { s.clu cl with req := v } ∧
      (∀ d, d ≠ cl → t.clu d = s.clu d) ∧ t = { s with pow := { s.pow with clus := t.pow.clus } }) ∧
    (∀ ld i, ∃ t, exec (.ldCtxKill ld i) s = .next t ∧ t.ldCtx ld i = { s.ldCtx ld i with kill := true } ∧
      t = { s with msg := { s.msg with larders := t.msg.larders } }) ∧
    (∀ e p time, let i := 2 * e + p
      e < 2 → p < 2 → s.clk.time / 16 < time / 16 →
      ∃ t, exec (.ceSlotWrite cl e p w) s = .next t ∧ t.ceSlot cl i = s.ceSlot cl i ∧
        { t with clk := { t.clk with time := time } }.ceSlot cl i = BitVec.ofNat 64 (w.toNat % 2 ^ 48) ∧ s.sameMem t) ∧
    (∀ off, mregAt (off / 8 * 8) = .vstall cl →
      ∃ t, exec (.registerWrite off w 255) s = .next t ∧ s.sameMem t ∧ (∀ d, d ≠ cl → t.clu d = s.clu d) ∧
        t.clu cl = { s.clu cl with vstall := if 10 ≤ w.toNat % 64 ∧ w.toNat % 64 ≤ 30 then w.toNat % 64 else (s.clu cl).vstall }) ∧
    (∀ off, mregAt (off / 8 * 8) = .baddst → exec (.registerWrite off w 255) s =
      .next { s with mem := { s.mem with baddst := w.setWidth 32 } }) ∧
    (∀ off mask, mregAt (off / 8 * 8) ∈ [.domCfg, .enAcc cl, .clAck cl, .atticWptr cl, .none] →
      exec (.registerWrite off w mask) s = .next s))

/-- R221, R224, R228: temperatures, read in units of 0.125 °C, raise the damage integrals by their table, power fills or drains the bucket, and Summer
is in force exactly under its four conditions. R226, R227: save, gate, retention, Off and wake of a cluster. R320: the
timer event. R15: a reading of 115 °C or more asserts THERMTRIP_N. A wake from Off gives reset registers and zeroed pools. What
the 64 KiB of the save area hold, word by word, is the model's choice (log entry 19), and so is that while the domains are held
in reset these stores have no effect (log entry 66). -/
def Obligations.PowerStates : Prop :=
  ∀ (s : State) (cl : Nat),
    let x := s.clu cl
    let to_ (i : Instr) (y : Clu) : Prop := ∃ t, exec i s = .next t ∧ t.clu cl = y ∧ (∀ d, d ≠ cl → t.clu d = s.clu d) ∧ s.sameMem t
    let event (t : State) : Prop := t.ctx 1024 = { s.ctx 1024 with csr := { (s.ctx 1024).csr with mevt := (s.ctx 1024).csr.mevt ||| 4#3 } }
    (∀ temps, ∃ t, exec (.damageIntegralUpdate temps) s = .next t ∧ s.sameMem t ∧ ∀ k < 17,
      let T := (nth 0 temps k / 8).toNat
      let add := if T < 85 then 0 else if T < 90 then 1 else if T < 95 then 2 else if T < 100 then 4 else if T < 105 then 8
        else if T < 110 then 16 else 32
      t.dmg k = { s.dmg k with d := Nat.min ((s.dmg k).d + add - (s.dmg k).leak) (2 ^ 32 - 1) }) ∧
    (∀ temps : List Int, (∃ x ∈ temps.take 17, 920 ≤ x) → (∀ x ∈ temps.take 17, x < 2 ^ 31) →
      ∃ t, exec (.damageIntegralUpdate temps) s = .next t ∧ t.pkg.thermtrip = true) ∧
    (∀ mw, ∃ t, exec (.bucketUpdate mw) s = .next t ∧ s.sameMem t ∧
      t.pow.level = Nat.min (s.pow.cap * 100000) (s.pow.level + 1800000 - mw) ∧ t.pow.lastMw = mw ∧ t.pkg.energy = s.pkg.energy + mw ∧
      (t.pow.inSummer = true ↔ s.pow.summerReq = true ∧ 0 < t.pow.level ∧ mw ≤ 2300000 ∧ ∀ k < 17, 2 * (s.dmg k).d < (s.dmg k).limit * 256)) ∧
    (s.held = true → ∀ i ∈ [Instr.clretSaveGo cl, .clclkGate cl, .clrailRetention cl, .clrailOff cl, .clwake cl], exec i s = .next s) ∧
    (s.held = false → s.quiesced cl = true →
      (∃ t, exec (.clretSaveGo cl) s = .next t ∧ t.clu cl = { x with
          saveDone := false
          saveTail := (s.clSaveWords cl).drop 8192
          state := 1 } ∧ event t ∧
        ∀ k, s.physKey (x.retBase * 65536) = some k →
          s.wrote t (bytesAt k (((s.clSaveWords cl).take 8192).flatMap fun w => leBytes w.toNat 8))) ∧
      (∃ t, exec (.clclkGate cl) s = .next t ∧ event t ∧ s.sameMem t ∧ t.clu cl = { x with
        gate := true
        rail := 0
        records := []
        lossOwed := Nat.min (x.lossOwed + x.records.length) (2 ^ 32 - 1)
        state := 2 })) ∧
    (s.quiesced cl = false → exec (.clretSaveGo cl) s = .next s ∧ exec (.clclkGate cl) s = .next s) ∧
    (x.state = 1 → to_ (.clretSaveComplete cl) { x with
      saveDone := true
      state := 0 }) ∧
    (s.held = false → x.state = 2 → (x.saveDone = true → to_ (.clrailRetention cl) { x with rail := 1 }) ∧
      to_ (.clrailOff cl) { x with
        rail := 2
        state := 3 } ∧
      to_ (.clwake cl) { x with
        wokeFrom := x.rail
        saveDone := false
        gate := false
        rail := 0
        state := 4 }) ∧
    (s.held = false → x.state = 3 → to_ (.clwake cl) { x with
      wokeFrom := 2
      saveDone := false
      gate := false
      rail := 0
      state := 4 }) ∧
    (s.held = false → x.state ≠ 2 → x.state ≠ 3 → to_ (.clwake cl) { x with wakeIgn := true }) ∧
    (x.state = 4 → ∃ t, exec (.springComplete cl) s = .next t ∧ (t.clu cl).state = 0 ∧ t.tlb (256 + cl) = [] ∧
      (x.wokeFrom = 0 → s.sameMem t) ∧
      (x.wokeFrom = 2 → (t.clu cl).vstall = 24 ∧ (t.clu cl).thDelay = 16 ∧ ∀ core, core / 32 = cl →
        t.fab core = {} ∧ ∀ j < Config.poolBytes, t.byte (poolKey core j) = Config.blankByte)) ∧
    ((s.ctx 1024).csr.timecmp.toNat ≤ s.clk.time % 2 ^ 64 → ∃ t, exec .timecmpMatch s = .next t ∧
      t.ctx 1024 = { s.ctx 1024 with csr := { (s.ctx 1024).csr with mevt := (s.ctx 1024).csr.mevt ||| 2#3 } } ∧
      ∀ d, d ≠ 1024 → t.ctx d = s.ctx d)

/-- R233 to R237: HALT stops the tasks that DBG.CTL names, with their cycle counters, and RUN lets them go on; a fabric stops at
its edge; captures begin, sample and end; a hit of an enabled breakpoint or watchpoint of the task's group is recorded, and traps, stops
or does nothing else as its ACTION says; one that the pc or the access does not meet is no hit. -/
def Obligations.DebugStops : Prop :=
  ∀ (s : State) (pdom : Nat),
    let d := s.dbgOf pdom
    (d.stopped = false → d.word 0x10 = 0 → d.word 0 / 2 ^ 10 % 2 = 1 →
      ∃ t, exec (.dbgHalt pdom) s = .next t ∧ (t.dbgOf pdom).stopped = true ∧ (t.dbgOf pdom).saFlt = true ∧
        (∀ c < 1024, (s.ctx c).run = .running → (s.ctx c).task.pdom = pdom →
          t.ctx c = { s.ctx c with
            run := .stopped
            froze := some ((s.ctx c).froze.getD s.clk.fab) }) ∧
        (∀ c, t.ctx c = s.ctx c ∨ t.ctx c = { s.ctx c with
            run := .stopped
            froze := some ((s.ctx c).froze.getD s.clk.fab) }) ∧ s.sameMem t) ∧
    (d.word 0x10 = 0 → (∀ e ∈ s.ctxs, e.1 < 1024 → s.validTarget e.1 (s.ctx e.1).pc) →
      ∃ t, exec (.dbgRun pdom) s = .next t ∧ (t.dbgOf pdom).stopped = false ∧ s.sameMem t ∧
        ∀ c < 1024, (s.ctx c).run = .stopped → (s.ctx c).task.pdom = pdom →
          (t.ctx c).run = .running ∧ (t.ctx c).pc = (s.ctx c).pc ∧ (t.ctx c).regs = (s.ctx c).regs) ∧
    (∀ core, (s.fab core).stopAt = true → (s.fab core).atEdge = true →
      exec (.fabricStopAtEdge core) s = .next (s.setFab core { (s.fab core).counted s.clk.fab with
        halted := true
        stopAt := false })) ∧
    (d.captureOn = false → ∃ t, exec (.captureStart pdom) s = .next t ∧ (t.dbgOf pdom).captureOn = true ∧
      (t.dbgOf pdom).samples = [] ∧ (t.dbgOf pdom).sampledAt = s.clk.fab ∧ (t.dbgOf pdom).word 0x18 % 2 = 1 ∧ s.sameMem t) ∧
    (d.captureOn = true → ∃ t, exec (.captureStop pdom) s = .next t ∧ (t.dbgOf pdom).captureOn = false ∧
      (t.dbgOf pdom).word 0x18 % 2 = 0 ∧ (∀ c, t.ctx c = s.ctx c) ∧ s.sameMem t) ∧
    (∀ c x, s.ctxs = [(c, x)] → c < 1024 → x.run = .running → x.task.pdom = pdom → d.captureOn = true → d.word 0x18 / 2 ^ 10 % 2 = 1 →
      d.word 0x18 / 2 ^ 6 % 2 = 0 →
      (d.sampledAt + 2 ^ (d.word 0x18 / 2 % 32) ≤ s.clk.fab →
        ∃ t, exec (.pcSample pdom) s = .next t ∧ (t.dbgOf pdom).sampledAt = s.clk.fab ∧
          SMap.get 0 (t.dbgOf pdom).samples (c / 128) = SMap.get 0 d.samples (c / 128) + 1 ∧ t.ctxs = s.ctxs ∧ s.sameMem t) ∧
      (s.clk.fab < d.sampledAt + 2 ^ (d.word 0x18 / 2 % 32) → exec (.pcSample pdom) s = .next s)) ∧
    (∀ c i a, c < 1024 → (s.ctx c).run = .running → (s.ctx c).task.pdom = pdom → d.stopped = false →
      let x := s.ctx c
      let noted (t : State) (n : Nat) : Prop := t.ctx c = { x with bpDone := n } ∧ (∀ e, e ≠ c → t.ctx e = s.ctx e) ∧ s.sameMem t
      let stops (t : State) (n : Nat) : Prop := t.ctx c = { x with
          bpDone := n
          run := .stopped
          froze := some (x.froze.getD s.clk.fab) } ∧ (t.dbgOf pdom).stopped = true ∧ (t.dbgOf pdom).stopCause = n ∧
        (t.dbgOf pdom).stopIndex = i ∧ (∀ e, (t.ctx e).regs = (s.ctx e).regs ∧ (t.ctx e).pc = (s.ctx e).pc) ∧ s.sameMem t
      let action (off : Nat) : Nat := d.word off / 2 ^ 7 % 4
      let whole (off : Nat) : Prop := d.word off / 2 ^ 9 % 4 = 2 ∧ d.word 0x10 = 0
      let trapped (t : State) (cause : Nat) (v : W64) : Prop := (t.ctx c).pc = x.csr.tvec ∧ (t.ctx c).csr.tcause.toNat = cause ∧
        (t.ctx c).csr.tdetail = v ∧ (t.ctx c).csr.tpc = x.pc ∧ (t.ctx c).csr.inTrap = true ∧ (t.ctx c).regs = x.regs
      (i ∉ s.breakpointsFor c 0 x.pc.toNat → exec (.breakpointHit c i) s = .next s) ∧
      ((∀ wr, s.watchSees x.task (w64 a) 8 wr 3 i = false) → exec (.watchpointHit c i a) s = .next s) ∧
      (s.breakpointsFor c 0 x.pc.toNat = [i] →
        let off := 0x100 + 32 * i
        (action off = 0 → ∃ t, exec (.breakpointHit c i) s = .next t ∧ noted t 1) ∧
        (action off = 1 → s.hasHandler c → ∃ t, exec (.breakpointHit c i) s = .next t ∧ trapped t 7 (BitVec.ofNat 64 i)) ∧
        (action off = 2 → whole off → ∃ t, exec (.breakpointHit c i) s = .next t ∧ stops t 1)) ∧
      (∀ wr, i < 4 → s.watchSees x.task (w64 a) 8 wr 3 i = true →
        let off := 0x200 + 32 * i
        (action off = 0 → ∃ t, exec (.watchpointHit c i a) s = .next t ∧ noted t 2) ∧
        (action off = 1 → s.hasHandler c → ∃ t, exec (.watchpointHit c i a) s = .next t ∧ trapped t 8 (BitVec.ofNat 64 a)) ∧
        (action off = 2 → whole off → ∃ t, exec (.watchpointHit c i a) s = .next t ∧ stops t 2)))

/-- R79, R80, R100 to R103: PREEMPT of a launch marks it, withholds its records and halts its tasks; each core's contexts
are then saved and freed; RESUME reserves the cores, and each is restored; RESUME of a region frozen by translation
faults of address generators runs it on in place. -/
def Obligations.PreemptAndResume : Prop :=
  ∀ (s : State) (c : Cmd), s.cmd (inboxKey 55 0 0) = some c → c.finished = false →
    let m := c.msg
    (∀ e pa lid l, m.opc = 0x51 → c.step = 0 → m.preemptBad = none → s.preemptLids m = .ok [lid] → s.launchOf lid = some l →
      (∀ y ∈ s.msg.subs, y.lid ≠ lid) →
      s.xlate 270 m.tdom (w64 (m.word 4)) 1 = .ok pa none → s.tlbLookup 270 m.tdom (va57 (w64 (m.word 4))) = some e → e.level = 2 →
      ∃ t p, exec .preempt s = .next t ∧ t.launchOf lid = some { l with preempted := true } ∧ p ∈ t.sch.preempts ∧ p.lids = [lid] ∧
        p.save = m.word 4 ∧ p.base = pa ∧ p.cores = s.targetCores m.tdom [lid] ∧
        (∀ k < 1024, s.ctxHit m.tdom [lid] k = true → t.ctx k = { s.ctx k with
          run := .preempted
          froze := some ((s.ctx k).froze.getD s.clk.fab)
          barHeld := (s.ctx k).csr.barPending }) ∧
        (∀ k < 1024, s.ctxHit m.tdom [lid] k = false → t.ctx k = s.ctx k) ∧ s.sameMem t) ∧
    (∀ p core, m.opc = 0x51 → s.sch.preempts.find? (fun p => p.cores.contains core) = some p → s.maySave core = true →
      ∃ t q x, exec (.preemptCoreSave core) s = .next t ∧ (∀ k < 4, (s.ctx (4 * core + k)).run = .preempted → t.ctx (4 * core + k) = {}) ∧
        (∀ k, k / 4 ≠ core → t.ctx k = s.ctx k) ∧ q ∈ t.sch.preempts ∧ x ∈ q.saved ∧ x.core = core ∧ core ∉ q.cores) ∧
    (∀ e pa p, m.opc = 0x52 → c.step = 0 → m.scope = 0 → m.resumeBad = none → s.preemptsFor m = [p] → p.save = m.word 4 → p.saved ≠ [] →
      s.xlate 270 m.tdom (w64 (m.word 4)) 1 = .ok pa none → s.tlbLookup 270 m.tdom (va57 (w64 (m.word 4))) = some e → e.level = 2 →
      ∃ t, exec .resume s = .next t ∧ t.cmd (inboxKey 55 0 0) = some { c with step := 1 } ∧
        (∀ x ∈ p.saved, SMap.get false t.sch.restoring x.core = true) ∧ (∀ k, t.ctx k = s.ctx k) ∧ s.sameMem t) ∧
    (∀ p x core, m.opc = 0x52 → s.sch.preempts.find? (fun p => p.resuming && p.saved.any fun x => x.core == core) = some p →
      p.saved.find? (fun x => x.core == core) = some x → s.mayRestore core = true → (x.ctxs.map Prod.fst).Nodup →
      ∃ t, exec (.resumeCoreRestore core) s = .next t ∧ SMap.get false t.sch.restoring x.core = false ∧
        ∀ e ∈ x.ctxs, (t.ctx e.1).task = e.2.task ∧ ((t.ctx e.1).run = .running ∨ (t.ctx e.1).run = .stopped)) ∧
    (m.opc = 0x52 → c.step = 0 → m.scope = 2 → m.resumeBad = none → (s.fab m.target).retryable = true → (s.fab m.target).pdom = m.pdom →
      ∃ t, exec .resumeRegion s = .next t ∧ t.cmd (inboxKey 55 0 0) = some (c.ok 0 []) ∧ (t.fab m.target).st = .running ∧
        (t.fab m.target).faultWord = [] ∧ (∀ e ∈ (t.fab m.target).units, e.2.frozen = false) ∧
        (∀ k, k ≠ m.target → t.fab k = s.fab k) ∧ s.sameMem t)

/-! ### Vector, predicate and stream nodes (R329 to R350, R364 to R373) -/

/-- R329, R332, R334 to R338, R341: the vector operations on INT32 lanes (VDOT4 on INT8), each lane by itself; the result's
predicate is that of R271, its dead lanes hold 0 (but for the fields of an address token, log entry 100), and it carries the
firing's taint. The bitwise ones, VSEL and VMOV act on
lanes of any type. -/
def Obligations.VectorIntegerForms : Prop :=
  ∀ (s : State) (core e k opc : Nat) (g : Fabric) (y : Fly), s.firing core e k opc g y →
    let n := (s.fab core).node e k
    let l := n.operands y
    let A := nth {} l 0
    let B := nth {} l 1
    let C := nth {} l 2
    let writes (i : Instr) (v : Nat → W32) : Prop := ∃ t, exec i s = .next t ∧
      s.wroteTok t core e k g (laneTok l (n.pred l) y.taint v)
    let compares (i : Instr) (v : Nat → W32) : Prop := ∃ t, exec i s = .next t ∧
      s.wroteTok t core e k g (dataTok (n.pred l) y.taint v)
    let cmp (_ : Nat) (b : Bool) : W32 := if b then BitVec.allOnes 32 else 0#32
    let sx (w : W32) (j : Nat) : Int := (w.extractLsb' (8 * j) 8).toInt
    (opc = 0x0A → writes (.vand core e k) fun i => A.lane i &&& B.lane i) ∧
    (opc = 0x0B → writes (.vor core e k) fun i => A.lane i ||| B.lane i) ∧
    (opc = 0x0C → writes (.vxor core e k) fun i => A.lane i ^^^ B.lane i) ∧
    (opc = 0x0D → writes (.vnot core e k) fun i => ~~~(A.lane i)) ∧
    (opc = 0x13 → writes (.vsel core e k) fun i => if C.lane i = 0#32 then B.lane i else A.lane i) ∧
    (opc = 0x20 → writes (.vmov core e k) fun i => A.lane i) ∧
    (n.ty = 6 → n.fn = 0 →
      (opc = 0x01 → writes (.vadd core e k) fun i => A.lane i + B.lane i) ∧
      (opc = 0x02 → writes (.vsub core e k) fun i => A.lane i - B.lane i) ∧
      (opc = 0x03 → writes (.vmul core e k) fun i => A.lane i * B.lane i) ∧
      (opc = 0x1A → writes (.vmad core e k) fun i => A.lane i * B.lane i + C.lane i) ∧
      (opc = 0x06 → writes (.vmin core e k) fun i => if (A.lane i).toInt ≤ (B.lane i).toInt then A.lane i else B.lane i) ∧
      (opc = 0x07 → writes (.vmax core e k) fun i => if (A.lane i).toInt ≤ (B.lane i).toInt then B.lane i else A.lane i) ∧
      (opc = 0x08 → writes (.vabs core e k) fun i => if (A.lane i).toInt < 0 then -(A.lane i) else A.lane i) ∧
      (opc = 0x09 → writes (.vneg core e k) fun i => -(A.lane i)) ∧
      (opc = 0x0E → writes (.vshl core e k) fun i => A.lane i <<< ((B.lane i).toNat % 32)) ∧
      (opc = 0x0F → writes (.vshr core e k) fun i => A.lane i >>> ((B.lane i).toNat % 32)) ∧
      (opc = 0x10 → writes (.vsha core e k) fun i => (A.lane i).sshiftRight ((B.lane i).toNat % 32)) ∧
      (opc = 0x12 → compares (.vcmp core e k) fun i => cmp i (A.lane i == B.lane i)) ∧
      (opc = 0x21 → writes (.vcls core e k) fun i => BitVec.ofNat 32 (clsOf 32 (A.lane i).toNat))) ∧
    (n.ty = 6 → n.fn = 8 → opc = 0x12 → compares (.vcmp core e k) fun i => cmp i ((A.lane i).toInt < (B.lane i).toInt)) ∧
    (n.ty = 6 → n.fn = 4 → opc = 0x14 → writes (.vcvt core e k) fun i => fpLane 1 n.rm (Fp.ofInt (A.lane i).toInt 0)) ∧
    (n.ty = 6 → n.fn = 20 → opc = 0x15 → writes (.vsat core e k) fun i =>
      BitVec.ofInt 32 (max (-2 ^ 15) (min (2 ^ 15 - 1) (A.lane i).toInt))) ∧
    (n.ty = 6 → n.fn = 24 → opc = 0x11 → writes (.vrshr core e k) fun i =>
      let d := (B.lane i).toNat % 32
      BitVec.ofInt 32 (max (-2 ^ 31) (min (2 ^ 31 - 1) (((A.lane i).toInt + (2 ^ d / 2 : Nat)) / 2 ^ d)))) ∧
    (n.ty = 4 → n.fn = 0 → opc = 0x1B → writes (.vdot4 core e k) fun i => BitVec.ofInt 32 ((C.lane i).toInt +
      sx (A.lane i) 0 * sx (B.lane i) 0 + sx (A.lane i) 1 * sx (B.lane i) 1 + sx (A.lane i) 2 * sx (B.lane i) 2 +
      sx (A.lane i) 3 * sx (B.lane i) 3))

/-- R332, R333, R194, R339 to R343: the FP32 forms, with one rounding of the exact value; reductions and prefix sums of
INT32 lanes over the live lanes; lane movement; predicates; FORK, which passes the token bit for bit. -/
def Obligations.VectorFloatAndLaneForms : Prop :=
  ∀ (s : State) (core e k opc : Nat) (g : Fabric) (y : Fly), s.firing core e k opc g y →
    let n := (s.fab core).node e k
    let l := n.operands y
    let A := nth {} l 0
    let B := nth {} l 1
    let C := nth {} l 2
    l.length = vecArity opc n.fn →
    let wrote (i : Instr) (p : BitVec 16) (v : Nat → W32) : Prop := ∃ t, exec i s = .next t ∧
      s.wroteTok t core e k g (dataTok p y.taint v)
    let lanes (i : Instr) (v : Nat → W32) : Prop := ∃ t, exec i s = .next t ∧ s.wroteTok t core e k g (laneTok l (n.pred l) y.taint v)
    let D (T : Tok) (i : Nat) : Fp := fp32.decode (T.lane i).toNat
    let fp (i : Instr) (x : Nat → Fp) : Prop := lanes i fun i => BitVec.ofNat 32 (fp32.encode n.rm (x i))
    let sum (T : Tok) (m : Nat) : W32 := (List.range m).foldl (fun a i => if T.live i then a + T.lane i else a) 0#32
    let allOf (f : Nat → Bool) (p : BitVec 16) : Prop := ∀ i < 16, p.getLsbD i = f i
    (n.ty = 1 → n.fn = 0 →
      (opc = 0x01 → fp (.vadd core e k) fun i => Fp.sum n.rm [D A i, D B i]) ∧
      (opc = 0x02 → fp (.vsub core e k) fun i => Fp.sum n.rm [D A i, (D B i).negate]) ∧
      (opc = 0x03 → fp (.vmul core e k) fun i => (D A i).mul (D B i)) ∧
      (opc = 0x04 → fp (.vfma core e k) fun i => Fp.sum n.rm [(D A i).mul (D B i), D C i]) ∧
      (opc = 0x05 → fp (.vfms core e k) fun i => Fp.sum n.rm [(D A i).mul (D B i), (D C i).negate]) ∧
      (opc = 0x16 → lanes (.vexp2 core e k) fun i => flushed 1 (exp2 (D A i))) ∧
      (opc = 0x17 → lanes (.vlog2 core e k) fun i => flushed 1 (log2 (D A i))) ∧
      (opc = 0x18 → lanes (.vrcp core e k) fun i => flushed 1 (rcp (D A i))) ∧
      (opc = 0x19 → lanes (.vrsq core e k) fun i => flushed 1 (rsq (D A i)))) ∧
    (opc = 0x1C → n.ty = 6 → n.fn = 0 →
      wrote (.vred core e k) (if A.pred = 0#16 then 0#16 else 1#16) fun _ => sum A 16) ∧
    (opc = 0x1D → n.ty = 6 → n.fn = 0 → wrote (.vscan core e k) A.pred fun i => sum A (i + 1)) ∧
    (opc = 0x1E → n.fn = 1 → ∃ p, allOf (fun i => A.live ((i + n.param % 16) % 16)) p ∧
      wrote (.vperm core e k) p fun i => A.lane ((i + n.param % 16) % 16)) ∧
    (opc = 0x1E → n.fn = 0 → ∃ p, allOf (fun i => A.live ((B.lane i).toNat % 16) && B.live i) p ∧
      wrote (.vperm core e k) p fun i => A.lane ((B.lane i).toNat % 16)) ∧
    (opc = 0x1F → wrote (.vbcst core e k) (if A.live (n.param % 16) then allLive else 0#16) fun _ => A.lane (n.param % 16)) ∧
    (n.fn = 0 → (opc = 0x28 → wrote (.pand core e k) (A.pred &&& B.pred) A.lane) ∧
      (opc = 0x29 → wrote (.por core e k) (A.pred ||| B.pred) A.lane) ∧
      (opc = 0x2A → wrote (.pxor core e k) (A.pred ^^^ B.pred) A.lane)) ∧
    (opc = 0x2B → wrote (.pnot core e k) (~~~A.pred) A.lane) ∧
    (opc = 0x30 → ∃ t, exec (.fork core e k) s = .next t ∧ s.wroteTok t core e k g A)

/-- R344 to R350, R364, R373: the stream nodes, SRC and SINK, an address generator's token, and ORDJ: the tokens that each
takes, and those that it writes to every output when all have room. -/
def Obligations.StreamNodes : Prop :=
  ∀ (s : State) (core e k : Nat),
    let f := s.fab core
    let u := unitSlot e k
    let n := f.node e k
    let c := (f.unit e u).car
    let os := outsOf n.omask
    let free (os : List Nat) (m : Nat) : Prop := f.roomAll e u os m = none
    let does (i : Instr) (ps os : List Nat) (l : List Tok) : Prop := free os l.length → ∃ t, exec i s = .next t ∧ s.passed t core e k ps os l
    (s.mayFire core e k 0x2C → ∀ a, f.look e u 0 = .tok a →
      (n.fn % 2 = 0 → does (.filt core e k) [0] os (if a.isData = true ∧ a.pred = 0#16 then [] else [a])) ∧
      (n.fn % 2 = 1 → a.isData = true → (c.vals ++ a.values).length < 16 → does (.filt core e k) [0] os [])) ∧
    (s.mayFire core e k 0x2D → ∀ b, f.look e u 1 = .tok b → b.isData = true →
      let place (vals : List W32) (taint : Bool) : Tok := dataTok b.pred (b.taint || taint) fun i =>
        nth 0#32 vals ((List.range i).filter b.live).length
      (b.count = c.vals.length → does (.expd core e k) [1] os [place c.vals c.taint]) ∧
      ∀ a, f.look e u 0 = .tok a → a.isData = true →
        let rest := a.values.drop c.n
        let m := b.count - c.vals.length
        0 < m → m ≤ rest.length → does (.expd core e k) (if m = rest.length then [0, 1] else [1]) os
          [place (c.vals ++ rest.take m) (c.taint || a.taint)]) ∧
    (s.mayFire core e k 0x2E → ∀ a, f.look e u 0 = .tok a → a.isData = true → f.head e u 1 = none →
      does (.mrg core e k) [0] os [a]) ∧
    (s.mayFire core e k 0x2F → ∀ a b, f.depth e u 0 = 0 → f.look e u 0 = .tok a → a.isData = true → f.look e u 1 = .tok b →
      b.isData = true → does (.splt core e k) [0, 1] [if b.live 0 = true ∧ b.lane 0 ≠ 0#32 then 1 else 0]
        [{ a with taint := a.taint || b.taint }]) ∧
    (s.mayFire core e k 0x31 →
      let K := n.fn % 16 + 1
      let first := dataTok allLive false fun _ => n.imm
      (∀ a, f.feedsBack e u = false → c.n = 0 → f.look e u 0 = .tok a → a.isData = true →
        does (.dly core e k) [0] os [if c.toks.length < K then first else nth {} c.toks 0]) ∧
      (f.feedsBack e u = true → c.n < K → ((f.unit e u).port 0).done = false →
        does (.dly core e k) [] os [if c.toks.length + c.n < K then first else nth {} c.toks (c.toks.length + c.n - K)])) ∧
    (s.mayFire core e k 0x32 → f.underCnt e u = true → n.fn % 2 = 0 →
      (c.n = 0 → (f.unit e u).injectDue = false → does (.src core e k) [] os [dataTok allLive false fun _ => n.imm]) ∧
      (c.n ≠ 0 → (f.unit e u).permits.headD false = true → f.doneHeld e u = false →
        does (.src core e k) [] os [{ kind := 1 }])) ∧
    (s.mayFire core e k 0x33 → ∀ a, n.ports = [0] → f.look e u 0 = .tok a → does (.sink core e k) [0] [] []) ∧
    (s.mayFire core e k 0x49 → (∀ p ∈ n.ports, ∃ a, f.head e u p = some a ∧ a.kind = 6) →
      does (.ordj core e k) n.ports os [{ kind := 6, taint := n.ports.any fun p => match f.head e u p with
        | some a => a.taint
        | none => false }]) ∧
    (s.mayFire core e 0 0x40 → isAg e = true → let g := (f.unit e 0).gen
      n.selA = 0 → f.head e 0 1 = none → g.ring = none → g.busy = true → g.stops = [] → g.space = 1 → k = 0 →
      does (.agen core e 0) [] os [addrTok ((g.row 0 + g.col * nth 0 g.str 0) % 2 ^ 32).toNat (n.els * nth 0 g.str 0)
        (lane3 (n.param % 2 ^ 8) 0 false false g.fmt 1) (firstLanes (Nat.min 16 ((nth 1 g.ext 0 - g.col + n.els - 1) / n.els))) c.taint])

/-! ### Memory nodes and matrix nodes (R128 to R132, R148, R363, R370 to R386) -/

/-- R363, R370 to R372, R374 to R378: what each memory node does with tokens that stand at its ports when its addresses
reach memory, their banks are free and there is room: a load sends its read; STN, STFE and ATN leave theirs in the egress
latch; a logged store, STVN and RECLN enter the tile's log, and no byte of memory changes; LDFE needs every granule full
and STFE every one empty. -/
def Obligations.MemoryNodes : Prop :=
  ∀ (s : State) (core e k : Nat), s.unitRoom core e k →
    let f := s.fab core
    let u := unitSlot e k
    let n := f.node e k
    let who : Agent := .unit core e u
    let b0 := ((f.unit e u).port 0).taken
    let first (la : List (Nat × Nat)) : Nat := (la.head?.map Prod.snd).getD 0
    let sends (i : Instr) (addr : Tok) (r : Req) : Prop := ∃ t, exec i s = .next t ∧
      s.startedUnit t core e k { req := some s.mem.nextReq, addr := addr, before := b0 } ∧ t.req s.mem.nextReq = some r
    let latchesAt (b : Nat) (i : Instr) (addr : Tok) (r : Req) : Prop := ∃ t, exec i s = .next t ∧
      s.startedUnit t core e k { req := none, addr := addr, latched := true, before := b } ∧ (t.fab core).egress = f.egress ++ [⟨e, k, r⟩]
    let latches := latchesAt b0
    let logs (i : Instr) (l : List LogE) : Prop := l.length ≤ 256 → ∃ t, exec i s = .next t ∧
      s.startedUnit t core e k { req := none, addr := {}, before := b0 } ∧ (t.fab core).log e = l
    (∀ i opc a ks dev, let la := a.laneAddrs a.pred
      let sz := elemBytes a.fmt
      (i = .ldn core e k ∧ opc = 0x41 ∨ i = .ldcn core e k ∧ opc = 0x43) → s.mayFire core e k opc → n.fn % 4 = 0 →
      f.look e u 0 = .tok a → a.isData = true → a.ring = false → s.lanesBad core a.space a.fmt n.els la = false →
      s.unitReaches core e k a.space 0 sz (elemAddrs n.els sz la) (n.els * sz) la ks dev →
      sends i a { by_ := who, path := 1, kind := .read, va := first la, dev := dev, rd := ks.flatten, consume := opc == 0x43, dep := a.taint }) ∧
    (∀ a b l ks dev, let la := a.laneAddrs (a.pred &&& b.pred)
      let sz := elemBytes a.fmt
      let wr := storeBytes n a.fmt b ks la
      f.heads e u [0, 1] = .toks l → l.map Prod.snd = [a, b] → a.isData = true → s.lanesBad core a.space a.fmt n.els la = false →
      s.unitReaches core e k a.space 1 sz (elemAddrs n.els sz la) (n.els * sz) la ks dev →
      (s.mayFire core e k 0x42 → n.fn % 2 = 0 → a.space ≠ 2 → latches (.stn core e k) {}
        { by_ := who, path := 1, kind := .write, va := first la, dev := dev, wr := wr, dep := a.taint || b.taint }) ∧
      (s.mayFire core e k 0x42 → (n.fn % 2 = 1 ∨ a.space = 2) → logs (.stn core e k) (s.logBytes k (f.log e) wr)) ∧
      (s.mayFire core e k 0x47 → a.space = 1 → (∀ x ∈ ks.flatten, s.isFull x = false) →
        latches (.stfe core e k) {}
          { by_ := who, path := 1, kind := .write, va := first la, circ := 3, wr := wr, dep := a.taint || b.taint })) ∧
    (∀ a b l ks dev, let la := a.laneAddrs a.pred
      f.heads e u [0, 1] = .toks l → l.map Prod.snd = [a, b] → a.isData = true → s.mayFire core e k 0x48 → n.ty = 6 →
      s.lanesBad core a.space a.fmt 1 la = false → elemBytes a.fmt = 4 →
      s.unitReaches core e k a.space 1 4 (la.map Prod.snd) 4 la ks dev →
      latches (.atn core e k) { a with taint := a.taint || b.taint } { by_ := who, path := 1, kind := .atomic, va := first la, dev := dev, ats := (ks.zip la).map fun x => ⟨nth 0 x.1 0, n.fn % 16, false, false, none, (b.lane x.2.1).setWidth 64⟩, dep := a.taint || b.taint }) ∧
    (∀ a ks dev, let la := a.laneAddrs a.pred
      let sz := elemBytes a.fmt
      s.mayFire core e k 0x46 → n.fn % 2 = 1 → f.look e u 0 = .tok a → a.isData = true → a.ring = false → a.space = 1 →
      s.lanesBad core 1 a.fmt n.els la = false → s.unitReaches core e k 1 0 sz (elemAddrs n.els sz la) (n.els * sz) la ks dev →
      (∀ x ∈ ks.flatten, s.isFull x = true) → s.found = .good →
      s.readFree { by_ := who, path := 1, kind := .read, va := 0, rd := ks.flatten, applied := true } = true →
      ∃ t, exec (.ldfe core e k) s = .next t ∧
        s.startedUnit t core e k { req := some s.mem.nextReq, addr := a, before := b0 } ∧
        (∀ x ∈ ks.flatten, t.isFull x = false)) ∧
    (∀ a v l ks dev, let sz := 2 ^ (n.fn % 4)
      f.heads e u [0, 1] = .toks l → l.map Prod.snd = [a, v] → a.isData = true → s.mayFire core e k 0x44 → s.wordBad core sz a v = false →
      (f.unit e u).pend = [] → s.unitReaches core e k a.space 0 sz [a.addr] sz [(0, a.addr)] ks dev →
      sends (.ldvn core e k) { taint := a.taint || v.taint } { by_ := who, path := 1, kind := .vload, va := a.addr, dev := dev, rd := ks.flatten, ver := v.version, dep := a.taint || v.taint, heldAt := some s.clk.fab }) ∧
    (∀ a b v l ks dev, let sz := 2 ^ (n.fn % 4)
      f.heads e u [0, 1, 2] = .toks l → l.map Prod.snd = [a, b, v] → a.isData = true → s.mayFire core e k 0x45 → s.wordBad core sz a v = false →
      s.unitReaches core e k a.space 1 sz [a.addr] sz [(0, a.addr)] ks dev →
      logs (.stvn core e k) (f.log e ++
        [⟨k, 1, ks.flatten.zip (leBytes ((b.lane 0).toNat + (b.lane 1).toNat * 2 ^ 32) sz), v.version, nth 0 ks.flatten 0, a.addr⟩])) ∧
    (∀ a v l ks dev, f.heads e u [0, 1] = .toks l → l.map Prod.snd = [a, v] → a.isData = true → s.mayFire core e k 0x4D →
      s.wordBad core 1 a v = false → s.unitReaches core e k a.space 1 1 [a.addr] 1 [] ks dev →
      logs (.recln core e k) (f.log e ++ [⟨k, 2, [], v.version, nth 0 ks.flatten 0, a.addr⟩])) ∧
    (∀ a b idx ks dev, let g := (f.unit e u).gen
      let c := (f.unit e u).car
      let sz := elemBytes g.fmt
      let row := addInt g.base.toNat (idx * nth 0 g.str 1 + (c.n2 * 16 * n.els * sz : Nat))
      let la := ((List.range 16).filter b.live).map fun j => (j, (row + j * n.els * sz) % 2 ^ 64)
      s.mayFire core e k 0x4B → c.toks = [a] → f.look e u 1 = .tok b → b.isData = true →
      idx = (a.lane (nth 0 ((List.range 16).filter a.live) c.n)).toInt → 0 ≤ idx → idx < (nth 0 g.ext 1 : Nat) →
      s.lanesBad core g.space g.fmt n.els la = false →
      s.unitReaches core e k g.space 1 sz (elemAddrs n.els sz la) (n.els * sz) la ks dev →
      latchesAt (b0 - 1) (.scat core e k) {} { by_ := who, path := 1, kind := .write, va := row, dev := dev, wr := storeBytes n g.fmt b ks la, dep := a.taint || b.taint }) ∧
    (∀ a key last, let pos := (f.unit e u).pos
      let o := (n.e 23 16 + pos) * 64
      s.mayFire core e k 0x4C → f.look e u 0 = .tok a → a.isData = true → s.spKey (rportCore core n) o = some key →
      s.spKey (rportCore core n) (o + 63) = some last → s.bankBusy (keyRange key 64) = false →
      (n.fn % 2 = 0 → s.watchesFor f.task (watchAddr 1 o) 64 false 4 = [] → ∃ t, exec (.rport core e k) s = .next t ∧
        s.startedUnit t core e k { req := some s.mem.nextReq, addr := { taint := a.taint, pred := a.pred }, before := b0 } ∧
        t.req s.mem.nextReq = some { by_ := who, path := 1, kind := .read, rd := keyRange key 64, dep := a.taint } ∧
        ((t.fab core).unit e u).pos = (pos + 1) % (n.e 39 16 + 1)) ∧
      (n.fn = 1 → (∀ i < 16, s.watchesFor f.task (watchAddr 1 (o + 4 * i)) 4 true 4 = []) →
        latches (.rport core e k) {} { by_ := who, path := 1, kind := .write, dep := a.taint, circ := 1, wr := ((List.range 16).filter a.live).flatMap fun i =>
                                                   (keyRange (key + 4 * i) 4).zip (leBytes (a.lane i).toNat 4) }))

/-- R380 to R385: the lowest slot of a matrix element that can fire fires. MLDB starts the read of the inactive latch, which
is READY once its bytes are there; MROW adds the products of a row and each column to accumulator row p; GTHR appends
the row addresses of its indices; on the stop that triggers it MACZ clears rows, MOUT writes rows and MSEL empties the
current latch. -/
def Obligations.MatrixNodes : Prop :=
  ∀ (s : State) (core e k : Nat), isMn e = true →
    let f := s.fab core
    let n := f.node e k
    let m := f.mat e
    let g := (f.unit e 0).gen
    let turn (opc : Nat) : Prop := s.mayFire core e k opc ∧ (List.range 4).find? (fun j => (mnTry s core e f j).fires) = some k
    let after (i : Instr) (P : State → Mat → Prop) : Prop := ∃ t, exec i s = .next t ∧ P t ((t.fab core).mat e) ∧ s.sameMem t ∧
      ∀ c, c ≠ core → t.fab c = s.fab c
    (∀ a ks dev, turn 0x50 → f.look e 0 1 = .tok a → a.isData = true → m.inactive.st = 0 → a.addr % 16 = 0 → a.space < 3 →
      s.spans core e a.space (colRanges n a.addr a.stride) = .keys ks dev →
      after (.mldb core e k) fun t x => x.inactive.st = 1 ∧ x.inactive.base = a.addr ∧ x.inactive.stride = a.stride ∧ x.current = m.current ∧
        x.acc = m.acc ∧ t.req s.mem.nextReq = some { by_ := .unit core e 0, path := 3, kind := .read, va := a.addr, dev := dev, rd := ks.flatten }) ∧
    (∀ i r, f.st = .running → m.l0.st = 1 → m.l0.req = some i → m.l1.req = none → s.req i = some r → r.applied = true → r.bad = 0 → m.l1.st ≠ 1 →
      (f.unit e 0).loadAt ≤ s.clk.fab →
      after (.mldbLoadComplete core e) fun t x => x.l0.st = 2 ∧ x.l0.req = none ∧ x.l1 = m.l1 ∧ t.req i = none ∧ x.acc = m.acc ∧
        x.l0.cols = (List.range 64).map fun j =>
          (r.bytes.drop (j * (f.node e ((f.mnSlot e 0x50).getD 0)).rowBytes)).take (f.node e ((f.mnSlot e 0x50).getD 0)).rowBytes) ∧
    (∀ a ks dev, turn 0x51 → n.fn / 4 % 2 = 0 → f.look e 0 0 = .tok a → a.isData = true → m.current.st = 2 → m.p < 32 → a.space < 3 →
      s.spans core e a.space (n.ranges a.addr) = .keys ks dev → (∀ x ∈ ks.flatten, x < 2 ^ 60) → s.mem.stale = [] →
      s.bankBusy ks.flatten = false → s.found = .good →
      s.readFree { by_ := .unit core e 0, path := 3, kind := .read, rd := ks.flatten } = true →
      after (.mrow core e k) fun _ x => x.p = m.p + 1 ∧ (∀ j < 64, SMap.get 0#32 x.acc (64 * m.p + j) =
          (n.mac (SMap.get 0#32 m.acc (64 * m.p + j)) (ks.flatten.map s.byte) (nth [] m.current.cols j)).1) ∧
        ∀ j, j / 64 ≠ m.p → SMap.get 0#32 x.acc j = SMap.get 0#32 m.acc j) ∧
    (∀ a, turn 0x4A → f.look e 0 2 = .tok a → a.isData = true → m.gatherFull = false →
      let l := ((List.range 16).filter a.live).map fun i => (a.lane i).toInt
      m.gather.length + l.length ≤ 32 → (∀ x ∈ l, 0 ≤ x ∧ x < (nth 0 g.ext 1 : Nat)) →
      after (.gthr core e k) fun _ x => x.gather = m.gather ++ l.map fun x => addInt g.base.toNat (x * nth 0 g.str 1)) ∧
    (∀ a, f.look e 0 0 = .tok a → a.isStop = true → f.nextTrig e a.level = some k →
      (turn 0x52 → after (.macz core e k) fun _ x => x.acted = k + 1 ∧ ∀ j,
        (n.e 23 32 / 2 ^ (j / 64) % 2 = 1 → (∀ y ∈ x.acc, y.1 ≠ j) ∧ SMap.get 0#32 x.acc j = 0#32) ∧
        (n.e 23 32 / 2 ^ (j / 64) % 2 = 0 → SMap.get 0#32 x.acc j = SMap.get 0#32 m.acc j)) ∧
      (turn 0x54 → after (.msel core e k) fun _ x => x.acted = k + 1 ∧ x.current = {} ∧ x.inactive = m.inactive ∧ x.acc = m.acc) ∧
      (turn 0x53 → n.fn / 8 % 2 = 0 → f.roomAll e 0 (outsOf n.omask) (4 * (n.param % 32 + 1)) = none →
        ∃ t, exec (.mout core e k) s = .next t ∧ s.passed t core e k [] (outsOf n.omask)
          ((List.range (4 * (n.param % 32 + 1))).map fun j => dataTok allLive (a.taint || m.tainted.contains (j / 4)) fun i =>
            SMap.get 0#32 m.acc (16 * j + i))))

/-! ### Fibre, integrator and coupling nodes (R161 to R178, R388 to R408) -/

/-- R391 to R397: the fibre operations, on the tokens that stand at their ports: what each takes, what it writes to which
output, and what it carries. Outputs that the node does not bind are skipped (`bothOuts`). -/
def Obligations.FibreNodes : Prop :=
  ∀ (s : State) (core e : Nat),
    let f := s.fab core
    let n := f.node e 0
    let c := (f.unit e 0).car
    let does (i : Instr) (ps : List Nat) (outs : List (Nat × Tok)) (car : Carry) : Prop :=
      (∀ x ∈ bothOuts n outs, f.room e 0 x.1 1 = true) →
        ∃ t, exec i s = .next t ∧ s.passedEach t core e ps (bothOuts n outs) car
    let same (t : Tok) : List (Nat × Tok) := (outsOf n.omask).map fun o => (o, t)
    let N := n.param % 2 ^ 24
    (s.mayFire core e 0 0x58 → n.fn % 4 = 0 → ∀ a, f.look e 0 0 = .tok a →
      let q := (a.lane (nth 0 a.liveLanes c.n)).toNat
      let live := firstLanes (N - c.n2)
      (a.isStop = true → let t := { a with kind := a.kind + 1 }
        does (.fscan core e 0) [0] [(0, t), (1, t)] c) ∧
      (a.isData = true → a.pred ≠ 0#16 → c.n2 < N → does (.fscan core e 0) []
        [(0, dataTok live a.taint fun i => BitVec.ofNat 32 (c.n2 + i)),
          (1, dataTok live a.taint fun i => BitVec.ofNat 32 (q * N + c.n2 + i))] { c with n2 := c.n2 + 16 }) ∧
      (a.isData = true → a.pred ≠ 0#16 → N ≤ c.n2 → c.n + 1 = a.count → does (.fscan core e 0) [0]
        [(0, stopTok 0 a.taint), (1, stopTok 0 a.taint)] { n3 := c.n3 })) ∧
    (s.mayFire core e 0 0x58 → n.fn % 4 = 1 → ∀ a p b l, f.heads e 0 [0, 2] = .toks l → l.map Prod.snd = [a, p] → a.isData = true →
      f.look e 0 1 = .tok b → b.isDone = false → a.pred = p.pred → a.pred ≠ 0#16 →
      let i := nth 0 a.liveLanes c.n
      let cnt := (p.lane i).toInt - (a.lane i).toInt
      let rest := b.values.drop c.n3
      (c.n2 : Int) < cnt → cnt ≤ 2 ^ 24 → c.vals.length < 16 → rest.length ≤ min (cnt.toNat - c.n2) (16 - c.vals.length) →
      does (.fscan core e 0) [1] [] { c with
        vals := c.vals ++ rest
        n2 := c.n2 + rest.length
        n3 := 0
        taint := c.taint || (b.taint && rest.length != 0) }) ∧
    (s.mayFire core e 0 0x58 → n.fn % 4 = 2 → ∀ a b l, f.heads e 0 [0, 1] = .toks l → l.map Prod.snd = [a, b] → a.isData = true →
      let t (x : Tok) : Tok := { taint := a.taint || b.taint, pred := a.pred &&& b.pred, lanes := x.lanes }
      does (.fscan core e 0) [0, 1] [(0, t b), (1, t a)] c) ∧
    (s.mayFire core e 0 0x59 → ∀ a b, f.look e 0 0 = .tok a → f.look e 0 1 = .tok b → a.isData = true → b.isData = true → c = {} →
      rising none a.values = true → rising none b.values = true → a.count + b.count ≤ 16 →
      (∃ w, a.values.getLast? = some w ∧ b.values.getLast? = some w) → ∃ pa pb car, (∀ j < 16, pa.getLsbD j = (a.live j && b.values.contains (a.lane j)) ∧
          pb.getLsbD j = (b.live j && a.values.contains (b.lane j))) ∧
        does (.fint core e 0) [0, 1] [(0, { a with pred := pa, taint := a.taint || b.taint }),
          (1, { b with pred := pb, taint := b.taint || a.taint })] car) ∧
    (s.mayFire core e 0 0x5A → ∀ a b, f.look e 0 0 = .tok a → f.look e 0 1 = .tok b →
      (a.isData = true → b.isData = true → c = {} → rising none a.values = true → rising none b.values = true →
        a.count + b.count ≤ 16 → (∃ w, a.values.getLast? = some w ∧ b.values.getLast? = some w) →
        ∃ car, does (.funi core e 0) [0, 1] [] car ∧ rising none (car.toks.map fun x => x.lane 0) = true ∧
          (∀ w, w ∈ car.toks.map (fun x => x.lane 0) ↔ w ∈ a.values ∨ w ∈ b.values) ∧
          ∀ x ∈ car.toks, x.pred.getLsbD 0 = a.values.contains (x.lane 0) ∧ x.pred.getLsbD 1 = b.values.contains (x.lane 0)) ∧
      (a.kind = 8 → b.kind = 8 → c.toks = [] → let t := { a with taint := a.taint || b.taint }
        does (.funi core e 0) [0, 1] [(0, t), (1, t), (2, t)] {}) ∧
      (a.kind = 8 → b.kind = 8 → c.toks ≠ [] → does (.funi core e 0) [] (funiHeld n c) { c with toks := [], taint := false })) ∧
    (s.mayFire core e 0 0x5B → ∀ a b w rest, f.look e 0 0 = .tok a → f.look e 0 1 = .tok b → a.isData = true → c.v = none →
      a.values.drop c.n = w :: rest → b.isData = true →
      does (.frep core e 0) ((if rest = [] then [0] else []) ++ [1]) (same (dataTok b.pred (b.taint || a.taint) fun _ => w))
        { c with n := if rest = [] then 0 else c.n + 1, v := some w, taint := a.taint }) ∧
    (s.mayFire core e 0 0x5C → ∀ a, f.look e 0 0 = .tok a →
      (a.isData = true → n.ty = 6 → n.fn / 4 % 8 = 0 → a.pred ≠ 0#16 → does (.fred core e 0) [0] [] { c with
        v := some ((c.v.getD 0#32) + (List.range 16).foldl (fun x i => if a.live i then x + a.lane i else x) 0#32)
        taint := c.taint || a.taint }) ∧
      (a.kind = 8 → n.ty = 6 → n.fn / 4 % 8 = 0 → c.vals.length < 15 → f.roomAll e 0 (outsOf n.omask) 0 = none → does (.fred core e 0) [0] [] { c with
        v := none
        vals := c.vals ++ [c.v.getD 0#32]
        taint := c.taint || a.taint }) ∧
      (a.isDone = true → c.vals = [] → does (.fred core e 0) [0] (same a) { c with v := none })) ∧
    (s.mayFire core e 0 0x5D → n.selB ≠ 2 → n.omask.getLsbD 0 = true → ∀ a, f.look e 0 0 = .tok a →
      (a.isData = true → a.pred = 0#16 → does (.fdrop core e 0) [0] [] c) ∧
      (a.isData = true → a.pred ≠ 0#16 → does (.fdrop core e 0) [0] [(0, a)] { c with on := true }) ∧
      (a.kind = 8 → does (.fdrop core e 0) [0] (if c.on then [(0, a)] else []) { c with on := false }))

/-- R164, R165, R170, R403: a firing of an ie element is one step of all sixteen integrators. The values are stated as the
solution of the step's equations, with `rank` an order of evaluation that direct and delayed links allow; the sources are
read with `srcVal` (R163). IRSTEP undoes a step, and changes nothing when STEP is 0. R174 to R178, R404 to R408: ILD loads
the live lanes of an element, ISMP writes an element's sample, and IENC and IDEC carry their residual and value lane by
lane; the codecs are stated for INT32 lanes. -/
def Obligations.IntegratorNodes : Prop :=
  (∀ (s : State) (core e k : Nat) (toks : List (Nat × Tok)),
     let f := s.fab core
     let u := f.unit e 0
     let ps := f.inPorts e 0
     let node (i : Nat) : Node := f.node e i
     let z (i : Nat) : Integ := nth {} u.ints i
     let dl := (List.range 16).map fun i => (z i).dl
     let q (i : Nat) : Int := 2 ^ (if (node i).imode = 2 then (node i).qb + 1 else (node i).qb)
     let fires (opc : Nat) : Prop := isIe e = true ∧ f.firstSlot e = some k ∧ s.mayFire core e k opc ∧ f.roomAll e 0 (f.outPorts e 0) 1 = none ∧
       toks.map Prod.fst = ps ∧ (∀ x ∈ toks, f.head e 0 x.1 = some x.2 ∧ x.2.isData = true ∧ f.badHead e 0 x.1 x.2 = none) ∧
       f.sampleHeld e = false ∧ (ps = [] → u.injectDue = false ∧ u.pos ≠ 1) ∧ (f.outPorts e 0).Nodup ∧ ∀ c ∈ f.chans, ¬(c.pelem = e ∧ c.celem = e)
     let stepped (i : Instr) (dz : List Int) (step : Nat) (g : Nat → Integ) : Prop := ∃ t, exec i s = .next t ∧
       s.passed t core e 0 ps (f.outPorts e 0) [{ Tok.ofInts dz with taint := toks.any fun x => x.2.taint }] ∧
       ((t.fab core).unit e 0).stepNo = step ∧ ∀ i < 16, nth {} ((t.fab core).unit e 0).ints i = g i
     (fires 0x61 → ∀ (y1 dz : List Int) (rank : Nat → Nat), dz.length = 16 → y1.length = 16 →
       let S (i : Nat) : Int := (z i).w + (if (node i).imode = 2 then (z i).y + nth 0 y1 i else nth 0 y1 i) * srcVal toks dz dl (node i).sdx
       (∀ i < 16, (node i).stepping = true →
         nth 0 y1 i = (z i).y + srcVal toks dz dl (node i).sdy1 * 2 ^ (node i).ky1 + srcVal toks dz dl (node i).sdy2 * 2 ^ (node i).ky2 ∧
         -2 ^ 47 ≤ nth 0 y1 i ∧ nth 0 y1 i < 2 ^ 47 ∧ nth 0 dz i = S i / q i ∧ -8 ≤ nth 0 dz i ∧ nth 0 dz i ≤ 7 ∧
         ∀ j ∈ linked 2 [(node i).sdy1, (node i).sdy2, (node i).sdx], rank j < rank i) →
       (∀ i < 16, (node i).stepping = false → nth 0 dz i = 0) →
       stepped (.istep core e k) dz (min (u.stepNo + 1) (2 ^ 32 - 1)) fun i =>
         if (node i).stepping then { y := nth 0 y1 i, w := (S i - nth 0 dz i * q i).toNat, dl := nth 0 dz i } else { z i with dl := 0 }) ∧
     (fires 0x62 → u.stepNo = 0 → stepped (.irstep core e k) (List.replicate 16 0) 0 z) ∧
     (fires 0x62 → u.stepNo ≠ 0 → ∀ (rz wo y1 lb : List Int) (rank : Nat → Nat), rz.length = 16 → lb.length = 16 →
       (∀ op < 48, ∀ j ∈ revNeeds (node (op % 16)) op, rank j < rank op) →
       (∀ i < 16, (node i).stepping = true →
         let b : Int := 2 ^ (node i).qb
         let p := (z i).y * srcVal toks rz lb (node i).sdx
         let w := nth 0 y1 i * srcVal toks lb lb (node i).sdx
         nth 0 wo i = ((z i).w - p) % b ∧ nth 0 rz i = (p + nth 0 wo i - (z i).w) / b ∧ -8 ≤ nth 0 rz i ∧ nth 0 rz i ≤ 7 ∧
         nth 0 y1 i = (z i).y - srcVal toks rz lb (node i).sdy1 * 2 ^ (node i).ky1 - srcVal toks rz lb (node i).sdy2 * 2 ^ (node i).ky2 ∧
         -2 ^ 47 ≤ nth 0 y1 i ∧ nth 0 y1 i < 2 ^ 47 ∧ -8 ≤ nth 0 lb i ∧ nth 0 lb i ≤ 7 ∧
         nth 0 lb i = if u.stepNo = 1 ∨ ¬(selKind (node i).sdx = 0 ∨ selKind (node i).sdx = 2) then 0
           else (w + (nth 0 wo i - w) % b - nth 0 wo i) / b) →
       (∀ i < 16, (node i).stepping = false → nth 0 rz i = 0 ∧ nth 0 lb i = 0) →
       stepped (.irstep core e k) rz (u.stepNo - 1) fun i =>
         if (node i).stepping then { y := nth 0 y1 i, w := (nth 0 wo i).toNat, dl := nth 0 lb i } else { z i with dl := 0 })) ∧
  (∀ (s : State) (core e k : Nat),
     let f := s.fab core
     let n := f.node e k
     isVe e = true →
     (∀ g y, s.firing core e k 0x60 g y → n.fn % 2 = 0 →
       let ie := 0x20 + 4 * (e / 2) + n.param % 4
       let A := nth {} (n.operands y) 0
       (f.unit ie 0).frozen = false → ∀ Y : Nat → Int, (∀ i < 16, (n.pred (n.operands y)).getLsbD i = true →
         ildY n.ty (f.node ie i).fy (A.lane i) = .ok (Y i)) →
       ∃ t, exec (.ild core e k) s = .next t ∧ s.wroteTok t core e k g (dataTok (n.pred (n.operands y)) y.taint A.lane) ∧
         (n.pred (n.operands y) ≠ 0#16 → ((t.fab core).unit ie 0).stepNo = 0 ∧
           ∀ i < 16, nth {} ((t.fab core).unit ie 0).ints i = if (n.pred (n.operands y)).getLsbD i = true then
             { y := Y i, w := if (f.node ie i).e 52 1 = 0 then 0 else 2 ^ (if (f.node ie i).imode = 2 then (f.node ie i).qb else (f.node ie i).qb - 1), dl := 0 }
             else nth {} (f.unit ie 0).ints i)) ∧
     (∀ a rest, k = 0 → s.mayFire core e 0 0x63 → (f.unit e 0).car.toks2 = a :: rest → a.isData = true →
       f.inPorts e 0 = [] → f.roomAll e 0 (outsOf n.omask) 1 = none →
       (n.fn % 4 = 0 → f.outPorts e 0 = outsOf n.omask → ∃ t, exec (.ismp core e 0) s = .next t ∧ s.onlyFab t core ∧
         ((t.fab core).unit e 0).car.toks2 = rest ∧ (t.fab core).chans = f.chans.map fun c =>
           if (outsOf n.omask).any (c.outOf e 0) then { c with q := c.q ++ [dataTok allLive a.taint a.lane] } else c) ∧
       (n.fn % 4 = 2 → ∃ t, exec (.ismp core e 0) s = .next t ∧ s.onlyFab t core ∧
         ((t.fab core).unit e 0).car.toks2 = rest ∧ (t.fab core).chans = f.chans.map fun c =>
           if (outsOf n.omask).any (c.outOf e 0) then { c with q := c.q ++ [a] } else c)) ∧
     (∀ g y, s.firing core e k 0x64 g y → n.ty = 6 →
       let A := nth {} (n.operands y) 0
       let res (i : Nat) : Int := nth 0 (SMap.get [] (f.unit e 0).res k) i
       let ke : Int := (BitVec.ofNat 6 n.param).toInt
       let x (i : Nat) : Int := if A.live i then (A.lane i).toInt * 2 ^ (ke + 32).toNat else 0
       let a (i : Nat) : Int := if n.fn % 2 = 0 then res i + x i else (res i - x i) % 2 ^ 32
       let inc (i : Nat) : Int := if n.fn % 2 = 0 then a i / 2 ^ 32 else (a i + x i - res i) / 2 ^ 32
       (∀ i < 16, -8 ≤ inc i ∧ inc i ≤ 7) →
       ∃ t, exec (.ienc core e k) s = .next t ∧ s.wroteTok t core e k g { Tok.ofInts ((List.range 16).map inc) with taint := y.taint } ∧
         ∀ i < 16, nth 0 (SMap.get [] ((t.fab core).unit e 0).res k) i = a i % 2 ^ 32) ∧
     (∀ g y, s.firing core e k 0x65 g y → n.ty = 6 →
       let A := nth {} (n.operands y) 0
       let x (i : Nat) : Int := (A.lane i).toInt * 2 ^ (n.param % 16)
       let d (i : Nat) : Int := nth 0 (SMap.get [] (f.unit e 0).res k) i + (if n.fn % 2 = 0 then x i else -(x i))
       (∀ i < 16, -2 ^ 47 ≤ d i ∧ d i < 2 ^ 47) →
       ∃ t, exec (.idec core e k) s = .next t ∧
         s.wroteTok t core e k g { Tok.ofInts ((List.range 16).map fun i => max (-2 ^ 31) (min (2 ^ 31 - 1) (d i))) with taint := y.taint } ∧
         ∀ i < 16, nth 0 (SMap.get [] ((t.fab core).unit e 0).res k) i = d i))


/-! ### The life of a region (R116 to R134, R303, R351 to R358) -/

/-- R303, R117, R136, R220: a CFG reads its descriptor and its image once no earlier access holds them up. One whose image passes its checks installs it, names the elements on and every other Off, and
is complete; one whose image fails a check frees the fabric and sets RSTS.CFGFAIL. That all of it is one event is the model's
choice (log entry 28). -/
def Obligations.ConfigurationCompletes : Prop :=
  ∀ (s s1 s2 : State) (core n : Nat) (h : Op × Task × Nat × Bool) (dk ik : List Nat) (m : Image),
    s.tlHead core = some h → h.1.form = .cfg → s.cfgReady core h = true →
    s.lineKeys core h.2.1.pdom (h.1.y &&& ~~~(0x3F#64)) = (s1, some dk) → s1.imageKeys core h.2.1.pdom h.1.x = (s2, some (ik, n)) →
    s2.readsFree h.2.2.1 h.1.n h.1.taint (dk ++ ik) = true → readImage (wordsOf (s2.cfgBytes ik) n) = .ok m →
    let d := wordsOf ((s2.cfgBytes dk).drop (h.1.y.toNat % 64)) 2
    let s3 := (s2.counterRecords core).askFar (.seq h.2.2.1) (dk ++ ik)
    let gone (t : State) : Prop := h.2.2.2 = false → ∀ o ∈ (t.ctx h.2.2.1).ops, o.id ≠ h.1.id
    (∀ g, checkImage m (s3.tid core) (fun n => s3.spKey (rportCore core n)) (partCB (s3.part core)) = .ok g →
      s3.circuitBad core h.2.1.pdom g = none →
      ∃ t, exec (.cfgComplete core) s = .next t ∧ gone t ∧
        let f := t.fab core
        f.st = .configured ∧ f.nodes = g.nodes ∧ f.chans = g.chans ∧ f.pdom = h.2.1.pdom ∧ f.lid = h.2.1.lid ∧ f.frec = nth 0 d 0 / 64 * 64 ∧
        f.handler = (if nth 0 d 1 / 2 ^ 63 % 2 = 1 then some (nth 0 d 1 % 2 ^ 32) else none) ∧ f.faultWord = [] ∧ f.seqNo = g.seqNo ∧
        ∀ e ∈ elems, f.powerOf e = if m.named.contains e then 0 else 2) ∧
    (∀ e, checkImage m (s3.tid core) (fun n => s3.spKey (rportCore core n)) (partCB (s3.part core)) = .error e →
      nth 0 d 0 < 64 → nth 0 d 1 < 2 ^ 63 →
      ∃ t, exec (.cfgComplete core) s = .next t ∧ gone t ∧ (t.fab core).st = .free ∧ (t.fab core).nodes = [] ∧ s2.sameMem t ∧
        (h.2.2.2 = false → (t.ctx h.2.2.1).csr.cfgFail = true ∧ (t.ctx h.2.2.1).cfgFailed = true))

/-- R119, R351: aligned tokens of one kind at every aligned port pass when there is room. R130, R357: a commit that is due
is numbered and handed to the sources. R130, R133, R217: a tile publishes its log before COMMIT, and passes DRAIN and
BARRIER. R133, R134: a drained region is done and joins; a fault quiesces, once no unit of the region can still fire, and is recorded.
What a log still holds at DONE is dropped by the model's choice (log entry 40). -/
def Obligations.TokensPassAndRegionsEnd : Prop :=
  ∀ (s : State) (core e k : Nat),
    let f := s.fab core
    let u := unitSlot e k
    let ps := f.inPorts e u
    let os := f.outPorts e u
    let stands (t : Tok) : Prop := f.live e u = true ∧ f.rested s.clk.fab e u = true ∧ f.inGroup e = false ∧ f.used e u = true ∧ f.settled e u = true ∧ f.isSource e u = false ∧ ps ≠ [] ∧
      (∀ p ∈ ps, ∃ a, f.head e u p = some a ∧ a.kind = t.kind) ∧ t.isAligned = true ∧
      t = { ((ps.head?.bind (f.head e u)).getD {}) with taint := ps.any fun p => ((f.head e u p).getD {}).taint } ∧ f.heldFirst e u = [] ∧
      f.roomAll e u os 1 = none ∧ os.Nodup ∧ ∀ c ∈ f.chans, ¬(c.pelem = e ∧ c.celem = e)
    let chans (t : State) (tok : Tok) : Prop := (t.fab core).chans = f.chans.map fun c =>
      let q := if ps.any (c.into e u) then c.q.tail else c.q
      { c with q := if os.any (c.outOf e u) then q ++ [tok] else q }
    (∀ tok, isMt e = false → isCn e = false → isAg e = false → f.betweenFibres e = false → (f.node e 0).opc ≠ 0x63 → stands tok →
      ∃ t, exec (.alignedTokenAlign core e k) s = .next t ∧ s.onlyFab t core ∧ chans t tok ∧
        (tok.kind = 4 → ∃ x, (match f.newCkpt with
          | some _ => (t.fab core).newCkpt
          | none => some (t.fab core).ckpt) = some x ∧ SMap.get {} x.units (unitKey e u) = {
            ((t.fab core).unit e u).passed (SMap.get {} (f.newCkpt.getD f.ckpt).units (unitKey e u)) with
            seen := (SMap.get {} x.units (unitKey e u)).seen
            rest := (SMap.get {} x.units (unitKey e u)).rest
            counters := (SMap.get {} x.units (unitKey e u)).counters
            cls := (SMap.get {} x.units (unitKey e u)).cls
            stuckAt := (SMap.get {} x.units (unitKey e u)).stuckAt })) ∧
    (∀ tok, isMt e = true → stands tok →
      let out := (f.node e k).tainted tok
      let written : Prop := (∀ x ∈ f.egress, x.elem ≠ e) ∧ ∀ x ∈ s.mem.reqs, ∀ r, x.2 = some r → r.by_.inTile core e = true →
        r.applied = true ∨ r.kind = .read ∨ r.kind = .vload
      (tok.kind = 3 → written → ∃ t, exec (.drainPassTile core e k) s = .next t ∧ chans t out ∧ s.sameMem t ∧
        (t.fab core).drained = f.drained ++ [unitKey e k]) ∧
      (tok.kind = 2 → written → ∃ t, exec (.barrierTokenPass core e k) s = .next t ∧ chans t out ∧ s.sameMem t) ∧
      (tok.kind = 4 → s.farBusy (.unit core e k) = false →
        s.bankBusy (((f.log e).filter fun x => x.k == k && x.kind != 2).flatMap fun x => x.wr.map Prod.fst) = false → (∀ x ∈ f.log e, x.k = k → x.kind = 0 ∧ ∀ y ∈ x.wr, isLocal y.1 = true) →
        (∃ x ∈ f.commitNeed, x ∉ f.commitSeen ∧ x ≠ unitKey e k) →
        ∃ t, exec (.commitPassTile core e k) s = .next t ∧ chans t out ∧
          s.wrote t (((f.log e).filter fun x => x.k = k).flatMap LogE.wr) ∧
          (t.fab core).log e = (f.log e).filter (fun x => x.k ≠ k) ∧ (t.fab core).commitSeen = f.commitSeen ++ [unitKey e k])) ∧
    (isCn e = true → f.live e 0 = true → f.commitPoint s.clk.fab e = true → f.sourcesUnder e ≠ [] → (f.commitStart s.clk.fab e).commitNeed ≠ [] →
      ∃ t, exec (.commitPeriodInject core e) s = .next t ∧ s.onlyFab t core ∧ (t.fab core).seqNo = (f.seqNo + 1) % 2 ^ 16 ∧
        (t.fab core).ctl e = { f.ctl e with due := (f.ctl e).due - 1, injAt := s.clk.fab + 1 } ∧ (t.fab core).newCkpt.map Snap.seqNo = some ((f.seqNo + 1) % 2 ^ 16) ∧
        ∀ x ∈ f.sourcesUnder e, ∃ i, ((t.fab core).unit x.1 x.2).inject.getLast? = some i ∧ i.tok.kind = 4 ∧
          (x.1 = e → i.ahead = 0) ∧ i.tok.lane 0 = BitVec.ofNat 32 ((f.seqNo + 1) % 2 ^ 16)) ∧
    (f.st = .running → f.halted = false → f.held = false → f.faultWord = [] → f.allDrained = true →
      f.egress = [] → s.writesOver core = true →
      ∃ t, exec (.regionDoneJoin core) s = .next t ∧ (t.fab core).st = .done ∧ (t.fab core).logs = [] ∧ s.sameMem t ∧
        t.sch.joins = s.sch.joins ++ f.doneJoin.toList.map fun j => (j, none)) ∧
    (f.st = .running → f.halted = false → f.held = false → f.faultWord ≠ [] → f.recorded = false → f.quietSince + 16 ≤ s.clk.fab →
      s.stirs core = false → f.frec = 0 →
      ∃ t, exec (.faultQuiesceRecord core) s = .next t ∧ (t.fab core).st = .frozen ∧ (t.fab core).recorded = true ∧ s.sameMem t ∧
        t.sch.joins = s.sch.joins ++ f.handler.toList.map fun j => (j, none))

/-- R122 to R124, R353 to R358: a counter writes its next index to o0 and permits its leaves and children; a CSEQ permits
the child after the one that has ended; a CPIPE starts an iteration, and passes one on to the child whose turn it is; a
CSTRM permits every child and leaf; done signals reach the controller above. -/
def Obligations.ControllersRun : Prop :=
  ∀ (s : State) (core e : Nat),
    let f := s.fab core
    let n := f.node e 0
    let x := f.ctl e
    let l := f.children e
    let fires (i : Instr) (P : Fabric → Prop) : Prop := ∃ t, exec i s = .next t ∧ s.onlyFab t core ∧ P (t.fab core)
    let told (g : Fabric) (c : Nat) (last : Bool) : Prop := (g.ctl c).permits = (f.ctl c).permits ++ [last]
    let toldLeaf (g : Fabric) (y : Nat × Nat) (last : Bool) : Prop := (g.unit y.1 y.2).permits = (f.unit y.1 y.2).permits ++ [last]
    let on (opc : Nat) : Prop := isCn e = true ∧ f.live e 0 = true ∧ f.rested s.clk.fab e 0 = true ∧ n.opc = opc ∧ e ∉ l
    (on 0x38 → n.selA = 0 → x.active = true → x.iter < x.trip → x.due = 0 → f.cntCaught e = true →
      (f.unit e 0).injectDue = false → f.roomAll e 0 ((outsOf n.omask).filter (· == 0)) 1 = none →
      let step := (BitVec.ofNat 10 (n.e 45 10)).toInt
      let idx := (BitVec.ofNat 16 (n.e 29 16)).toInt + x.iter * step
      let last := x.last && x.iter + 1 == x.trip
      fires (.cnt core e 0) fun g => g.chans = (f.chans.map fun c => if ((outsOf n.omask).filter (· == 0)).any (c.outOf e 0) then
          { c with q := c.q ++ [dataTok allLive false fun i => BitVec.ofInt 32 (if step % 16 = 0 then idx + i * (step / 16) else idx)] } else c) ∧
        (g.ctl e).iter = x.iter + 1 ∧ (g.ctl e).finished = x.finished + 1 ∧ (∀ c ∈ l, told g c last) ∧ ∀ y ∈ f.leaves e, toldLeaf g y last) ∧
    (on 0x38 → n.selA = 0 → x.active = true → x.trip ≤ x.iter → x.stopOut = true → x.due = 0 → f.cntCaught e = true →
      (x.last = true → x.started ≠ 0) → (∀ y ∈ f.leaves e, x.trip ≤ x.doneBy y.1 y.2) → n.isRoot = false →
      fires (.cnt core e 0) fun g => (g.ctl e).active = false ∧ (g.unit e 0).doneOwed = (f.unit e 0).doneOwed + 1) ∧
    (on 0x39 → x.active = true → x.started < l.length → x.doneBy (nth 0 l (x.started - 1)) 0 ≠ 0 →
      fires (.cseq core e 0) fun g => told g (nth 0 l x.started) x.last ∧ (g.ctl e).started = x.started + 1 ∧
        ∀ c, c ≠ e → c ≠ nth 0 l x.started → g.ctl c = f.ctl c) ∧
    (on 0x3A → x.due = 0 → x.doneBy (nth 0 l (l.length - 1)) 0 = x.finished → x.reported = x.iter → x.iter = x.finished →
      (∀ i < l.length, SMap.get 0 x.sent i = x.iter) →
      ∀ last rest, x.permits = last :: rest →
      fires (.cpipe core e 0) fun g => (g.ctl e).iter = x.iter + 1 ∧ (g.ctl e).permits = rest ∧ (g.ctl e).flags = x.flags ++ [last] ∧
        ∀ c, c ≠ e → g.ctl c = f.ctl c) ∧
    (on 0x3A → x.due = 0 → 0 < l.length → x.doneBy (nth 0 l (l.length - 1)) 0 = x.finished → x.reported = x.iter → SMap.get 0 x.sent 0 < x.iter →
      SMap.get 0 x.sent 0 = x.doneBy (nth 0 l 0) 0 →
      fires (.cpipe core e 0) fun g => told g (nth 0 l 0) (nth false x.flags (SMap.get 0 x.sent 0)) ∧
        SMap.get 0 (g.ctl e).sent 0 = SMap.get 0 x.sent 0 + 1) ∧
    (on 0x3B → x.active = false → ∀ last rest, x.permits = last :: rest →
      fires (.cstrm core e 0) fun g => (∀ c ∈ l, told g c last) ∧ (∀ y ∈ f.leaves e, toldLeaf g y last) ∧
        (g.ctl e).active = true ∧ (g.ctl e).permits = rest ∧ (g.ctl e).last = last) ∧
    (∀ k c m, f.st = .running → f.halted = false → let u := unitSlot e k
      (if isCn e then f.parentOf e else f.leafCtl e u) = some c → (f.unit e u).doneOwed = m + 1 → f.loading e = false → c ≠ e →
      fires (.controllerDoneSignal core e k) fun g => (g.unit e u).doneOwed = m ∧ (g.ctl c).doneBy e u = (f.ctl c).doneBy e u + 1)

/-! ### Events of tiles and elements (R129, R132, R136 to R138, R143 to R147, R203, R220, R223, R363, R374, R375) -/

/-- R132: the oldest latched access of a unit leaves as a request. R138: a replay is a row cycle that counts in FIRED
and in REPLAY. R220: an
element idle for 4,096 row cycles of a done region enters Winter, and is awake 64 fabric cycles after a wake. R145, R217: a
complete slot's bytes are visible to every path. R146, R147, R223: a freed slot's notice counts for the producer it was
sent to, once a throttled one is let go. R375, R129: a unit whose wait has ended fires as its operation does; a store held at a full log past the stall limit
faults. R363: the data of a load are written when it is the unit's oldest; R203, R374: an LDVN is served once its version
exists. -/
def Obligations.TileEvents : Prop :=
  ∀ (s : State) (core e k : Nat),
    let f := s.fab core
    let u := unitSlot e k
    let n := f.node e k
    let fab (i : Instr) (P : Fabric → Prop) : Prop := ∃ t, exec i s = .next t ∧ s.onlyFab t core ∧ P (t.fab core)
    (∀ i x, f.egress[i]? = some x → (∀ y ∈ f.egress.take i, ¬(y.elem = x.elem ∧ y.k = x.k)) → x.req.dev = none →
      ∃ t, exec (.egressLatchRelease core i) s = .next t ∧ (t.fab core).egress = f.egress.take i ++ f.egress.drop (i + 1) ∧
        t.req s.mem.nextReq = some x.req ∧ s.sameMem t) ∧
    (f.live e u = true → 0 < f.divOf e → fab (.timingErrorReplay core e k) fun g =>
      let x := (f.unit e u).upTo s.clk.fab (f.divOf e)
      let count (y : Unit_) (i : Nat) : Nat := SMap.get 0 y.counters i
      (g.unit e u).seen = x.seen ∧ (g.unit e u).cls = 1 ∧ count (g.unit e u) 11 = min (count x 11 + 1) (2 ^ 40 - 1) ∧
        (∀ i, i ≠ 11 → count (g.unit e u) i = count x i) ∧
        count ((g.unit e u).upTo (x.seen + f.divOf e) (f.divOf e)) 0 = min (count x 0 + 1) (2 ^ 40 - 1)) ∧
    (f.st = .done → f.powerOf e = 0 → SMap.get 0 f.idleSince e + 4096 * f.divOf e ≤ s.clk.fab →
      fab (.elementWinterEntry core e) fun g => g.powerOf e = 1 ∧ ∀ d, d ≠ e → g.powerOf d = f.powerOf d) ∧
    (∀ at_, SMap.get none f.wakeAt e = some at_ → at_ + 64 ≤ s.clk.fab →
      fab (.elementWakeComplete core e) fun g => g.powerOf e = 0 ∧ SMap.get none g.wakeAt e = none ∧ ∀ d, d ≠ e → g.powerOf d = f.powerOf d) ∧
    (∀ b tid T N W BB BASE keys, s.ringsOf core = [(tid, T, N, W, BB, BASE)] → ringShape (s.tid core tid) = some (T, N, W, BB, BASE) →
      BB ≤ b → b < BB + N → T ≤ SMap.get 0 s.mem.arrive (core * 64 + b) →
      (List.range T).filterMap (fun i => s.spaceKey core 1 (BASE + (b - BB) * T + i)) = keys →
      ∃ t, exec (.arrivalBarrierComplete core b) s = .next t ∧ s.sameMem t ∧ ∀ x ∈ t.mem.stale, x.key ∉ keys) ∧
    (∀ i x, s.mem.notices[i]? = some x →
      (x.hold = 0 → ∃ t, exec (.freedSlotNoticeArrive i) s = .next t ∧ t.mem.notices = s.mem.notices.take i ++ s.mem.notices.drop (i + 1) ∧
        (t.ringSt x.core x.ring).notices = (s.ringSt x.core x.ring).notices + (if (s.ringSt x.core x.ring).bound = some x.to_ then 1 else 0) ∧
        s.sameMem t) ∧
      (x.hold ≠ 0 → x.hold ≤ s.clk.fab → ∃ t, exec (.throttledNoticeRelease i) s = .next t ∧
        t.mem.notices = s.mem.notices.set i { x with hold := 0 } ∧ s.sameMem t)) ∧
    (∀ i x, s.mem.notices = [] → s.fabs = [(core, f)] → f.late[i]? = some x → x.2.2.2 ≤ s.clk.fab →
      fab (.throttledNoticeRelease i) fun g => g.late = f.late.take i ++ f.late.drop (i + 1)) ∧
    (n.opc = 0x46 → ∃ t, exec (.fullEmptyWaitRelease core e k) s = .next t ∧ exec (.ldfe core e k) s = .next t) ∧
    (n.opc = 0x47 → ∃ t, exec (.fullEmptyWaitRelease core e k) s = .next t ∧ exec (.stfe core e k) s = .next t) ∧
    (∀ at_, (f.unit e u).stuckAt = some at_ →
      (n.opc = 0x42 → ∃ t, exec (.logSpaceFree core e k) s = .next t ∧ exec (.stn core e k) s = .next t) ∧
      (n.opc = 0x45 → ∃ t, exec (.logSpaceFree core e k) s = .next t ∧ exec (.stvn core e k) s = .next t) ∧
      (n.opc = 0x4D → ∃ t, exec (.logSpaceFree core e k) s = .next t ∧ exec (.recln core e k) s = .next t) ∧
      (f.live e u = true → isIe e = false → at_.1 + 2 ^ (s.clu (clusterOf core)).vstall * f.divOf e ≤ s.clk.fab → f.faultWord = [] →
        core < 256 → e < 256 → k < 16 → (f.unit e u).stage < 16 →
        fab (.logFullStallTimeout core e k) fun g => (g.unit e u).frozen = true ∧ (nth 0#64 g.faultWord 0) >>> 60 = 6#64 ∧
          nth 0#64 g.faultWord 2 = BitVec.ofNat 64 at_.2 ∧ nth 0#64 g.faultWord 4 = 2#64)) ∧
    (∀ p rest i r, f.st = .running → (f.unit e u).pend = p :: rest → p.latched = false → p.req = some i → s.req i = some r →
      r.applied = true → r.bad = 0 → r.kind = .read → p.pass = none → (n.opc = 0x41 ∨ n.opc = 0x43) → n.fn % 4 = 0 → n.ordOut = false →
      p.addr.ring = false → n.ty = p.addr.fmt → n.els = 1 → elemBytes p.addr.fmt = 4 →
      let lanes := (List.range 16).filter p.addr.pred.getLsbD
      ∃ t v, exec (.loadResultWrite core e k) s = .next t ∧ ((t.fab core).unit e u).pend = rest ∧ t.req i = none ∧ s.sameMem t ∧
        (∀ j < lanes.length, v (nth 0 lanes j) = BitVec.ofNat 32 (leNat ((r.bytes.drop (4 * j)).take 4))) ∧
        (t.fab core).chans = f.chans.map fun c => if n.dataOuts.any (c.outOf e u) then { c with
          q := c.q ++ [dataTok p.addr.pred (p.addr.taint || n.opc == 0x43) v]
          resv := c.resv - 1 } else c) ∧
    (∀ p i r, (f.unit e u).pend = [p] → p.req = some i → s.req i = some r → s.mayApply i = true → s.reachable r = true → s.bankBusy r.banked = false →
      r.dev = none →
      r.by_ = .unit core e u → r.kind = .vload → r.ver = (s.wordVer (nth 0 r.rd 0)).newest →
      (∀ y ∈ (s.wordVer (nth 0 r.rd 0)).older, y.1 < r.ver) →
      ∃ t, exec (.ldvnSatisfied core e k) s = .next t ∧ s.sameMem t ∧ t.req i = some { r with
        applied := true
        status := 1
        bytes := ((leBytes (s.image (nth 0 r.rd 0)).toNat 8).drop (nth 0 r.rd 0 % 8)).take r.rd.length })

/-! ### Engines (R39, R149 to R154, R156 to R158, R418 to R422) -/

/-- R156, R157, R419: a copy moves one packet of at most 64 bytes of a row, from the address to the address that its
operand words give, and is finished with its last; a row of a gather that the group has read before is not read again; a
multicast writes its tile at every receiver. A port serves the stream that its table names, or the next that is ready.
Bytes that nothing holds stale are the bytes that memory holds, and no access meets an error. One packet of at most 64 bytes
an event, a multicast written to all receivers in one event, and the index read when its row starts are the model's choices
(log entry 61). -/
def Obligations.CopiesMoveBytes : Prop :=
  ∀ (s : State) (cl e inbox : Nat) (c : Cmd), s.cmd (inboxKey cl e inbox) = some c → c.finished = false → s.mem.stale = [] → s.found = .good →
    cl < 8 → (s.portServes cl e 0 = some inbox ∨ s.portServes cl e 1 = some inbox) →
    let m := c.msg
    let W (i : Nat) : Nat := m.word i
    let g := 256 + cl
    let sx (w : Nat) : Int := (BitVec.ofNat 32 w).toInt
    let at_ (a : Nat) (d : Int) : Nat := (((a : Int) + d) % 2 ^ 64).toNat
    let local_ (l : List Nat) : Prop := ∀ k ∈ l, k < 2 ^ 60
    let ring (a : Nat) : Bool := isPoolAddr a && paSpace a == 3
    let moves (i : Instr) (sw src dw dst0 dst n total : Nat) (kept : Option (List Byte)) : Prop := ∀ sk dk, ring dst0 = false →
      s.spot g m.pdom sw src n 0 = (s, .ok (.keys sk)) → s.spot g m.pdom dw dst n 1 = (s, .ok (.keys dk)) → local_ sk → local_ dk →
      ∃ t c', exec i s = .next t ∧ s.wrote t (dk.zip (kept.getD (sk.map s.byte))) ∧ t.cmd (inboxKey cl e inbox) = some c' ∧
        c'.step = c.step + n ∧ (c'.finished = true ↔ total ≤ c.step + n) ∧ c'.err = c.err ∧ (c'.finished = true → c'.result = total)
    (m.opc = 0x10 → s.wordsBad m [3] [4] = none → c.step < W 5 → W 5 ≤ 2 ^ 36 →
      moves (.cpyLin cl e inbox) 3 (at_ (W 3) c.step) 4 (W 4 % 2 ^ 64) (at_ (W 4) c.step) (min 64 (W 5 - c.step)) (W 5) none) ∧
    (m.opc = 0x11 → s.wordsBad m [3] [4] = none → tileWordOk (W 5) = true → ring (W 4) = false →
      let row := W 5 % 2 ^ 32
      let r := c.step / row
      let col := c.step % row
      let src : Int := r * sx (W 6 / 2 ^ 32)
      let dst : Int := r * sx (W 6)
      moves (.cpyTile cl e inbox) 3 (at_ (W 3) (src + col)) 4 (at_ (W 4) dst) (at_ (W 4) (dst + col)) (min 64 (row - col))
        (W 5 / 2 ^ 32 % 2 ^ 32 * row) none) ∧
    (∀ idx : Int, s.wordsBad m [3, 4] [5] = none → tileWordOk (W 6) = true → let row := W 6 % 2 ^ 32
      let r := c.step / row
      let col := c.step % row
      let stride := (BitVec.ofNat 64 (W 7)).toInt
      (if col = 0 then ∃ ik, s.spot g m.pdom 3 (at_ (W 3) (4 * r)) 4 0 = (s, .ok (.keys ik)) ∧ local_ ik ∧
          idx = (BitVec.ofNat 32 (leNat (ik.map s.byte))).toInt
        else idx = (nth 0#32 c.part_ 0).toInt) →
      (m.opc = 0x12 → ring (W 5) = false →
        moves (.cpyGath cl e inbox) 4 (at_ (W 4) (idx * stride + col)) 5 (at_ (W 5) (r * row)) (at_ (W 5) (r * row + col)) (min 64 (row - col))
          (W 6 / 2 ^ 32 % 2 ^ 32 * row) (((if col = 0 ∧ r % 256 = 0 then [] else c.rows).find? fun x => x.1 == idx && x.2.1 == col).map fun x => x.2.2)) ∧
      (m.opc = 0x13 → ring (W 5) = false →
        moves (.cpyScat cl e inbox) 4 (at_ (W 4) (r * row + col)) 5 (at_ (W 5) (idx * stride)) (at_ (W 5) (idx * stride + col)) (min 64 (row - col))
          (W 6 / 2 ^ 32 % 2 ^ 32 * row) none)) ∧
    (∀ l sk, let n := W 6 / 2 ^ 32 % 2 ^ 32
      m.opc = 0x14 → m.mcastBad = none → (∀ x ∈ m.receivers, s.gangHas m.sender x.2 = true) → s.mcastSlots (.eng cl e inbox) m n = .ok l →
      s.spot g m.pdom 3 (W 3) n 0 = (s, .ok (.keys sk)) → local_ sk →
      ∃ t c', exec (.cpyMcast cl e inbox 0) s = .next t ∧ s.wrote t (l.flatMap fun x => x.2.2.zip (sk.map s.byte)) ∧
        t.cmd (inboxKey cl e inbox) = some c' ∧ c'.finished = true ∧ c'.err = c.err ∧ c'.result = l.length * n)

/-- R152 to R154, R421: subscriptions are made, flushed, batched, applied and ended. R149 to R151, R422: a post writes its
entry and then TAIL, or waits at a full ring. R39, R420: a collective starts by an exchange with its partner, or is done at
once in a group of one; the last exchange of an INT32 sum writes the result; a partner's data are written and known. The order
of a collective's exchanges and how partners' data are matched, in COLL.BC by the rank XOR ROOT, are the model's choices (log
entry 62). -/
def Obligations.HubsRingsAndCollectives : Prop :=
  (∀ (s : State) (cl inbox : Nat) (c : Cmd), s.cmd (inboxKey cl 3 inbox) = some c → c.finished = false → s.found = .good →
    let m := c.msg
    let ends (t : State) (r : Nat) : Prop := ∃ c', t.cmd (inboxKey cl 3 inbox) = some c' ∧ c'.finished = true ∧ c'.err = c.err ∧ c'.result = r
    (∀ pe se, m.opc = 0x30 → s.onBad cl m = none → let pc := paCore (m.word 3)
      let sc := paCore (m.word 4)
      s.gangHas m.sender pc = true → s.gangHas m.sender sc = true → s.pubEntryFor pc (paOff (m.word 3)) (m.word 5 % 2 ^ 32) = some pe →
      s.subEntryFor sc = some se → let h := pe * 2 ^ 20 + pc * 2 ^ 12 + se * 2 ^ 8 + sc
      ∃ t, exec (.sbsOn cl inbox) s = .next t ∧ ends t h ∧ ∃ x ∈ t.msg.subs, x.handle = h ∧ x.cl = cl ∧ x.state = 0 ∧ x.statusVer = 1 ∧
        x.pub = paOff (m.word 3) ∧ x.sub = paOff (m.word 4) ∧ x.len = m.word 5 % 2 ^ 32 ∧ x.pdom = m.pdom) ∧
    (∀ x, s.subOf cl m = .ok x →
      (m.opc = 0x31 → x.sent = [] → ∃ t, exec (.sbsOff cl inbox) s = .next t ∧ ends t 0 ∧
        t.msg.subs = s.msg.subs.filter fun y => !(y.live && y.handle == x.handle)) ∧
      (m.opc = 0x32 → c.step = 0 → x.state ≠ 3 →
        ∃ t, exec (.sbsFlush cl inbox) s = .next t ∧ t.cmd (inboxKey cl 3 inbox) = some { c with step := 1 } ∧
          ∃ y ∈ t.msg.subs, y.handle = x.handle ∧ y.state = 3 ∧ y.pending = [] ∧ y.due = [] ∧ y.sent = x.sent ++
            [(List.range x.len).zip (((s.windowKeys x.pubCore 1 x.pub x.len).getD []).map s.byte)]))) ∧
  (∀ (s : State) (i : Nat) (x : Sub), s.msg.subs[i]? = some x → x.state = 0 →
    (∀ lines, lines = (if 16 ≤ x.due.length then x.due.map Prod.fst else (x.due.filter fun y => y.2.any (· ≤ s.clk.time)).map Prod.fst) →
      lines ≠ [] → ∃ t, exec (.sbsBatchSend i) s = .next t ∧ s.sameMem t ∧ { x with
        pending := x.pending.filter fun y => !lines.contains (y.1 / 64)
        due := x.due.filter fun y => !lines.contains y.1
        sent := x.sent ++ [x.batch.filter fun y => lines.contains (y.1 / 64)] } ∈ t.msg.subs) ∧
    (∀ l rest keys, x.sent = l :: rest → s.clActive (clusterOf x.subCore) = true → s.windowKeys x.subCore 1 x.sub x.len = some keys →
      ∃ t, exec (.sbsBatchApply i) s = .next t ∧ s.wrote t (l.map fun y => (nth 0 keys y.1, y.2)))) ∧
  (∀ (s : State) (cl inbox k : Nat) (c : Cmd) (ek : List Nat), s.cmd (inboxKey cl 4 inbox) = some c → c.finished = false →
    c.msg.opc = 0x40 → s.mem.stale = [] → s.found = .good → cl < 8 → s.postBehind cl inbox c = false →
    let m := c.msg
    let h := m.word 3
    let core := paCore h
    let H (i : Nat) : Nat := leNat ((keyRange (k + 8 * i) 8).map s.byte)
    isPoolAddr h = true → paSpace h = 1 → bits h 40 4 = 0 → paTid h = 0 → paOff h % 64 = 0 → clusterOf core = cl → m.word 4 % 64 = 0 →
    s.runsTask core m.pdom = true → s.windowKeys core 1 (paOff h) 64 = some (keyRange k 64) →
    2 ≤ H 2 → H 2 ≤ 4096 → Nat.land (H 2) (H 2 - 1) = 0 → (∀ i, 3 ≤ i → i < 8 → H i = 0) →
    (s.windowKeys core 1 (paOff h) (64 + 64 * H 2)).isSome = true →
    let due (P : Instr → Prop) : Prop := (c.step = 0 → P (.ringPost cl inbox)) ∧ (c.step = 1 → c.result + 64 ≤ s.clk.time → P (.ringHeadReread cl inbox))
    (BitVec.ofNat 64 (H 0) - BitVec.ofNat 64 (H 1) = BitVec.ofNat 64 (H 2) → due fun i => ∃ t, exec i s = .next t ∧ s.sameMem t ∧
      t.cmd (inboxKey cl 4 inbox) = some { c with
        step := 1
        result := s.clk.time }) ∧
    (BitVec.ofNat 64 (H 0) - BitVec.ofNat 64 (H 1) ≠ BitVec.ofNat 64 (H 2) → s.spot (256 + cl) m.pdom 4 (m.word 4) 64 0 = (s, .ok (.keys ek)) →
      (∀ x ∈ ek, x < 2 ^ 60) → (s.wordVer k).newest < H 0 + 1 → s.versionFull k = false → due fun i => ∃ t c', exec i s = .next t ∧
        s.wrote t ((keyRange (k + 64 + 64 * (H 0 % H 2)) ek.length).zip (ek.map s.byte) ++ (keyRange k 8).zip (leBytes (H 0 + 1) 8)) ∧
        t.cmd (inboxKey cl 4 inbox) = some c' ∧ c'.finished = true ∧ c'.result = H 0 + 1)) ∧
  (∀ (s : State) (cl inbox rank : Nat) (c : Cmd), s.cmd (inboxKey cl 2 inbox) = some c → c.finished = false → s.found = .good → cl < 8 →
    let m := c.msg
    let G := (cGroup c).toNat
    s.collRank G = some rank →
    let n := cCount c * cSize c
    let now (t : State) (c' : Cmd) : Prop := t.cmd (inboxKey cl 2 inbox) = some c'
    (∀ i sk, (i = .collAr cl inbox ∧ m.opc = 0x20 ∨ i = .collAg cl inbox ∧ m.opc = 0x21 ∨ i = .collRs cl inbox ∧ m.opc = 0x22) →
      c.step = 0 → s.wordsBad m [3] [4, 5] = none → s.reduceBad c = none → s.spot (256 + cl) m.pdom 3 (m.word 3) n 0 = (s, .ok (.keys sk)) → (∀ x ∈ sk, x < 2 ^ 60) →
      s.mem.stale = [] →
      (gLog G ≠ 0 → s.inDomain (gBase G + Nat.xor rank 1) = true → ∃ t c', exec i s = .next t ∧ s.sameMem t ∧ now t c' ∧ c'.finished = false ∧
        c'.step = 1 ∧ c'.part_ = elemsOf (cSize c) (cCount c) (sk.map s.byte)) ∧
      (∀ dk, gLog G = 0 → sk.length = n → s.spot (256 + cl) m.pdom 4 (m.word 4) n 1 = (s, .ok (.keys dk)) → (∀ x ∈ dk, x < 2 ^ 60) →
        ∃ t c', exec i s = .next t ∧ s.wrote t (dk.zip (sk.map s.byte)) ∧ now t c' ∧ c'.finished = true ∧ c'.err = c.err ∧ c'.result = n)) ∧
    (m.opc = 0x23 → c.step = 0 → s.bcBad c = none →
      let r := Nat.xor rank (m.word 6 % 2 ^ 10)
      s.wordsBad m (if r = 0 then [3] else []) (if r = 0 then [] else [3]) = none →
      (r ≠ 0 → ∃ t c', exec (.collBc cl inbox) s = .next t ∧ s.sameMem t ∧ now t c' ∧ c'.finished = false ∧ c'.step = 1 + Nat.log2 r) ∧
      (∀ sk, r = 0 → gLog G = 0 → s.spot (256 + cl) m.pdom 3 (m.word 3) (m.word 4 % 2 ^ 40) 0 = (s, .ok (.keys sk)) →
        ∃ t c', exec (.collBc cl inbox) s = .next t ∧ s.sameMem t ∧ now t c' ∧ c'.finished = true ∧ c'.err = c.err)) ∧
    (∀ data dk, m.opc = 0x20 → cType c = 6 → cOp c = 0 → c.step = gLog G → c.step ≠ 0 → s.disagrees cl inbox c = false → s.collFault cl inbox c = none →
      s.arrived cl inbox c (c.step - 1) (4 * c.part_.length) = some data → s.spot (256 + cl) m.pdom 4 (m.word 4) (4 * c.part_.length) 1 = (s, .ok (.keys dk)) →
      (∀ x ∈ dk, x < 2 ^ 60) →
      ∃ t c', exec (.collStepAdvance cl inbox) s = .next t ∧ now t c' ∧ c'.finished = true ∧ c'.err = c.err ∧ s.wrote t (dk.zip
        ((List.range c.part_.length).flatMap fun i => leBytes (nth 0#32 c.part_ i + BitVec.ofNat 32 (leNat ((data.drop (4 * i)).take 4))).toNat 4))) ∧
    (∀ rx tss dev pdom va desc group stepNo offset data keys, (s.port rx.port).serves = true → s.inTss rx = some tss → (tss = true → rx.via.auth = true) →
      rx.via.known = true → (s.xl.domValid = true → rx.job = s.xl.jobid.toNat) → s.inDomain dev = true → s.found = .good → let u := s.openIn rx tss
      isBcast desc = false → u.spot (256 + cl) pdom 5 va data.length 1 = (u, .ok (.keys keys)) → (∀ x ∈ keys, x < 2 ^ 60) →
      ∃ t, exec (.collectiveDataArrive rx dev cl inbox pdom va desc group (stepNo, offset) data) s = .next t ∧ s.wrote t (keys.zip data) ∧
        t.msg.collIn = s.msg.collIn ++ [⟨cl, inbox, desc, group, stepNo, offset, data, none⟩]))

/-! ### Larder programs (R411 to R417) -/

/-- R411 to R416: a LAUNCH copies its commands into a free context; each command does what R413 to R415 give it and the
program goes on to the next; an undefined one ends the program with cause 0x01; LHALT replies when the context's writes
are acknowledged; a context whose wait is over runs again. Bytes that nothing holds stale are the bytes that memory
holds. That a fill or spill moves 64 bytes an event, the first of which resolves the whole, is the model's choice (log entry
64). -/
def Obligations.LarderProgramsRun : Prop :=
  (∀ (s : State) (ld inbox i : Nat) (c : Cmd) (keys : List Nat), (∀ j < inbox, s.cmd (inboxKey (8 + ld) 0 j) = none) → inbox < 8 → ld < 40 →
    s.cmd (inboxKey (8 + ld) 0 inbox) = some c → s.found = .good → c.msg.opc = 0x50 → c.finished = false → c.msg.word 3 % 8 = 0 →
    let tcore := c.msg.word 4 / 2 ^ 16 % 2 ^ 8
    let n := c.msg.word 4 % 2 ^ 10 + 1
    s.runsTask tcore c.msg.pdom = true → s.freeLdCtx ld = some i → s.mem.stale = [] → (∀ k ∈ keys, k < 2 ^ 60) →
    s.rangeKeys (larderGroup ld) c.msg.pdom 0 2 (c.msg.word 3) (8 * n) = (s, .ok keys) →
    ∃ t, exec (.larderLaunch ld) s = .next t ∧ t.cmd (inboxKey (8 + ld) 0 inbox) = none ∧ s.sameMem t ∧
      let x := t.ldCtx ld i
      x.state = 1 ∧ x.index = 0 ∧ x.loops = [] ∧ x.msg = some c.msg ∧ x.tcore = tcore ∧ x.rmask = c.msg.word 4 / 2 ^ 32 % 2 ^ 32 ∧
      x.lb 0 = c.msg.word 5 ∧ (∀ j, 0 < j → j < 8 → x.lb j = 0) ∧
      x.prog = (List.range n).map fun j => BitVec.ofNat 64 (leNat (((keys.map s.byte).drop (8 * j)).take 8))) ∧
  (∀ (s : State) (ld i : Nat) (m : Msg) (w : W64), let x := s.ldCtx ld i
    x.msg = some m → x.kill = false → x.lost = none → s.found = .good → x.prog[x.index]? = some w →
    let A := lcA w.toNat
    let B := lcB w.toNat
    let S (n : Nat) : Nat := x.lb n
    let defined (opc : Nat) : Prop := x.state = 1 ∧ lcOpc w.toNat = opc ∧ lcDefined w.toNat = true
    let becomes (e : Instr) (P : LCtx → Prop) : Prop := ∃ t, exec e s = .next t ∧ s.sameMem t ∧ P (t.ldCtx ld i)
    let on : LCtx := { x with index := x.index + 1 }
    let sx30 : Int := (BitVec.ofNat 30 B).toInt
    let local_ (l : List Nat) : Prop := ∀ k ∈ l, k < 2 ^ 60
    (lcDefined w.toNat = false → m.host = false → m.word 1 = 0 → becomes (.larderUndefinedCommand ld i) fun y => y.state = 5 ∧ y.cause = 1 ∧ y.msg = none ∧ y.index = x.index) ∧
    (defined 0 → becomes (.lnop ld i) fun y => y = on) ∧
    (defined 1 → x.loops.length < 4 → becomes (.lloop ld i) fun y => y = { on with loops := (x.index + 1, B + 1) :: x.loops }) ∧
    (∀ start left rest, defined 2 → x.loops = (start, left) :: rest → becomes (.lend ld i) fun y =>
      y = if 1 < left then { x with index := start, loops := (start, left - 1) :: rest } else { on with loops := rest }) ∧
    (defined 3 → becomes (.lbase ld i) fun y => y.index = x.index + 1 ∧ (∀ j < 8, y.lb j = if j = A % 8 then
      ((BitVec.ofNat 53 (A / 8 * 2 ^ 30 + B)).signExtend 64).toNat else S j)) ∧
    (defined 4 → becomes (.ladd ld i) fun y => y.index = x.index + 1 ∧ (∀ j < 8, y.lb j = if j = A % 8 then
      (((S (A / 8) : Int) + sx30) % 2 ^ 64).toNat else S j)) ∧
    (defined 11 → A / 8 < 5 → B < x.prog.length → becomes (.lbr ld i) fun y =>
      let v := S (A % 8)
      let cond := A / 8
      y = if cond = 0 ∨ (cond = 1 ∧ v = 0) ∨ (cond = 2 ∧ v ≠ 0) ∨ (cond = 3 ∧ 2 ^ 63 ≤ v) ∨ (cond = 4 ∧ v < 2 ^ 63) then { x with index := B } else on) ∧
    (∀ (keys : List Nat) (sk : Nat → List Nat), let tid := A / 8 % 2 ^ 8
      let len := A / 2 ^ 11
      let rows := B % 2 ^ 12 + 1
      let pitch := B / 2 ^ 14
      let data (T : Nat) : List Byte := (List.range rows).flatMap fun r => (sk r).map s.byte ++ List.replicate (T / rows - 16 * len) 0#8
      let rowsAre : Prop := s.mem.stale = [] ∧ ∀ r < rows, (sk r).length = 16 * len ∧ local_ (sk r) ∧
        s.ownKeys ld x.pdom 0 ((S (A % 8) + 16 * pitch * r) % 2 ^ 64) (16 * len) = (s, .ok (sk r))
      let T (core : Nat) : Nat := s.slotSize core tid
      (defined 5 → s.runsTask x.tcore x.pdom = true → tileFits len rows (T x.tcore) = true → s.mayBind ld i [(x.tcore, tid)] = true →
        s.pushSlot (.larder ld i) x.tcore tid (T x.tcore) = .slot keys → rowsAre →
        ∃ t, exec (.lpush ld i) s = .next t ∧ s.wrote t (keys.zip (data (T x.tcore))) ∧ (t.ldCtx ld i).index = x.index + 1 ∧
          (t.ldCtx ld i).written = x.written + T x.tcore ∧ (t.ringSt x.tcore tid).pushes = (s.ringSt x.tcore tid).pushes + 1) ∧
      (∀ core, defined 6 → x.receivers = [core] → s.runsTask core x.pdom = true → tileFits len rows (T core) = true →
        s.mayBind ld i [(core, tid)] = true → s.pushSlot (.larder ld i) core tid (T core) = .slot keys → rowsAre →
        ∃ t, exec (.lpushm ld i 0) s = .next t ∧ s.wrote t (keys.zip (data (T core))) ∧ (t.ldCtx ld i).index = x.index + 1 ∧
          (t.ldCtx ld i).written = x.written + T core) ∧
      (defined 5 → s.runsTask x.tcore x.pdom = true → tileFits len rows (T x.tcore) = true → s.mayBind ld i [(x.tcore, tid)] = true →
        s.pushSlot (.larder ld i) x.tcore tid (T x.tcore) = .wait → becomes (.lpush ld i) fun y => y = { x with state := 2 })) ∧
    (∀ (keys ik : List Nat) (sk : Nat → List Nat), let tid := A / 2 ^ 6 % 2 ^ 8
      let rb := B % 2 ^ 13
      let T := s.slotSize x.tcore tid
      let count := T / (16 * rb)
      let idx (j : Nat) : Nat := leNat (((ik.map s.byte).drop (4 * j)).take 4)
      defined 13 → s.runsTask x.tcore x.pdom = true → 1 ≤ rb → rb ≤ 4096 → T ≠ 0 → T % (16 * rb) = 0 → s.mayBind ld i [(x.tcore, tid)] = true →
      s.pushSlot (.larder ld i) x.tcore tid T = .slot keys → s.mem.stale = [] → local_ ik →
      s.ownKeys ld x.pdom 0 (S (A % 8)) (4 * count) = (s, .ok ik) → (∀ j < count, local_ (sk j) ∧
        s.ownKeys ld x.pdom 0 ((S (A / 8 % 8) + 16 * (B / 2 ^ 16) * idx j) % 2 ^ 64) (16 * rb) = (s, .ok (sk j))) →
      ∃ t, exec (.lgath ld i) s = .next t ∧ s.wrote t (keys.zip ((List.range count).flatMap fun j => (sk j).map s.byte)) ∧
        (t.ldCtx ld i).index = x.index + 1 ∧ (t.ldCtx ld i).lb (A % 8) = (S (A % 8) + 4 * count) % 2 ^ 64) ∧
    (∀ fk tk, let d := S (A % 8)
      let src := S (A / 8)
      32 ≤ ld → B ≠ 0 → d % 64 = 0 → src % 64 = 0 → local_ fk → local_ tk → s.mem.stale = [] →
      let n := if x.pos = 0 then 64 * B else 64
      let g := larderGroup ld
      let copies (e : Instr) : Prop := ∃ t, exec e s = .next t ∧ s.wrote t ((tk.take 64).zip ((fk.take 64).map s.byte)) ∧
        let y := t.ldCtx ld i
        y.written = x.written + 64 ∧ if 64 * B ≤ x.pos + 64 then y.index = x.index + 1 ∧ y.pos = 0 else y.index = x.index ∧ y.pos = x.pos + 64
      (defined 7 → (isPoolAddr d && paSpace d == 3) = false → s.ownKeys ld x.pdom 0 ((src + x.pos) % 2 ^ 64) n = (s, .ok fk) →
        s.spot g x.pdom 0 ((d + x.pos) % 2 ^ 64) n 1 = (s, .ok (.keys tk)) → copies (.lfill ld i)) ∧
      (defined 8 → s.fetchKeys g x.pdom 0 ((src + x.pos) % 2 ^ 64) n = (s, .ok fk) → s.ownKeys ld x.pdom 1 ((d + x.pos) % 2 ^ 64) n = (s, .ok tk) →
        copies (.lspill ld i))) ∧
    (∀ k, let v := if A / 8 = 1 then (x.sc + 1) % 2 ^ 48 else B
      s.stampKey ld x (S (A % 8)) 1 = (s, .ok k) → k < 2 ^ 60 → (s.wordVer k).newest < v → s.versionFull k = false → s.held = false → s.larderQuiet ld i = true →
      defined 9 → ∃ t, exec (.lstamp ld i) s = .next t ∧ s.wrote t ((keyRange k 8).zip (leBytes v 8)) ∧ (t.wordVer k).newest = v ∧
        (t.ldCtx ld i).index = x.index + 1 ∧ (t.ldCtx ld i).sc = (if A / 8 = 1 then v else x.sc)) ∧
    (∀ k, s.stampKey ld x (S (A % 8)) 0 = (s, .ok k) → k < 2 ^ 60 → defined 10 →
      becomes (.lwaitv ld i) fun y => if B ≤ (s.wordVer k).newest then y = on else y.state = 3 ∧ y.index = x.index) ∧
    (s.larderQuiet ld i = true → (defined 12 → m.host = false → m.word 1 = 0 → ∃ t, exec (.lhalt ld i) s = .next t ∧ t.ldCtx ld i = { cause := x.cause } ∧ s.sameMem t) ∧
      (x.state = 4 → becomes (.larderWaitRelease ld i) fun y => y = { x with state := 1 })))

/-! ### Reset, decoding, the step, memory (R18, R252 to R264, R45, R201) -/

/-- R18 and the reset columns of the register tables (R26, R35, R40, R41, R60, R70, R106, R136, R156, R223, R224, R228,
R231, R238, R301, R306, R318, R320, R417, R432): values that the spec gives for reset, and memory in its canonical form. -/
def Obligations.ResetValues : Prop :=
  let s := State.reset
  let R := s.regRead
  s.clk.time = 0 ∧ s.xl.domValid = false ∧ s.sch.launches = [] ∧ s.msg.inbox = [] ∧ Memory.wf s.mem.bytes = true ∧
  (∀ c, c ≠ 1024 → (s.ctx c).run = .idle) ∧ (s.ctx 1024).run = .running ∧
  (∀ core, (s.fab core).st = .free ∧ partCB (s.part core) = 16 ∧ partSP (s.part core) = 24 ∧ partAC (s.part core) = 8) ∧
  (∀ f, (s.frame f).owner = none) ∧ (∀ x, s.isFull x = false) ∧ (∀ k, (s.wordVer k).newest = 0 ∧ (s.wordVer k).older = []) ∧
  (∀ c, let x := (s.ctx c).csr
    x.tvec = 0#64 ∧ x.tpc = 0#64 ∧ x.tcause = 0#8 ∧ x.tdetail = 0#64 ∧ x.inTrap = false ∧ x.timecmp = BitVec.allOnes 64) ∧
  (∀ p < 12, R (0x4000000 + 0x10000 * p) = 0x30#64 ∧ R (0x4000010 + 0x10000 * p) = 0#64) ∧
  R 0x4100008 = 0#64 ∧ (∀ cl < 8, (s.clu cl).vstall = 24 ∧ (s.clu cl).thDelay = 16 ∧ R (0x3200148 + 0x10000 * cl) = 0#64) ∧
  (∀ ld < 40, ∀ i < 16, s.ldCtx ld i = {}) ∧ R 0x7000000 = 0#64

/-- R252 to R257, R233: with no event due, a running context that owes nothing and stands at no breakpoint runs the
instruction that the word at its pc decodes to, or, for a long form, that word and the next; a word that decodes to none
takes the illegal-instruction trap. An event that is due comes first. Before, time passes; after, `settle` halts a
management sequencer that MDBG.CTL.STEP let run once its instruction has issued, and does nothing to any other state. -/
def Obligations.StepRunsDecoded : Prop :=
  (∀ (s : State) (k : Nat), let u := s.pass
    let x := s.ctx s.cur
    let w := u.codeWord (.mem k)
    let runs (i : Instr) : Prop := step s = match exec i u with
      | .next t => .next t.settle
      | r => r
    s.agenda = [] → x.run = .running → (s.cur = 1024 → s.dbg.mHalted = false ∧ s.mdbgBreak x.pc = none) → x.endWait = false → x.pendTrap = none →
    (x.bpDone = 0 → s.breakpointsFor s.cur 0 x.pc.toNat = []) → u.resolve s.cur x.pc 2 = .mem k →
    (isLong w = false → (∀ i, decode w 0#32 = .ok i → runs i) ∧ (∀ e, decode w 0#32 = .error e → runs .illegalInstructionTrap)) ∧
    (∀ k2, isLong w = true → u.resolve s.cur (x.pc + 4#64) 2 = .mem k2 →
      (∀ i, decode w (u.codeWord (.mem k2)) = .ok i → runs i) ∧
      (∀ e, decode w (u.codeWord (.mem k2)) = .error e → runs .illegalInstructionTrap))) ∧
  (∀ (s : State) (i : Instr) (rest : List Instr), s.agenda = i :: rest → step s = exec i { s.pass with agenda := rest }) ∧
  (∀ s : State, let x := s.ctx 1024
    s.settle = if s.cur = 1024 ∧ s.dbg.mStep = true ∧ (x.run ≠ .running ∨ (x.stall = 0 ∧ x.sendRead = none) ∨ x.stall = 8) then
      { s with dbg := { s.dbg with
        mHit := 14
        mStep := false
        mHalted := true } } else s)

/-- The encodings that "Encodings worked out" of chapter 14 gives, words written out from R253 and R258 to R264, and words
that are refused: an unassigned major opcode, a used zero field, a LONG opcode in a single word, kinds 0b10 and 0b11. -/
def Obligations.WordsDecode : Prop :=
  decode 0x00298E00#32 0#32 = .ok (.add 5#5 6#5 7#5) ∧ decode 0x10180803#32 0#32 = .ok (.bCond 3#5 0#5 1#3 3#11) ∧
  decode 0x49203FFF#32 0xBFFFFFFE#32 = .ok (.limm 4#5 (-2#44)) ∧ decode 0x22000FC7#32 0#32 = .ok (.waitc 7#3 7#3 0#3 7#3) ∧
  decode 0x18094FFC#32 0#32 = .ok (.ld 1#5 5#5 0#2 (-4#12)) ∧ decode 0x1E0904C3#32 0#32 = .error .code ∧
  decode 0x1E090583#32 0#32 = .ok (.amo 1#5 4#5 2#5 1#1 3#4) ∧ decode 0x3A001001#32 0#32 = .ok (.csrw 0#5 1#12) ∧
  decode 0x3C000003#32 0#32 = .ok .rft ∧ decode 0x3C080003#32 0#32 = .error .zeroField ∧ decode 0x0B000000#32 0#32 = .error .major ∧
  decode 0x09200000#32 0#32 = .error .major ∧ decode 0x49200000#32 0x00000000#32 = .error .pair ∧ decode 0x41000000#32 0x80000000#32 = .error .pair ∧
  decode 0x80000000#32 0#32 = .error .kind ∧ decode 0xC0000000#32 0#32 = .error .kind

/-- R252 to R264: no bit of an encoding is dropped. Every well-formed instruction that has words decodes back from them, in
words and in little-endian bytes; and a word, or a pair, that decodes is the encoding of the instruction it decodes to. -/
def Obligations.EncodeAndDecodeAgree : Prop :=
  (∀ (i : Instr), wellFormed i = true → encode i ≠ [] →
    (∀ w2, i.size = 4 → ∃ w, encode i = [w] ∧ isLong w = false ∧ decode w w2 = .ok i) ∧
    (i.size = 8 → ∃ w w2, encode i = [w, w2] ∧ isLong w = true ∧ decode w w2 = .ok i) ∧
    ∀ rest : List Byte, 4 ≤ rest.length → decodeBytes ((encode i).flatMap wordBytes ++ rest) = .ok i) ∧
  (∀ (w w2 : W32) (i : Instr), decode w w2 = .ok i → wellFormed i = true ∧ encode i = if isLong w then [w, w2] else [w])

/-- The canonical form of memory (addresses rising, no entry equal to what an unlisted byte reads as) is kept by every
step, whatever it runs: equal memories stay equal data. The form is the model's own (log entry 2). -/
def Obligations.MemoryStaysCanonical : Prop :=
  ∀ s t : State, Memory.wf s.mem.bytes = true → step s = .next t → Memory.wf t.mem.bytes = true
end

