-- ==== Sys2Proof/Laws/Maps.lean ====
section
/-! SUPPORT. The sparse map: a read after a write, and the canonical form. -/

namespace Sys2Proof.SMap

variable {α : Type}

theorem get_erase_same (d : α) (m : SMap α) (k : Nat) : get d (erase m k) k = d := by
  induction m with
  | nil => rfl
  | cons e t ih => simp only [erase]; split <;> simp_all [get]

theorem get_erase_other (d : α) (m : SMap α) {k j : Nat} (h : j ≠ k) : get d (erase m k) j = get d m j := by
  induction m with
  | nil => rfl
  | cons e t ih =>
    simp only [erase]; split
    · subst_vars; simp [get, ih, Ne.symm h]
    · simp [get, ih]

theorem get_place_same (d : α) (m : SMap α) (k : Nat) (v : α) (h : ∀ e ∈ m, e.1 ≠ k) : get d (place k v m) k = v := by
  induction m with
  | nil => simp [place, get]
  | cons e t ih =>
    simp only [place]; split
    · simp [get]
    · simp [get, h e (by simp), ih fun x hx => h x (by simp [hx])]

theorem get_place_other (d : α) (m : SMap α) {k j : Nat} (v : α) (h : j ≠ k) : get d (place k v m) j = get d m j := by
  induction m with
  | nil => simp [place, get, Ne.symm h]
  | cons e t ih =>
    simp only [place]; split
    · simp [get, Ne.symm h]
    · simp [get, ih]

theorem mem_erase {m : SMap α} {k : Nat} {e : Nat × α} (h : e ∈ erase m k) : e ∈ m ∧ e.1 ≠ k := by
  induction m with
  | nil => simp [erase] at h
  | cons x t ih =>
    simp only [erase] at h; split at h
    · exact ⟨by simp [(ih h).1], (ih h).2⟩
    · rename_i hx
      rcases List.mem_cons.mp h with rfl | h
      · exact ⟨by simp, hx⟩
      · exact ⟨by simp [(ih h).1], (ih h).2⟩

/-- A read of the key that was written. -/
@[simp] theorem get_set_same [DecidableEq α] (d : α) (m : SMap α) (k : Nat) (v : α) : get d (set d m k v) k = v := by
  unfold set; split
  · simp_all [get_erase_same]
  · exact get_place_same d _ k v fun e he => (mem_erase he).2

/-- A read of another key, whatever the default that it reads with. -/
theorem get_set_other [DecidableEq α] (d e : α) (m : SMap α) {k j : Nat} (v : α) (h : j ≠ k) :
    get e (set d m k v) j = get e m j := by
  unfold set; split
  · exact get_erase_other e m h
  · rw [get_place_other e _ v h, get_erase_other e m h]

theorem get_set [DecidableEq α] (d : α) (m : SMap α) (k j : Nat) (v : α) :
    get d (set d m k v) j = if j = k then v else get d m j := by
  split
  · subst_vars; simp
  · exact get_set_other d d m v ‹_›

theorem erase_none {m : SMap α} {k : Nat} (h : ∀ e ∈ m, e.1 ≠ k) : erase m k = m := by
  induction m with
  | nil => rfl
  | cons e t ih => simp only [erase, h e (by simp), ↓reduceIte]; rw [ih fun x hx => h x (by simp [hx])]

theorem erase_place {m : SMap α} {k : Nat} (v : α) (h : ∀ e ∈ m, e.1 ≠ k) : erase (place k v m) k = m := by
  induction m with
  | nil => simp [place, erase]
  | cons e t ih =>
    have ht : ∀ x ∈ t, x.1 ≠ k := fun x hx => h x (by simp [hx])
    simp only [place]; split
    · simp only [erase, ↓reduceIte, h e (by simp)]; rw [erase_none ht]
    · simp only [erase, h e (by simp), ↓reduceIte]; rw [ih ht]

/-- The last of two writes of a key stands. -/
@[simp] theorem set_set [DecidableEq α] (d : α) (m : SMap α) (k : Nat) (v w : α) : set d (set d m k v) k w = set d m k w := by
  have he : erase (set d m k v) k = erase m k := by
    unfold set; split
    · exact erase_none fun e he => (mem_erase he).2
    · exact erase_place v fun e he => (mem_erase he).2
  show (if w = d then erase (set d m k v) k else place k w (erase (set d m k v) k)) = _
  rw [he]; rfl

/-! ### The canonical form -/

theorem above_iff {m : SMap α} {k : Nat} : above m k = true ↔ m.Pairwise (fun a b => a.1 < b.1) ∧ ∀ e ∈ m, k < e.1 := by
  induction m generalizing k with
  | nil => simp [above]
  | cons e t ih =>
    simp only [above, Bool.and_eq_true, decide_eq_true_eq, ih, List.pairwise_cons, List.mem_cons, forall_eq_or_imp]
    constructor
    · rintro ⟨h, hp, ha⟩; exact ⟨⟨ha, hp⟩, h, fun x hx => lt_trans h (ha x hx)⟩
    · rintro ⟨⟨ha, hp⟩, h, _⟩; exact ⟨h, hp, ha⟩

theorem wf_iff [DecidableEq α] {d : α} {m : SMap α} :
    wf d m = true ↔ m.Pairwise (fun a b => a.1 < b.1) ∧ ∀ e ∈ m, e.2 ≠ d := by
  cases m with
  | nil => simp [wf]
  | cons e t =>
    simp only [wf, Bool.and_eq_true, above_iff, List.all_eq_true, decide_eq_true_eq, List.pairwise_cons]
    tauto

theorem erase_eq_filter (m : SMap α) (k : Nat) : erase m k = m.filter fun e => decide (e.1 ≠ k) := by
  induction m with
  | nil => rfl
  | cons e t ih => simp only [erase]; split <;> simp_all

theorem mem_place {m : SMap α} {k : Nat} {v : α} {e : Nat × α} : e ∈ place k v m ↔ e = (k, v) ∨ e ∈ m := by
  induction m with
  | nil => simp [place]
  | cons x t ih => simp only [place]; split <;> simp_all; tauto

theorem pairwise_place {m : SMap α} {k : Nat} {v : α} (h : m.Pairwise fun a b => a.1 < b.1) (hk : ∀ e ∈ m, e.1 ≠ k) :
    (place k v m).Pairwise fun a b => a.1 < b.1 := by
  induction m with
  | nil => simp [place]
  | cons x t ih =>
    rw [List.pairwise_cons] at h
    simp only [place]; split
    · rename_i hlt
      simp only [List.pairwise_cons, List.mem_cons, forall_eq_or_imp]
      exact ⟨⟨hlt, fun e he => lt_trans hlt (h.1 e he)⟩, h.1, h.2⟩
    · rename_i hge
      simp only [List.pairwise_cons, mem_place, forall_eq_or_imp]
      refine ⟨⟨?_, h.1⟩, ih h.2 fun e he => hk e (by simp [he])⟩
      exact lt_of_le_of_ne (not_lt.mp hge) (hk x (by simp))

/-- A filter of a canonical map is canonical. -/
theorem wf_filter [DecidableEq α] {d : α} {m : SMap α} (h : wf d m = true) (p : Nat × α → Bool) : wf d (m.filter p) = true := by
  rw [wf_iff] at *
  exact ⟨h.1.filter _, fun e he => h.2 e (List.mem_of_mem_filter he)⟩

/-- A write keeps the canonical form. -/
theorem wf_set [DecidableEq α] {d : α} {m : SMap α} (h : wf d m = true) (k : Nat) (v : α) : wf d (set d m k v) = true := by
  have he : wf d (erase m k) = true := by rw [erase_eq_filter]; exact wf_filter h _
  unfold set; split
  · exact he
  · rename_i hv
    rw [wf_iff] at *
    refine ⟨pairwise_place he.1 fun e h => (mem_erase h).2, fun e h => ?_⟩
    rcases mem_place.mp h with rfl | h
    · exact hv
    · exact he.2 e h

theorem wf_eraseRange [DecidableEq α] {d : α} {m : SMap α} (h : wf d m = true) (lo n : Nat) :
    wf d (eraseRange m lo n) = true := wf_filter h _

end Sys2Proof.SMap
end

