-- ==== Sys2Proof/Laws/State.lean ====
section
/-! SUPPORT. One lemma per field of State and update of State, and reads after updates. -/

namespace Sys2Proof.Machine

@[simp] theorem State.setCtx_pkg (s : State) (c : Nat) (x : Ctx) : (s.setCtx c x).pkg = s.pkg := rfl
@[simp] theorem State.setCtx_clk (s : State) (c : Nat) (x : Ctx) : (s.setCtx c x).clk = s.clk := rfl
@[simp] theorem State.setCtx_mem (s : State) (c : Nat) (x : Ctx) : (s.setCtx c x).mem = s.mem := rfl
@[simp] theorem State.setCtx_xl (s : State) (c : Nat) (x : Ctx) : (s.setCtx c x).xl = s.xl := rfl
@[simp] theorem State.setCtx_msg (s : State) (c : Nat) (x : Ctx) : (s.setCtx c x).msg = s.msg := rfl
@[simp] theorem State.setCtx_sch (s : State) (c : Nat) (x : Ctx) : (s.setCtx c x).sch = s.sch := rfl
@[simp] theorem State.setCtx_ctxs (s : State) (c : Nat) (x : Ctx) : (s.setCtx c x).ctxs = SMap.set (Ctx.blank c) s.ctxs c x := rfl
@[simp] theorem State.setCtx_fabs (s : State) (c : Nat) (x : Ctx) : (s.setCtx c x).fabs = s.fabs := rfl
@[simp] theorem State.setCtx_net (s : State) (c : Nat) (x : Ctx) : (s.setCtx c x).net = s.net := rfl
@[simp] theorem State.setCtx_pow (s : State) (c : Nat) (x : Ctx) : (s.setCtx c x).pow = s.pow := rfl
@[simp] theorem State.setCtx_dbg (s : State) (c : Nat) (x : Ctx) : (s.setCtx c x).dbg = s.dbg := rfl
@[simp] theorem State.setCtx_out (s : State) (c : Nat) (x : Ctx) : (s.setCtx c x).out = s.out := rfl
@[simp] theorem State.setCtx_agenda (s : State) (c : Nat) (x : Ctx) : (s.setCtx c x).agenda = s.agenda := rfl
@[simp] theorem State.setCtx_finds (s : State) (c : Nat) (x : Ctx) : (s.setCtx c x).finds = s.finds := rfl
@[simp] theorem State.setCtx_cur (s : State) (c : Nat) (x : Ctx) : (s.setCtx c x).cur = s.cur := rfl

@[simp] theorem State.setFab_pkg (s : State) (c : Nat) (x : Fabric) : (s.setFab c x).pkg = s.pkg := rfl
@[simp] theorem State.setFab_clk (s : State) (c : Nat) (x : Fabric) : (s.setFab c x).clk = s.clk := rfl
@[simp] theorem State.setFab_mem (s : State) (c : Nat) (x : Fabric) : (s.setFab c x).mem = s.mem := rfl
@[simp] theorem State.setFab_xl (s : State) (c : Nat) (x : Fabric) : (s.setFab c x).xl = s.xl := rfl
@[simp] theorem State.setFab_msg (s : State) (c : Nat) (x : Fabric) : (s.setFab c x).msg = s.msg := rfl
@[simp] theorem State.setFab_sch (s : State) (c : Nat) (x : Fabric) : (s.setFab c x).sch = s.sch := rfl
@[simp] theorem State.setFab_ctxs (s : State) (c : Nat) (x : Fabric) : (s.setFab c x).ctxs = s.ctxs := rfl
@[simp] theorem State.setFab_fabs (s : State) (c : Nat) (x : Fabric) : (s.setFab c x).fabs = SMap.set {} s.fabs c x := rfl
@[simp] theorem State.setFab_net (s : State) (c : Nat) (x : Fabric) : (s.setFab c x).net = s.net := rfl
@[simp] theorem State.setFab_pow (s : State) (c : Nat) (x : Fabric) : (s.setFab c x).pow = s.pow := rfl
@[simp] theorem State.setFab_dbg (s : State) (c : Nat) (x : Fabric) : (s.setFab c x).dbg = s.dbg := rfl
@[simp] theorem State.setFab_out (s : State) (c : Nat) (x : Fabric) : (s.setFab c x).out = s.out := rfl
@[simp] theorem State.setFab_agenda (s : State) (c : Nat) (x : Fabric) : (s.setFab c x).agenda = s.agenda := rfl
@[simp] theorem State.setFab_finds (s : State) (c : Nat) (x : Fabric) : (s.setFab c x).finds = s.finds := rfl
@[simp] theorem State.setFab_cur (s : State) (c : Nat) (x : Fabric) : (s.setFab c x).cur = s.cur := rfl

@[simp] theorem State.updMem_pkg (s : State) (f : MemSt → MemSt) : (s.updMem f).pkg = s.pkg := rfl
@[simp] theorem State.updMem_clk (s : State) (f : MemSt → MemSt) : (s.updMem f).clk = s.clk := rfl
@[simp] theorem State.updMem_mem (s : State) (f : MemSt → MemSt) : (s.updMem f).mem = f s.mem := rfl
@[simp] theorem State.updMem_xl (s : State) (f : MemSt → MemSt) : (s.updMem f).xl = s.xl := rfl
@[simp] theorem State.updMem_msg (s : State) (f : MemSt → MemSt) : (s.updMem f).msg = s.msg := rfl
@[simp] theorem State.updMem_sch (s : State) (f : MemSt → MemSt) : (s.updMem f).sch = s.sch := rfl
@[simp] theorem State.updMem_ctxs (s : State) (f : MemSt → MemSt) : (s.updMem f).ctxs = s.ctxs := rfl
@[simp] theorem State.updMem_fabs (s : State) (f : MemSt → MemSt) : (s.updMem f).fabs = s.fabs := rfl
@[simp] theorem State.updMem_net (s : State) (f : MemSt → MemSt) : (s.updMem f).net = s.net := rfl
@[simp] theorem State.updMem_pow (s : State) (f : MemSt → MemSt) : (s.updMem f).pow = s.pow := rfl
@[simp] theorem State.updMem_dbg (s : State) (f : MemSt → MemSt) : (s.updMem f).dbg = s.dbg := rfl
@[simp] theorem State.updMem_out (s : State) (f : MemSt → MemSt) : (s.updMem f).out = s.out := rfl
@[simp] theorem State.updMem_agenda (s : State) (f : MemSt → MemSt) : (s.updMem f).agenda = s.agenda := rfl
@[simp] theorem State.updMem_finds (s : State) (f : MemSt → MemSt) : (s.updMem f).finds = s.finds := rfl
@[simp] theorem State.updMem_cur (s : State) (f : MemSt → MemSt) : (s.updMem f).cur = s.cur := rfl

@[simp] theorem State.updMsg_pkg (s : State) (f : MsgSt → MsgSt) : (s.updMsg f).pkg = s.pkg := rfl
@[simp] theorem State.updMsg_clk (s : State) (f : MsgSt → MsgSt) : (s.updMsg f).clk = s.clk := rfl
@[simp] theorem State.updMsg_mem (s : State) (f : MsgSt → MsgSt) : (s.updMsg f).mem = s.mem := rfl
@[simp] theorem State.updMsg_xl (s : State) (f : MsgSt → MsgSt) : (s.updMsg f).xl = s.xl := rfl
@[simp] theorem State.updMsg_msg (s : State) (f : MsgSt → MsgSt) : (s.updMsg f).msg = f s.msg := rfl
@[simp] theorem State.updMsg_sch (s : State) (f : MsgSt → MsgSt) : (s.updMsg f).sch = s.sch := rfl
@[simp] theorem State.updMsg_ctxs (s : State) (f : MsgSt → MsgSt) : (s.updMsg f).ctxs = s.ctxs := rfl
@[simp] theorem State.updMsg_fabs (s : State) (f : MsgSt → MsgSt) : (s.updMsg f).fabs = s.fabs := rfl
@[simp] theorem State.updMsg_net (s : State) (f : MsgSt → MsgSt) : (s.updMsg f).net = s.net := rfl
@[simp] theorem State.updMsg_pow (s : State) (f : MsgSt → MsgSt) : (s.updMsg f).pow = s.pow := rfl
@[simp] theorem State.updMsg_dbg (s : State) (f : MsgSt → MsgSt) : (s.updMsg f).dbg = s.dbg := rfl
@[simp] theorem State.updMsg_out (s : State) (f : MsgSt → MsgSt) : (s.updMsg f).out = s.out := rfl
@[simp] theorem State.updMsg_agenda (s : State) (f : MsgSt → MsgSt) : (s.updMsg f).agenda = s.agenda := rfl
@[simp] theorem State.updMsg_finds (s : State) (f : MsgSt → MsgSt) : (s.updMsg f).finds = s.finds := rfl
@[simp] theorem State.updMsg_cur (s : State) (f : MsgSt → MsgSt) : (s.updMsg f).cur = s.cur := rfl

@[simp] theorem State.updSch_pkg (s : State) (f : SchSt → SchSt) : (s.updSch f).pkg = s.pkg := rfl
@[simp] theorem State.updSch_clk (s : State) (f : SchSt → SchSt) : (s.updSch f).clk = s.clk := rfl
@[simp] theorem State.updSch_mem (s : State) (f : SchSt → SchSt) : (s.updSch f).mem = s.mem := rfl
@[simp] theorem State.updSch_xl (s : State) (f : SchSt → SchSt) : (s.updSch f).xl = s.xl := rfl
@[simp] theorem State.updSch_msg (s : State) (f : SchSt → SchSt) : (s.updSch f).msg = s.msg := rfl
@[simp] theorem State.updSch_sch (s : State) (f : SchSt → SchSt) : (s.updSch f).sch = f s.sch := rfl
@[simp] theorem State.updSch_ctxs (s : State) (f : SchSt → SchSt) : (s.updSch f).ctxs = s.ctxs := rfl
@[simp] theorem State.updSch_fabs (s : State) (f : SchSt → SchSt) : (s.updSch f).fabs = s.fabs := rfl
@[simp] theorem State.updSch_net (s : State) (f : SchSt → SchSt) : (s.updSch f).net = s.net := rfl
@[simp] theorem State.updSch_pow (s : State) (f : SchSt → SchSt) : (s.updSch f).pow = s.pow := rfl
@[simp] theorem State.updSch_dbg (s : State) (f : SchSt → SchSt) : (s.updSch f).dbg = s.dbg := rfl
@[simp] theorem State.updSch_out (s : State) (f : SchSt → SchSt) : (s.updSch f).out = s.out := rfl
@[simp] theorem State.updSch_agenda (s : State) (f : SchSt → SchSt) : (s.updSch f).agenda = s.agenda := rfl
@[simp] theorem State.updSch_finds (s : State) (f : SchSt → SchSt) : (s.updSch f).finds = s.finds := rfl
@[simp] theorem State.updSch_cur (s : State) (f : SchSt → SchSt) : (s.updSch f).cur = s.cur := rfl

@[simp] theorem State.updXl_pkg (s : State) (f : XlatSt → XlatSt) : (s.updXl f).pkg = s.pkg := rfl
@[simp] theorem State.updXl_clk (s : State) (f : XlatSt → XlatSt) : (s.updXl f).clk = s.clk := rfl
@[simp] theorem State.updXl_mem (s : State) (f : XlatSt → XlatSt) : (s.updXl f).mem = s.mem := rfl
@[simp] theorem State.updXl_xl (s : State) (f : XlatSt → XlatSt) : (s.updXl f).xl = f s.xl := rfl
@[simp] theorem State.updXl_msg (s : State) (f : XlatSt → XlatSt) : (s.updXl f).msg = s.msg := rfl
@[simp] theorem State.updXl_sch (s : State) (f : XlatSt → XlatSt) : (s.updXl f).sch = s.sch := rfl
@[simp] theorem State.updXl_ctxs (s : State) (f : XlatSt → XlatSt) : (s.updXl f).ctxs = s.ctxs := rfl
@[simp] theorem State.updXl_fabs (s : State) (f : XlatSt → XlatSt) : (s.updXl f).fabs = s.fabs := rfl
@[simp] theorem State.updXl_net (s : State) (f : XlatSt → XlatSt) : (s.updXl f).net = s.net := rfl
@[simp] theorem State.updXl_pow (s : State) (f : XlatSt → XlatSt) : (s.updXl f).pow = s.pow := rfl
@[simp] theorem State.updXl_dbg (s : State) (f : XlatSt → XlatSt) : (s.updXl f).dbg = s.dbg := rfl
@[simp] theorem State.updXl_out (s : State) (f : XlatSt → XlatSt) : (s.updXl f).out = s.out := rfl
@[simp] theorem State.updXl_agenda (s : State) (f : XlatSt → XlatSt) : (s.updXl f).agenda = s.agenda := rfl
@[simp] theorem State.updXl_finds (s : State) (f : XlatSt → XlatSt) : (s.updXl f).finds = s.finds := rfl
@[simp] theorem State.updXl_cur (s : State) (f : XlatSt → XlatSt) : (s.updXl f).cur = s.cur := rfl

@[simp] theorem State.updPkg_pkg (s : State) (f : Pkg → Pkg) : (s.updPkg f).pkg = f s.pkg := rfl
@[simp] theorem State.updPkg_clk (s : State) (f : Pkg → Pkg) : (s.updPkg f).clk = s.clk := rfl
@[simp] theorem State.updPkg_mem (s : State) (f : Pkg → Pkg) : (s.updPkg f).mem = s.mem := rfl
@[simp] theorem State.updPkg_xl (s : State) (f : Pkg → Pkg) : (s.updPkg f).xl = s.xl := rfl
@[simp] theorem State.updPkg_msg (s : State) (f : Pkg → Pkg) : (s.updPkg f).msg = s.msg := rfl
@[simp] theorem State.updPkg_sch (s : State) (f : Pkg → Pkg) : (s.updPkg f).sch = s.sch := rfl
@[simp] theorem State.updPkg_ctxs (s : State) (f : Pkg → Pkg) : (s.updPkg f).ctxs = s.ctxs := rfl
@[simp] theorem State.updPkg_fabs (s : State) (f : Pkg → Pkg) : (s.updPkg f).fabs = s.fabs := rfl
@[simp] theorem State.updPkg_net (s : State) (f : Pkg → Pkg) : (s.updPkg f).net = s.net := rfl
@[simp] theorem State.updPkg_pow (s : State) (f : Pkg → Pkg) : (s.updPkg f).pow = s.pow := rfl
@[simp] theorem State.updPkg_dbg (s : State) (f : Pkg → Pkg) : (s.updPkg f).dbg = s.dbg := rfl
@[simp] theorem State.updPkg_out (s : State) (f : Pkg → Pkg) : (s.updPkg f).out = s.out := rfl
@[simp] theorem State.updPkg_agenda (s : State) (f : Pkg → Pkg) : (s.updPkg f).agenda = s.agenda := rfl
@[simp] theorem State.updPkg_finds (s : State) (f : Pkg → Pkg) : (s.updPkg f).finds = s.finds := rfl
@[simp] theorem State.updPkg_cur (s : State) (f : Pkg → Pkg) : (s.updPkg f).cur = s.cur := rfl

@[simp] theorem State.updPow_pkg (s : State) (f : PowSt → PowSt) : (s.updPow f).pkg = s.pkg := rfl
@[simp] theorem State.updPow_clk (s : State) (f : PowSt → PowSt) : (s.updPow f).clk = s.clk := rfl
@[simp] theorem State.updPow_mem (s : State) (f : PowSt → PowSt) : (s.updPow f).mem = s.mem := rfl
@[simp] theorem State.updPow_xl (s : State) (f : PowSt → PowSt) : (s.updPow f).xl = s.xl := rfl
@[simp] theorem State.updPow_msg (s : State) (f : PowSt → PowSt) : (s.updPow f).msg = s.msg := rfl
@[simp] theorem State.updPow_sch (s : State) (f : PowSt → PowSt) : (s.updPow f).sch = s.sch := rfl
@[simp] theorem State.updPow_ctxs (s : State) (f : PowSt → PowSt) : (s.updPow f).ctxs = s.ctxs := rfl
@[simp] theorem State.updPow_fabs (s : State) (f : PowSt → PowSt) : (s.updPow f).fabs = s.fabs := rfl
@[simp] theorem State.updPow_net (s : State) (f : PowSt → PowSt) : (s.updPow f).net = s.net := rfl
@[simp] theorem State.updPow_pow (s : State) (f : PowSt → PowSt) : (s.updPow f).pow = f s.pow := rfl
@[simp] theorem State.updPow_dbg (s : State) (f : PowSt → PowSt) : (s.updPow f).dbg = s.dbg := rfl
@[simp] theorem State.updPow_out (s : State) (f : PowSt → PowSt) : (s.updPow f).out = s.out := rfl
@[simp] theorem State.updPow_agenda (s : State) (f : PowSt → PowSt) : (s.updPow f).agenda = s.agenda := rfl
@[simp] theorem State.updPow_finds (s : State) (f : PowSt → PowSt) : (s.updPow f).finds = s.finds := rfl
@[simp] theorem State.updPow_cur (s : State) (f : PowSt → PowSt) : (s.updPow f).cur = s.cur := rfl

@[simp] theorem State.updDbg_pkg (s : State) (f : DbgSt → DbgSt) : (s.updDbg f).pkg = s.pkg := rfl
@[simp] theorem State.updDbg_clk (s : State) (f : DbgSt → DbgSt) : (s.updDbg f).clk = s.clk := rfl
@[simp] theorem State.updDbg_mem (s : State) (f : DbgSt → DbgSt) : (s.updDbg f).mem = s.mem := rfl
@[simp] theorem State.updDbg_xl (s : State) (f : DbgSt → DbgSt) : (s.updDbg f).xl = s.xl := rfl
@[simp] theorem State.updDbg_msg (s : State) (f : DbgSt → DbgSt) : (s.updDbg f).msg = s.msg := rfl
@[simp] theorem State.updDbg_sch (s : State) (f : DbgSt → DbgSt) : (s.updDbg f).sch = s.sch := rfl
@[simp] theorem State.updDbg_ctxs (s : State) (f : DbgSt → DbgSt) : (s.updDbg f).ctxs = s.ctxs := rfl
@[simp] theorem State.updDbg_fabs (s : State) (f : DbgSt → DbgSt) : (s.updDbg f).fabs = s.fabs := rfl
@[simp] theorem State.updDbg_net (s : State) (f : DbgSt → DbgSt) : (s.updDbg f).net = s.net := rfl
@[simp] theorem State.updDbg_pow (s : State) (f : DbgSt → DbgSt) : (s.updDbg f).pow = s.pow := rfl
@[simp] theorem State.updDbg_dbg (s : State) (f : DbgSt → DbgSt) : (s.updDbg f).dbg = f s.dbg := rfl
@[simp] theorem State.updDbg_out (s : State) (f : DbgSt → DbgSt) : (s.updDbg f).out = s.out := rfl
@[simp] theorem State.updDbg_agenda (s : State) (f : DbgSt → DbgSt) : (s.updDbg f).agenda = s.agenda := rfl
@[simp] theorem State.updDbg_finds (s : State) (f : DbgSt → DbgSt) : (s.updDbg f).finds = s.finds := rfl
@[simp] theorem State.updDbg_cur (s : State) (f : DbgSt → DbgSt) : (s.updDbg f).cur = s.cur := rfl

@[simp] theorem State.updNet_pkg (s : State) (f : PortsSt → PortsSt) : (s.updNet f).pkg = s.pkg := rfl
@[simp] theorem State.updNet_clk (s : State) (f : PortsSt → PortsSt) : (s.updNet f).clk = s.clk := rfl
@[simp] theorem State.updNet_mem (s : State) (f : PortsSt → PortsSt) : (s.updNet f).mem = s.mem := rfl
@[simp] theorem State.updNet_xl (s : State) (f : PortsSt → PortsSt) : (s.updNet f).xl = s.xl := rfl
@[simp] theorem State.updNet_msg (s : State) (f : PortsSt → PortsSt) : (s.updNet f).msg = s.msg := rfl
@[simp] theorem State.updNet_sch (s : State) (f : PortsSt → PortsSt) : (s.updNet f).sch = s.sch := rfl
@[simp] theorem State.updNet_ctxs (s : State) (f : PortsSt → PortsSt) : (s.updNet f).ctxs = s.ctxs := rfl
@[simp] theorem State.updNet_fabs (s : State) (f : PortsSt → PortsSt) : (s.updNet f).fabs = s.fabs := rfl
@[simp] theorem State.updNet_net (s : State) (f : PortsSt → PortsSt) : (s.updNet f).net = f s.net := rfl
@[simp] theorem State.updNet_pow (s : State) (f : PortsSt → PortsSt) : (s.updNet f).pow = s.pow := rfl
@[simp] theorem State.updNet_dbg (s : State) (f : PortsSt → PortsSt) : (s.updNet f).dbg = s.dbg := rfl
@[simp] theorem State.updNet_out (s : State) (f : PortsSt → PortsSt) : (s.updNet f).out = s.out := rfl
@[simp] theorem State.updNet_agenda (s : State) (f : PortsSt → PortsSt) : (s.updNet f).agenda = s.agenda := rfl
@[simp] theorem State.updNet_finds (s : State) (f : PortsSt → PortsSt) : (s.updNet f).finds = s.finds := rfl
@[simp] theorem State.updNet_cur (s : State) (f : PortsSt → PortsSt) : (s.updNet f).cur = s.cur := rfl

/-! ### Reads after updates -/

@[simp] theorem State.ctx_setCtx_same (s : State) (c : Nat) (x : Ctx) : (s.setCtx c x).ctx c = x := SMap.get_set_same _ _ _ _
theorem State.ctx_setCtx_other (s : State) {c d : Nat} (x : Ctx) (h : d ≠ c) : (s.setCtx c x).ctx d = s.ctx d :=
  SMap.get_set_other _ _ _ _ h
@[simp] theorem State.fab_setFab_same (s : State) (c : Nat) (x : Fabric) : (s.setFab c x).fab c = x := SMap.get_set_same _ _ _ _
theorem State.fab_setFab_other (s : State) {c d : Nat} (x : Fabric) (h : d ≠ c) : (s.setFab c x).fab d = s.fab d :=
  SMap.get_set_other _ _ _ _ h
theorem State.updCtx_eq (s : State) (c : Nat) (f : Ctx → Ctx) : s.updCtx c f = s.setCtx c (f (s.ctx c)) := rfl
theorem State.updFab_eq (s : State) (c : Nat) (f : Fabric → Fabric) : s.updFab c f = s.setFab c (f (s.fab c)) := rfl
@[simp] theorem State.byte_setCtx (s : State) (c k : Nat) (x : Ctx) : (s.setCtx c x).byte k = s.byte k := rfl
@[simp] theorem State.byte_setFab (s : State) (c k : Nat) (x : Fabric) : (s.setFab c x).byte k = s.byte k := rfl
@[simp] theorem State.req_setReq_same (s : State) (i : Nat) (r : Option Req) : (s.setReq i r).req i = r :=
  SMap.get_set_same _ _ _ _
theorem State.req_setReq_other (s : State) {i j : Nat} (r : Option Req) (h : j ≠ i) : (s.setReq i r).req j = s.req j :=
  SMap.get_set_other _ _ _ _ h
@[simp] theorem State.launchOf_setLaunch_same (s : State) (i : Nat) (l : Option Launch) : (s.setLaunch i l).launchOf i = l :=
  SMap.get_set_same _ _ _ _
@[simp] theorem State.recAt_setRec_same (s : State) (cl k : Nat) (r : Option Rec) : (s.setRec cl k r).recAt cl k = r :=
  SMap.get_set_same _ _ _ _

end Sys2Proof.Machine
end

