-- ==== Sys2Proof/Laws/Contexts.lean ====
section
/-! SUPPORT. What the shared operations of a sequencer context do. -/

namespace Sys2Proof.Machine

/-! ### Scalars -/

theorem Ctx.reg_zero (x : Ctx) : x.reg 0#5 = 0#64 := by simp [Ctx.reg]

theorem Ctx.reg_setReg (x : Ctx) (d r : Reg) (v : W64) (t : Bool) :
    (x.setReg d v t).reg r = if r = d ∧ d ≠ 0#5 then v else x.reg r := by
  unfold Ctx.setReg
  by_cases hd : d = 0#5
  · simp [hd]
  · by_cases hr : r = d
    · subst hr; simp [hd, Ctx.reg]
    · have : r.toNat ≠ d.toNat := fun h => hr (BitVec.eq_of_toNat_eq h)
      by_cases h0 : r = 0#5
      · simp [h0, Ctx.reg]; intro h; exact absurd (by rw [h0, h]) hr
      · simp [hd, hr, h0, Ctx.reg, Ctx.setTaint, SMap.get_set_other _ _ _ _ this]

theorem getLsbD_setBit (m : BitVec 32) (d r : Reg) (t : Bool) :
    (if t then m ||| (1#32 <<< d.toNat) else m &&& ~~~(1#32 <<< d.toNat)).getLsbD r.toNat =
      if r = d then t else m.getLsbD r.toNat := by
  have hd := d.isLt
  have hr := r.isLt
  have e : (r = d) ↔ r.toNat = d.toNat := ⟨fun h => by rw [h], BitVec.eq_of_toNat_eq⟩
  cases t <;> simp only [e, Bool.false_eq_true, ↓reduceIte, BitVec.getLsbD_or, BitVec.getLsbD_and, BitVec.getLsbD_not,
    BitVec.getLsbD_shiftLeft, BitVec.getLsbD_one] <;>
  · by_cases h : r.toNat = d.toNat
    · simp [h]; try omega
    · by_cases hl : r.toNat < d.toNat
      · simp [h, hl]; try omega
      · have : r.toNat - d.toNat ≠ 0 := by omega
        simp [h, hl, this]; try omega

theorem Ctx.taintOf_setReg (x : Ctx) (d r : Reg) (v : W64) (t : Bool) :
    (x.setReg d v t).taintOf r = if r = d ∧ d ≠ 0#5 then t else x.taintOf r := by
  unfold Ctx.setReg
  by_cases hd : d = 0#5
  · simp [hd]
  · simp only [hd, ↓reduceIte, Ctx.taintOf, Ctx.setTaint, getLsbD_setBit]
    by_cases hr : r = d
    · subst hr; simp [hd]
    · simp [hr]

theorem Ctx.setReg_eq (x : Ctx) (d : Reg) (v : W64) (t : Bool) :
    x.setReg d v t = { x with regs := (x.setReg d v t).regs, taint := (x.setReg d v t).taint } := by
  unfold Ctx.setReg Ctx.setTaint
  split <;> rfl

/-! ### Going on, waiting, writing a scalar -/

theorem State.onlyCtx_setCtx (s : State) (c : Nat) (x : Ctx) : s.onlyCtx (s.setCtx c x) c :=
  ⟨rfl, fun _ h => s.ctx_setCtx_other x h⟩

theorem State.wentOn_advance (s : State) (n : Nat) : s.wentOn (s.advance s.cur n) n := by
  refine ⟨s.onlyCtx_setCtx _ _, ?_⟩
  rw [State.advance, State.updCtx, State.ctx_setCtx_same]

theorem State.waits_stallFor (s : State) (r : Nat) : s.waits (s.stallFor s.cur r) r := by
  refine ⟨s.onlyCtx_setCtx _ _, ?_⟩
  rw [State.stallFor, State.updCtx, State.ctx_setCtx_same]

theorem State.setCtx_setCtx (s : State) (c : Nat) (x y : Ctx) :
    (∀ d, ((s.setCtx c x).setCtx c y).ctx d = (s.setCtx c y).ctx d) := by
  intro d
  by_cases h : d = c
  · subst h; simp
  · simp [State.ctx_setCtx_other _ _ h]

theorem State.wroteReg_step (s : State) (d : Reg) (v : W64) (tt : Bool) (n : Nat) :
    s.wroteReg ((s.setReg s.cur d v tt).advance s.cur n) d v tt n := by
  have hx : (((s.setReg s.cur d v tt).advance s.cur n).ctx s.cur) =
      { (s.ctx s.cur).setReg d v tt with
        pc := (s.ctx s.cur).pc + w64 n
        stall := 0
        bpDone := 0 } := by
    simp only [State.setReg, State.advance, State.updCtx, State.ctx_setCtx_same]
    rw [Ctx.setReg_eq]
  refine ⟨⟨rfl, fun e h => ?_⟩, ?_, fun r => ⟨?_, ?_⟩⟩
  · simp only [State.setReg, State.advance, State.updCtx]
    rw [State.ctx_setCtx_other _ _ h, State.ctx_setCtx_other _ _ h]
  · rw [hx, Ctx.setReg_eq]
  · rw [hx]; exact Ctx.reg_setReg _ _ _ _ _
  · rw [hx]; exact Ctx.taintOf_setReg _ _ _ _ _

theorem State.wroteReg_finish (s : State) (d : Reg) (v : W64) (tt : Bool) :
    s.wroteReg (s.finish s.cur d v tt) d v tt 4 := s.wroteReg_step d v tt 4

/-- An instruction whose scalars are ready does what it does. -/
theorem State.withRegs_ready {s : State} {rs : List Reg} (h : s.ready rs) (k : State) : s.withRegs s.cur rs k = k := by
  simp [State.withRegs, h.1, h.2]

/-- What `withRegs` can come to: a deferred fault taken, a wait, or the instruction. -/
theorem State.withRegs_cases (s : State) (c : Nat) (rs : List Reg) (k : State) :
    ((s.ctx c).owedIn rs = true ∧ s.withRegs c rs k = s.takeOwed c) ∨
    ((s.ctx c).owedIn rs = false ∧ rs.any (s.ctx c).pending = true ∧ s.withRegs c rs k = s.stallFor c 1) ∨
    ((s.ctx c).owedIn rs = false ∧ rs.any (s.ctx c).pending = false ∧ s.withRegs c rs k = k) := by
  unfold State.withRegs
  simp only
  generalize (s.ctx c).owedIn rs = p
  generalize rs.any (s.ctx c).pending = q
  cases p <;> cases q <;> simp

end Sys2Proof.Machine
end

