-- ==== Sys2Proof/Laws/Memory.lean ====
section
/-! SUPPORT. Memory: every operation on it keeps its canonical form; a byte after a write. -/

namespace Sys2Proof.Machine

/-- The bytes of a number in memory order. -/
theorem leBytes_eq (x n : Nat) : leBytes x n = (List.range n).map fun i => BitVec.ofNat 8 (x / 2 ^ (8 * i)) := by
  induction n generalizing x with
  | zero => rfl
  | succ n ih =>
    rw [leBytes, ih, List.range_succ_eq_map, List.map_cons, List.map_map]
    congr 1
    · simp
    · apply List.map_congr_left
      intro i _
      simp only [Function.comp, Nat.succ_eq_add_one, Nat.mul_add, Nat.mul_one, Nat.pow_add, Nat.div_div_eq_div_mul]
      rw [Nat.mul_comm]

/-- The bytes of a scalar are its byte fields. -/
theorem scalarBytes_eq (v : W64) (n : Nat) : scalarBytes v n = (List.range n).map fun i => v.extractLsb' (8 * i) 8 := by
  unfold scalarBytes
  rw [leBytes_eq]
  apply List.map_congr_left
  intro i _
  apply BitVec.eq_of_toNat_eq
  simp [Nat.shiftRight_eq_div_pow]

theorem putByte_bytes (p : Nat) (a : Agent) (m : MemSt) (e : Nat × Byte) :
    (putByte p a m e).bytes = SMap.set Config.blankByte m.bytes e.1 e.2 := rfl

/-- What a write leaves in memory. -/
theorem foldl_putByte_bytes (p : Nat) (a : Agent) (l : List (Nat × Byte)) (m : MemSt) :
    (l.foldl (putByte p a) m).bytes = l.foldl (fun b e => SMap.set Config.blankByte b e.1 e.2) m.bytes := by
  induction l generalizing m with
  | nil => rfl
  | cons e t ih => simp [ih, putByte_bytes]

/-- An engine's byte touches full bits, arrival counts and OVER flags alone. -/
theorem countByte_frame (s : State) (core o : Nat) : countByte s core o = { s with mem := { s.mem with
    arrive := (countByte s core o).mem.arrive
    rings := (countByte s core o).mem.rings } } := by
  unfold countByte
  generalize s.ringsOf core = l
  induction l generalizing s with
  | nil => rfl
  | cons r t ih =>
    simp only [List.foldl_cons]
    split
    · rw [ih]; rfl
    · exact ih s
theorem engineByte_frame (s : State) (k : Nat) : engineByte s k = { s with mem := { s.mem with
    full := (engineByte s k).mem.full
    arrive := (engineByte s k).mem.arrive
    rings := (engineByte s k).mem.rings } } := by
  unfold engineByte
  split
  · rfl
  · rw [countByte_frame]; rfl
theorem foldl_engineByte_frame (l : List (Nat × Byte)) (s : State) :
    l.foldl (fun s e => engineByte s e.1) s = { s with mem := { s.mem with
      full := (l.foldl (fun s e => engineByte s e.1) s).mem.full
      arrive := (l.foldl (fun s e => engineByte s e.1) s).mem.arrive
      rings := (l.foldl (fun s e => engineByte s e.1) s).mem.rings } } := by
  induction l generalizing s with
  | nil => rfl
  | cons e t ih => rw [List.foldl_cons, ih, engineByte_frame]

theorem foldl_putByte_frame (p : Nat) (a : Agent) (l : List (Nat × Byte)) (m : MemSt) :
    l.foldl (putByte p a) m = { m with
      bytes := (l.foldl (putByte p a) m).bytes
      stale := (l.foldl (putByte p a) m).stale } := by
  induction l generalizing m with
  | nil => rfl
  | cons e t ih => rw [List.foldl_cons, ih]; rfl

/-- The use of banks, and the handing over of writes, change no byte. -/
theorem useBanks_frame (s : State) (l : List Nat) : s.useBanks l = { s with mem := { s.mem with banks := (s.useBanks l).mem.banks } } := rfl
@[simp] theorem useBanks_byte (s : State) (l : List Nat) (k : Nat) : (s.useBanks l).byte k = s.byte k := rfl
theorem handOver_frame (s : State) (a b : Agent) : s.handOver a b = { s with mem := { s.mem with stale := (s.handOver a b).mem.stale } } := rfl
@[simp] theorem handOver_byte (s : State) (a b : Agent) (k : Nat) : (s.handOver a b).byte k = s.byte k := rfl
/-- What a hold keeps from happening. -/
@[simp] theorem whenUp_held {s : State} (h : s.held = true) (t : State) : s.whenUp t = s := by simp [State.whenUp, h]
@[simp] theorem whenUp_up {s : State} (h : s.held = false) (t : State) : s.whenUp t = t := by simp [State.whenUp, h]

/-- What a write can change: bytes, what is not yet visible, pending updates of subscriptions, and for an engine full bits,
arrival counts, OVER flags and the use of banks. -/
theorem write_frame (s : State) (p : Nat) (a : Agent) (eng : Bool) (l : List (Nat × Byte)) :
    s.write p a eng l = { s with
      mem := { s.mem with
        bytes := (s.write p a eng l).mem.bytes
        stale := (s.write p a eng l).mem.stale
        full := (s.write p a eng l).mem.full
        arrive := (s.write p a eng l).mem.arrive
        rings := (s.write p a eng l).mem.rings
        banks := (s.write p a eng l).mem.banks }
      msg := { s.msg with subs := (s.write p a eng l).msg.subs } } := by
  unfold State.write
  split
  · simp only [State.useBanks, State.updMem]; rw [foldl_engineByte_frame, foldl_putByte_frame]; rfl
  · rw [foldl_putByte_frame]; rfl

theorem foldl_engineByte_bytes (l : List (Nat × Byte)) (s : State) :
    (l.foldl (fun s e => engineByte s e.1) s).mem.bytes = s.mem.bytes := by rw [foldl_engineByte_frame]

/-- The bytes of memory after a write, whichever agent writes. -/
theorem write_bytes (s : State) (p : Nat) (a : Agent) (eng : Bool) (l : List (Nat × Byte)) :
    (s.write p a eng l).mem.bytes = l.foldl (fun b e => SMap.set Config.blankByte b e.1 e.2) s.mem.bytes := by
  unfold State.write
  split
  · simp only [State.useBanks, State.updMem]; rw [foldl_engineByte_bytes]; exact foldl_putByte_bytes p a l s.mem
  · exact foldl_putByte_bytes p a l s.mem

theorem foldl_set_wf (l : List (Nat × Byte)) {b : SMap Byte} (h : Memory.wf b = true) :
    Memory.wf (l.foldl (fun b e => SMap.set Config.blankByte b e.1 e.2) b) = true := by
  induction l generalizing b with
  | nil => exact h
  | cons e t ih => exact ih (SMap.wf_set h _ _)

/-- A write keeps memory canonical. -/
theorem write_wf {s : State} (h : Memory.wf s.mem.bytes = true) (p : Nat) (a : Agent) (eng : Bool) (l : List (Nat × Byte)) :
    Memory.wf (s.write p a eng l).mem.bytes = true := by rw [write_bytes]; exact foldl_set_wf l h

/-- So do a versioned store, a retirement and zeroing. -/
theorem storeVersion_wf {s : State} (h : Memory.wf s.mem.bytes = true) (p : Nat) (a : Agent) (eng : Bool) (v : Nat)
    (l : List (Nat × Byte)) : Memory.wf (s.storeVersion p a eng v l).mem.bytes = true := by
  unfold State.storeVersion
  split
  · exact h
  · simp only; split
    · exact h
    · rw [write_bytes]; exact foldl_set_wf _ h
theorem retireVersions_wf {s : State} (h : Memory.wf s.mem.bytes = true) (k v : Nat) :
    Memory.wf (s.retireVersions k v).mem.bytes = true := h
theorem zeroRange_wf {s : State} (h : Memory.wf s.mem.bytes = true) (lo n : Nat) :
    Memory.wf (s.zeroRange lo n).mem.bytes = true := SMap.wf_eraseRange h lo n
theorem release_wf {s : State} (h : Memory.wf s.mem.bytes = true) (r : Nat → Bool) (q : Stale → Bool) :
    Memory.wf (s.release r q).mem.bytes = true := h

/-- Memory right after reset is canonical. -/
theorem reset_wf : Memory.wf State.reset.mem.bytes = true := by decide

/-- A byte that a list of writes does not name keeps its value. -/
theorem foldl_set_other (l : List (Nat × Byte)) (b : SMap Byte) {k : Nat} (h : ∀ e ∈ l, e.1 ≠ k) :
    SMap.get Config.blankByte (l.foldl (fun b e => SMap.set Config.blankByte b e.1 e.2) b) k = SMap.get Config.blankByte b k := by
  induction l generalizing b with
  | nil => rfl
  | cons e t ih =>
    rw [List.foldl_cons, ih _ fun x hx => h x (by simp [hx]), SMap.get_set_other _ _ _ _ (Ne.symm (h e (by simp)))]

/-- A write leaves every byte alone that it does not name. -/
theorem write_byte_other (s : State) (p : Nat) (a : Agent) (eng : Bool) (l : List (Nat × Byte)) {k : Nat}
    (h : ∀ e ∈ l, e.1 ≠ k) : (s.write p a eng l).byte k = s.byte k := by
  unfold State.byte
  rw [write_bytes]; exact foldl_set_other l _ h

/-- The last write of a byte is what it reads as. -/
theorem write_byte_same (s : State) (p : Nat) (a : Agent) (eng : Bool) (k : Nat) (b : Byte) :
    (s.write p a eng [(k, b)]).byte k = b := by
  unfold State.byte
  rw [write_bytes]; simp

end Sys2Proof.Machine
end

