-- ==== Sys2Proof/Laws/Ops.lean ====
section
/-! SUPPORT. What taking a trap, a transfer of control, an access and the start of an operation do. -/

namespace Sys2Proof.Machine

/-! ### Resolution looks at a context's task alone -/

theorem State.resolve_ctxs (s : State) (cs : SMap Ctx) (c : Nat) (a : W64) (acc : Nat)
    (hp : (({ s with ctxs := cs } : State).ctx c).task.pdom = (s.ctx c).task.pdom) :
    ({ s with ctxs := cs } : State).resolve c a acc = s.resolve c a acc := by
  have h1 : ({ s with ctxs := cs } : State).spKey = s.spKey := rfl
  have h2 : ({ s with ctxs := cs } : State).acKey = s.acKey := rfl
  have h3 : ({ s with ctxs := cs } : State).physKey = s.physKey := rfl
  have h4 : ({ s with ctxs := cs } : State).faultFor = s.faultFor := rfl
  have h5 : ({ s with ctxs := cs } : State).xlate = s.xlate := rfl
  simp only [State.resolve, h1, h2, h3, h4, h5, hp]

theorem State.codeWord_mem (s t : State) (k : Nat) (h : t.mem = s.mem) : t.codeWord (.mem k) = s.codeWord (.mem k) := by
  simp only [State.codeWord, funext fun k => show t.byte k = s.byte k by rw [State.byte, State.byte, h]]

theorem State.targetTrap_valid {s : State} {c : Nat} {a : W64} (h : s.validTarget c a) :
    ∃ k, s.resolve c a 2 = .mem k ∧ s.targetTrap a (.mem k) = none := by
  obtain ⟨h4, k, hk, hw⟩ := h
  refine ⟨k, hk, ?_⟩
  have : ¬ 2 ≤ (s.codeWord (.mem k)).toNat / 2 ^ 30 := by omega
  simp only [State.targetTrap, aligned, h4, this, ↓reduceIte]
  rfl

/-! ### Traps -/

/-- A trap taken by a context whose handler passes its checks. -/
theorem State.takeTrap_tookTrap {s : State} {c : Nat} (h : s.hasHandler c) (cause : Nat) (detail next : W64) :
    s.tookTrap (s.takeTrap c cause detail next false) c cause detail next := by
  obtain ⟨hv, hi, ht⟩ := h
  obtain ⟨k, hk, hn⟩ := State.targetTrap_valid ht
  set s1 := s.clearFaults (.seq c) with hs1
  have hc1 : ∀ d, s1.ctx d = s.ctx d := fun d => rfl
  set y : Ctx := { s.ctx c with
    csr := { (s.ctx c).csr with
      tpc := next
      tcause := BitVec.ofNat 8 cause
      tdetail := detail
      inTrap := true
      deferred := false }
    pc := (s.ctx c).csr.tvec
    stall := 0
    bpDone := 0 } with hy
  have hr : (s1.setCtx c y).resolve c (s.ctx c).csr.tvec 2 = .mem k := by
    rw [State.setCtx, State.resolve_ctxs s1 _ c _ 2 (by rw [← State.setCtx, State.ctx_setCtx_same, hc1]), hk]
  have hcw : (s1.setCtx c y).targetTrap (s.ctx c).csr.tvec (.mem k) = none := by
    rw [← hn]; simp only [State.targetTrap, State.codeWord_mem s1 (s1.setCtx c y) k rfl]
  have e : s.takeTrap c cause detail next false = s1.setCtx c y := by
    unfold State.takeTrap
    simp only [hv, hi, Bool.false_eq_true, or_self, ↓reduceIte]
    simp only [← hs1, ← hy, State.resolveNow, hr, hcw]
  rw [e]
  refine ⟨?_, fun d hd => ?_, rfl⟩
  · rw [State.ctx_setCtx_same]
  · rw [State.ctx_setCtx_other _ _ hd]; exact hc1 d

theorem State.trap_tookTrap {s : State} {c : Nat} (h : s.hasHandler c) (cause : Nat) (detail : W64) :
    s.tookTrap (s.trap c cause detail) c cause detail (s.ctx c).pc := State.takeTrap_tookTrap h ..
theorem State.trapPast_tookTrap {s : State} {c : Nat} (h : s.hasHandler c) (cause : Nat) (detail : W64) :
    s.tookTrap (s.trapPast c cause detail) c cause detail ((s.ctx c).pc + 4#64) := State.takeTrap_tookTrap h ..

/-! ### Transfers of control -/

/-- A transfer to a target that passes its checks. -/
theorem State.transfer_wentTo {s : State} {a : W64} (h : s.validTarget s.cur a) (link : Ctx → Ctx) :
    s.wentTo (s.transfer s.cur a link) a link := by
  obtain ⟨k, hk, hn⟩ := State.targetTrap_valid h
  have e : s.transfer s.cur a link = s.setCtx s.cur { link (s.ctx s.cur) with
      pc := a
      stall := 0
      bpDone := 0 } := by
    have h4 := h.1
    simp [State.transfer, aligned, h4, hk, hn]
  rw [e]
  exact ⟨s.onlyCtx_setCtx _ _, State.ctx_setCtx_same ..⟩

/-! ### Accesses and operations -/

/-- An access that reaches local memory goes ahead. -/
theorem State.access_reaches {s : State} {a : W64} {n acc k : Nat} (h : s.reaches a n acc k) (m : Bool)
    (f : State → Place → State) : s.access s.cur a n acc m f = f s (.mem k) := by
  obtain ⟨ha, hr, hw⟩ := h
  simp only [State.access, aligned, ha, hr, State.watched]
  rcases hw with hw | hw
  · simp [hw]
  · simp [hw]

theorem State.issue_local (s : State) {r : Req} (hr : r.dev = none) : s.issue r = { s with mem := { s.mem with
    reqs := SMap.set none s.mem.reqs s.mem.nextReq (some r), nextReq := s.mem.nextReq + 1 } } := by
  simp [State.issue, hr]

theorem State.startAccess_started (s : State) (k : Nat) (o : Op) (r : Req) (hr : r.dev = none) :
    s.started (s.startAccess s.cur (.mem k) o r) o r := by
  have hrr : ({ r with dev := Place.dev (.mem k) } : Req) = r := by cases r; simp only [Place.dev] at hr ⊢; rw [hr]
  have e : s.startAccess s.cur (.mem k) o r =
      (s.issue r).setCtx s.cur ((s.ctx s.cur).withOp { o with req := some s.mem.nextReq }) := by
    simp only [State.startAccess, hrr, State.startOp, State.addOp, State.advance, State.updCtx]
    have hc : (s.issue r).ctx s.cur = s.ctx s.cur := by rw [State.issue_local s hr]; rfl
    rw [State.ctx_setCtx_same, hc]
    simp only [State.setCtx]
    congr 1
    exact SMap.set_set ..
  rw [e, State.issue_local s hr]
  refine ⟨State.ctx_setCtx_same .., fun d hd => ?_, ?_, fun i hi => ?_, rfl⟩
  · rw [State.ctx_setCtx_other _ _ hd]; rfl
  · simp [State.req]
  · simp [State.req, SMap.get_set_other _ _ _ _ hi]

/-- An operation that starts changes no byte. -/
theorem State.started_sameMem {s t : State} {o : Op} {r : Req} (h : s.started t o r) : s.sameMem t := by
  obtain ⟨-, -, -, -, e⟩ := h
  intro k
  have : t.mem.bytes = s.mem.bytes := by rw [e]
  rw [State.byte, State.byte, this]
theorem State.onlyCtx_sameMem {s t : State} {c : Nat} (h : s.onlyCtx t c) : s.sameMem t := by
  intro k
  have : t.mem = s.mem := by rw [h.1]
  rw [State.byte, State.byte, this]

/-- An operation without a request starts. -/
theorem State.startedOp_step (s : State) (o : Op) (f : Ctx → Ctx)
    (hf : ∀ y n b, f { y with pc := n, stall := 0, bpDone := b } = { f y with pc := n, stall := 0, bpDone := b }) (hp : ∀ y, (f y).pc = y.pc) :
    s.startedOp (((s.addOp s.cur o).updCtx s.cur f).advance s.cur 4) o f := by
  refine ⟨⟨rfl, fun d hd => ?_⟩, ?_⟩
  · simp only [State.addOp, State.advance, State.updCtx]
    rw [State.ctx_setCtx_other _ _ hd, State.ctx_setCtx_other _ _ hd, State.ctx_setCtx_other _ _ hd]
  · simp only [State.addOp, State.advance, State.updCtx, State.ctx_setCtx_same]
    rw [← hf, hp]; rfl

/-! ### Trace records -/

theorem State.record_frame (s : State) (cl : Nat) (r : List W64) : s.record cl r = { s with pow := (s.record cl r).pow } := rfl
theorem State.noteIf_frame (s : State) (cls type core src pdom lid : Nat) (body : List W64) :
    s.noteIf cls type core src pdom lid body = { s with pow := (s.noteIf cls type core src pdom lid body).pow } := by
  unfold State.noteIf; split
  · exact State.record_frame ..
  · rfl

/-! ### The end of a task -/

theorem State.updLaunch_frame (s : State) (l : Nat) (f : Launch → Launch) : s.updLaunch l f = { s with sch := (s.updLaunch l f).sch } := by
  unfold State.updLaunch; split <;> rfl
theorem State.countTrig_frame (s : State) (c : Nat) (t : Task) : s.countTrig c t = { s with sch := (s.countTrig c t).sch } := by
  unfold State.countTrig
  split
  · rfl
  · dsimp only
    split <;> split <;> first | rfl | exact State.updLaunch_frame ..
theorem State.countEnd_frame (s : State) (c : Nat) (t : Task) : s.countEnd c t = { s with sch := (s.countEnd c t).sch } := by
  unfold State.countEnd
  split
  · rw [State.updLaunch_frame, State.countTrig_frame]
  · exact State.countTrig_frame ..
/-- A BAR that arrives changes its gang, and leaves a trace record. -/
theorem State.barArrive_frame (s : State) (c : Nat) : s.barArrive c = { s with
    sch := { s.sch with gangs := (s.barArrive c).sch.gangs }
    pow := (s.barArrive c).pow } := by
  unfold State.barArrive; dsimp only; split
  · rfl
  · split
    · rfl
    · simp only [State.barNote]; rw [State.noteIf_frame]; rfl
theorem State.gangEnd_frame (s : State) (c : Nat) (t : Task) : s.gangEnd c t = { s with sch := (s.gangEnd c t).sch } := by
  unfold State.gangEnd; split
  · rfl
  · split <;> rfl

/-- Subscriptions that end leave their batches' trace records and nothing else. -/
theorem State.subsEnd_frame (s : State) (core : Nat) (t : Task) :
    s.subsEnd core t = { s with msg := (s.subsEnd core t).msg, pow := (s.subsEnd core t).pow } := by
  have h : ∀ (p : Sub → Bool) (l : List Sub) (s : State), ∃ q,
      l.foldl (fun s x => if p x then s.batchNote x x.batch else s) s = { s with pow := q } := by
    intro p l
    induction l with
    | nil => intro s; exact ⟨s.pow, rfl⟩
    | cons x l ih =>
      intro s
      rw [List.foldl_cons]
      split
      · obtain ⟨q, e⟩ := ih (s.batchNote x x.batch)
        rw [e, State.batchNote, State.noteIf_frame]; exact ⟨q, rfl⟩
      · exact ih s
  obtain ⟨q, e⟩ := h (fun x => (x.pubCore == core || x.subCore == core) && x.pdom == t.pdom && x.lid == t.lid &&
    (x.state == 0 || x.state == 3) && !x.batch.isEmpty) s.msg.subs s
  simp only [State.subsEnd, State.updMsg]
  rw [e]

/-- What the end of a task leaves alone. -/
theorem State.endTask_frame (s : State) (c : Nat) :
    (s.endTask c).ctx c = {} ∧ (∀ d, d ≠ c → (s.endTask c).ctx d = s.ctx d) ∧ s.sameMem (s.endTask c) := by
  have h : ∃ u : State, s.endTask c = u.setCtx c {} ∧ u.ctxs = s.ctxs ∧ u.mem.bytes = s.mem.bytes := by
    refine ⟨_, rfl, ?_, ?_⟩
    · simp only [State.updFab, State.setFab_ctxs, State.releaseAll, State.release, State.updMem_ctxs]
      rw [State.subsEnd_frame, State.gangEnd_frame, State.barArrive_frame, State.countEnd_frame]
    · simp only [State.updFab, State.setFab_mem, State.releaseAll, State.release, State.updMem_mem]
      rw [State.subsEnd_frame, State.gangEnd_frame, State.barArrive_frame, State.countEnd_frame]
  obtain ⟨u, e, hc, hm⟩ := h
  rw [e]
  refine ⟨State.ctx_setCtx_same .., fun d hd => ?_, fun k => ?_⟩
  · rw [State.ctx_setCtx_other _ _ hd, State.ctx, hc]; rfl
  · show SMap.get _ u.mem.bytes k = _
    rw [hm]; rfl

theorem State.updLaunch_same {s : State} {i : Nat} {l : Launch} (h : s.launchOf i = some l) (f : Launch → Launch) :
    (s.updLaunch i f).launchOf i = some (f l) := by
  unfold State.updLaunch
  rw [h]
  simp [State.setLaunch, State.launchOf]

/-- The launch's counts after a TRIG of one of its tasks, and after the end of one. -/
theorem State.countTrig_launch {s : State} {t : Task} {l : Launch} (c : Nat) (h : s.launchOf t.lid = some l) :
    (s.countTrig c t).launchOf t.lid = some { l with
      u := if t.notrig || t.triggered || !s.wholeRec c t GangSt.trigs then l.u else l.u - 1 } := by
  have hg : ∀ i g, (s.setGang i g).launchOf t.lid = some l := fun _ _ => h
  have hq : ∀ q : State, q.launchOf t.lid = some l →
      (if s.wholeRec c t GangSt.trigs = true then q.updLaunch t.lid fun l => { l with u := l.u - 1 } else q).launchOf t.lid =
        some { l with u := if !s.wholeRec c t GangSt.trigs then l.u else l.u - 1 } := by
    intro q hq
    cases hw : s.wholeRec c t GangSt.trigs
    · simpa using hq
    · simpa using State.updLaunch_same hq _
  unfold State.countTrig Task.counted
  cases hn : t.notrig <;> cases ht : t.triggered <;> simp only [Bool.not_false, Bool.not_true, Bool.and_true, Bool.and_false,
    Bool.true_or, Bool.or_true, Bool.false_or, Bool.or_false, ↓reduceIte, Bool.false_eq_true] <;> try exact h
  apply hq
  split
  · exact hg ..
  · exact h
theorem State.endTask_launch {s : State} {c : Nat} {l : Launch} (h : s.launchOf (s.ctx c).task.lid = some l) :
    (s.endTask c).launchOf (s.ctx c).task.lid = some { l with
      u := if (s.ctx c).task.notrig || (s.ctx c).task.triggered || !s.wholeRec c (s.ctx c).task GangSt.trigs then l.u else l.u - 1
      e := if s.wholeRec c (s.ctx c).task GangSt.ended then l.e - 1 else l.e } := by
  have h1 := State.countTrig_launch c h
  have h2 : (s.countEnd c (s.ctx c).task).launchOf (s.ctx c).task.lid = some { l with
      u := if (s.ctx c).task.notrig || (s.ctx c).task.triggered || !s.wholeRec c (s.ctx c).task GangSt.trigs then l.u else l.u - 1
      e := if s.wholeRec c (s.ctx c).task GangSt.ended then l.e - 1 else l.e } := by
    unfold State.countEnd
    cases hw : s.wholeRec c (s.ctx c).task GangSt.ended
    · simpa [hw] using h1
    · simpa [hw] using State.updLaunch_same h1 _
  rw [← h2]
  show SMap.get none _ _ = SMap.get none _ _
  congr 1
  show (((((s.countEnd c (s.ctx c).task).barArrive c).gangEnd c (s.ctx c).task).subsEnd _ _)).sch.launches = _
  rw [State.subsEnd_frame]
  show ((((s.countEnd c (s.ctx c).task).barArrive c).gangEnd c (s.ctx c).task)).sch.launches = _
  rw [show ∀ u : State, (u.gangEnd c (s.ctx c).task).sch.launches = u.sch.launches from fun u => by
    unfold State.gangEnd; split
    · rfl
    · split <;> rfl, State.barArrive_frame]

end Sys2Proof.Machine
end

