-- ==== Sys2Proof/Tests/Slice0.lean ====
section
/-! SUPPORT. Tests: decoding, well-formedness, first steps, and for every statement of Obligations a state and operands
that meet its hypotheses. Words are written out from R253 and the codes of R258 to R264; other values from the rules that
the statements cite. -/

open Sys2Proof
open Sys2Proof.Machine

namespace Sys2Proof.Tests

/-! ### Decoding: one word for every instruction, from the fields of R253 and the codes of R258 to R264 -/

theorem test_decode_integer :
  decode 0x00F84400#32 0#32 = .ok (.add 31#5 1#5 2#5) ∧
  decode 0x00F84401#32 0#32 = .ok (.sub 31#5 1#5 2#5) ∧
  decode 0x00F84402#32 0#32 = .ok (.mul 31#5 1#5 2#5) ∧
  decode 0x00F84403#32 0#32 = .ok (.mulh 31#5 1#5 2#5 false) ∧
  decode 0x00F84444#32 0#32 = .ok (.div 31#5 1#5 2#5 true) ∧
  decode 0x00F84445#32 0#32 = .ok (.rem 31#5 1#5 2#5 true) ∧
  decode 0x00F84406#32 0#32 = .ok (.and 31#5 1#5 2#5) ∧
  decode 0x00F84407#32 0#32 = .ok (.or 31#5 1#5 2#5) ∧
  decode 0x00F84408#32 0#32 = .ok (.xor 31#5 1#5 2#5) ∧
  decode 0x00F84409#32 0#32 = .ok (.andn 31#5 1#5 2#5) ∧
  decode 0x00F8440A#32 0#32 = .ok (.shl 31#5 1#5 2#5) ∧
  decode 0x00F8440B#32 0#32 = .ok (.shr 31#5 1#5 2#5) ∧
  decode 0x00F8440C#32 0#32 = .ok (.sha 31#5 1#5 2#5) ∧
  decode 0x00F8444D#32 0#32 = .ok (.min 31#5 1#5 2#5 true) ∧
  decode 0x00F8440E#32 0#32 = .ok (.max 31#5 1#5 2#5 false) ∧
  decode 0x00F84413#32 0#32 = .ok (.sel 31#5 1#5 2#5) ∧
  decode 0x001F800F#32 0#32 = .ok (.clz 3#5 30#5) ∧
  decode 0x001F8010#32 0#32 = .ok (.popc 3#5 30#5) ∧
  decode 0x001F8091#32 0#32 = .ok (.sext 3#5 30#5 2#2) ∧
  decode 0x001FA152#32 0#32 = .ok (.cmp 3#5 30#5 16#5 5#3) := by decide

theorem test_decode_immediate :
  decode 0x013A3FFD#32 0#32 = .ok (.addi 7#5 8#5 (-3#14)) ∧
  decode 0x023A3FFD#32 0#32 = .ok (.andi 7#5 8#5 (-3#14)) ∧
  decode 0x033A3FFD#32 0#32 = .ok (.ori 7#5 8#5 (-3#14)) ∧
  decode 0x043A3FFD#32 0#32 = .ok (.xori 7#5 8#5 (-3#14)) ∧
  decode 0x053A003F#32 0#32 = .ok (.shli 7#5 8#5 63#6) ∧
  decode 0x063A003F#32 0#32 = .ok (.shri 7#5 8#5 63#6) ∧
  decode 0x073A003F#32 0#32 = .ok (.shai 7#5 8#5 63#6) ∧
  decode 0x083A27FF#32 0#32 = .ok (.cmpi 7#5 8#5 4#3 (-1#11)) ∧
  decode 0x49481696#32 0xA5A5A5A5#32 = .ok (.limm 9#5 0x5A5A5A5A5A5#44) ∧
  decode 0x4A481696#32 0xA5A5A5A5#32 = .ok (.addpc 9#5 0x5A5A5A5A5A5#44) := by decide

theorem test_decode_branches :
  decode 0x101917FB#32 0#32 = .ok (.bCond 3#5 4#5 2#3 (-5#11)) ∧
  decode 0x111C1806#32 0#32 = .ok (.biCond 3#5 16#5 3#3 6#11) ∧
  decode 0x12FFFFFE#32 0#32 = .ok (.jmp (-2#24)) ∧
  decode 0x13123456#32 0#32 = .ok (.jal 0x123456#24) ∧
  decode 0x14FF8008#32 0#32 = .ok (.jalr 31#5 30#5 8#14) := by decide

theorem test_decode_memory :
  decode 0x18299800#32 0#32 = .ok (.ld 5#5 6#5 1#2 (-2048#12)) ∧
  decode 0x19299800#32 0#32 = .ok (.st 5#5 6#5 1#2 (-2048#12)) ∧
  decode 0x1A299800#32 0#32 = .ok (.ldc 5#5 6#5 1#2 (-2048#12)) ∧
  decode 0x1B298FC0#32 0#32 = .ok (.stv 5#5 6#5 7#5 3#2 (-64#7)) ∧
  decode 0x1C298FC0#32 0#32 = .ok (.ldvt 5#5 6#5 7#5 3#2 (-64#7)) ∧
  decode 0x1D018FBF#32 0#32 = .ok (.recl 6#5 7#5 63#7) ∧
  decode 0x1E298F08#32 0#32 = .ok (.amo 5#5 6#5 7#5 0#1 8#4) ∧
  decode 0x1F298F80#32 0#32 = .ok (.acas 5#5 6#5 7#5 1#1) ∧
  decode 0x20000004#32 0#32 = .ok (.fence 4#3) ∧
  decode 0x21003503#32 0#32 = .ok (.fencex 6#3 5#3 3#3) ∧
  decode 0x2200029C#32 0#32 = .ok (.waitc 1#3 2#3 3#3 4#3) := by decide

theorem test_decode_tasks :
  decode 0x28088600#32 0#32 = .ok (.spawn 1#5 2#5 3#5) ∧
  decode 0x29008000#32 0#32 = .ok (.join 2#5) ∧
  decode 0x2A088600#32 0#32 = .ok (.arm 1#5 2#5 3#5) ∧
  decode 0x2B000000#32 0#32 = .ok (.end_) ∧
  decode 0x2C000000#32 0#32 = .ok (.trig) ∧
  decode 0x2D080000#32 0#32 = .ok (.gang 1#5) ∧
  decode 0x2E000000#32 0#32 = .ok (.bar) ∧
  decode 0x38008000#32 0#32 = .ok (.send 2#5) ∧
  decode 0x39060000#32 0#32 = .ok (.sendi 24#5) := by decide

theorem test_decode_regions :
  decode 0x30008600#32 0#32 = .ok (.cfg 2#5 3#5) ∧
  decode 0x31008000#32 0#32 = .ok (.run 2#5) ∧
  decode 0x32008040#32 0#32 = .ok (.bound 2#5 0x40#8) ∧
  decode 0x3300864F#32 0#32 = .ok (.inj 2#5 3#5 0x4F#8) ∧
  decode 0x34088600#32 0#32 = .ok (.rstat 1#5 2#5 3#5) ∧
  decode 0x350080FF#32 0#32 = .ok (.tidw 2#5 0xFF#8) ∧
  decode 0x36008001#32 0#32 = .ok (.tidr 2#5 1#8) ∧
  decode 0x37088000#32 0#32 = .ok (.part 1#5 2#5) := by decide

theorem test_decode_system :
  decode 0x3A080102#32 0#32 = .ok (.csrr 1#5 0x102#12) ∧
  decode 0x3A009ABC#32 0#32 = .ok (.csrw 2#5 0xABC#12) ∧
  decode 0x3A00AABC#32 0#32 = .ok (.csrs 2#5 0xABC#12) ∧
  decode 0x3A00BABC#32 0#32 = .ok (.csrc 2#5 0xABC#12) ∧
  decode 0x3B003FFF#32 0#32 = .ok (.trap 0x3FFF#14) ∧
  decode 0x3C000000#32 0#32 = .ok (.nop) ∧
  decode 0x3C000001#32 0#32 = .ok (.halt) ∧
  decode 0x3C000002#32 0#32 = .ok (.idle) ∧
  decode 0x3C000003#32 0#32 = .ok (.rft) ∧
  decode 0x3C000004#32 0#32 = .ok (.bkpt) ∧
  decode 0x3C008005#32 0#32 = .ok (.enter 2#5) ∧
  decode 0x3C008006#32 0#32 = .ok (.leave 2#5) ∧
  decode 0x3C088607#32 0#32 = .ok (.capd 1#5 2#5 3#5) ∧
  decode 0x3C088008#32 0#32 = .ok (.capv 1#5 2#5) ∧
  decode 0x3C008609#32 0#32 = .ok (.tlbi 2#5 3#5) := by decide

theorem test_rejects_majors :
  decode 0x0B000000#32 0#32 = .error .major ∧
  decode 0x0F000000#32 0#32 = .error .major ∧
  decode 0x15000000#32 0#32 = .error .major ∧
  decode 0x17000000#32 0#32 = .error .major ∧
  decode 0x23000000#32 0#32 = .error .major ∧
  decode 0x27000000#32 0#32 = .error .major ∧
  decode 0x2F000000#32 0#32 = .error .major ∧
  decode 0x3D000000#32 0#32 = .error .major ∧
  decode 0x3F000000#32 0#32 = .error .major := by decide

theorem test_rejects_second_words :
  decode 0x80000000#32 0#32 = .error .kind ∧
  decode 0xBFFFFFFF#32 0#32 = .error .kind ∧
  decode 0xC0000000#32 0#32 = .error .kind := by decide

theorem test_rejects_codes :
  decode 0x00088614#32 0#32 = .error .code ∧
  decode 0x00088683#32 0#32 = .error .code ∧
  decode 0x000880D1#32 0#32 = .error .code ∧
  decode 0x00088792#32 0#32 = .error .code ∧
  decode 0x1008B000#32 0#32 = .error .code ∧
  decode 0x1D008700#32 0#32 = .error .code ∧
  decode 0x1E088709#32 0#32 = .error .code ∧
  decode 0x1E088680#32 0#32 = .error .code ∧
  decode 0x20000005#32 0#32 = .error .code ∧
  decode 0x21003800#32 0#32 = .error .code ∧
  decode 0x3C00000A#32 0#32 = .error .code := by decide

theorem test_rejects_zero_fields :
  decode 0x0008860F#32 0#32 = .error .zeroField ∧
  decode 0x05088040#32 0#32 = .error .zeroField ∧
  decode 0x29088000#32 0#32 = .error .zeroField ∧
  decode 0x2B004000#32 0#32 = .error .zeroField ∧
  decode 0x1E088710#32 0#32 = .error .zeroField ∧
  decode 0x35008100#32 0#32 = .error .zeroField ∧
  decode 0x3A084000#32 0#32 = .error .zeroField ∧
  decode 0x3C000203#32 0#32 = .error .zeroField := by decide

theorem test_rejects_pairs :
  decode 0x49080000#32 0x3FFFFFFF#32 = .error .pair ∧ decode 0x49080000#32 0xC0000000#32 = .error .pair ∧
  decode 0x41000000#32 0x80000000#32 = .error .pair ∧ decode 0x49084000#32 0x80000000#32 = .error .zeroField ∧
  decode 0x09080000#32 0x80000000#32 = .error .major := by decide

/-! ### WellFormed: an ill-formed term for each check -/

theorem test_wf_integer : wellFormed (.sext 1#5 2#5 3#2) = false ∧ wellFormed (.cmp 1#5 2#5 3#5 6#3) = false ∧
    wellFormed (.cmpi 1#5 2#5 7#3 0#11) = false ∧ wellFormed (.bCond 1#5 2#5 6#3 0#11) = false ∧ wellFormed (.biCond 1#5 2#5 7#3 0#11) = false ∧
    wellFormed (.cmp 1#5 2#5 3#5 5#3) = true := by decide
theorem test_wf_memory : wellFormed (.amo 1#5 2#5 3#5 0#1 9#4) = false ∧ wellFormed (.fence 5#3) = false ∧ wellFormed (.fencex 7#3 0#3 0#3) = false ∧
    wellFormed (.fencex 0#3 7#3 0#3) = false ∧ wellFormed (.fencex 0#3 0#3 5#3) = false ∧ wellFormed (.fencex 6#3 6#3 4#3) = true := by decide
/-- A packet of the domain of JobID 5 at a port. -/
def rxAt (p : Nat) : Rx := { port := p, job := 5, via := ⟨0, true, true⟩ }
theorem test_wf_package : wellFormed (.linkDown 12) = false ∧ wellFormed (.serdesRefclkLoss 3) = false ∧ wellFormed (.enAccLowRead 8) = false ∧
    wellFormed (.hostUetRead (rxAt 0) 65536 0 0) = false ∧ wellFormed (.hostUetRead (rxAt 12) 0 0 0) = false ∧ wellFormed (.remoteReadArrive (rxAt 0) 1024 0 0 0) = false ∧ wellFormed (.remoteReadArrive (rxAt 0) 0 64 0 0) = false ∧
    wellFormed (.collectiveDataArrive (rxAt 0) 0 0 0 65536 0 0#64 0#64 (0, 0) []) = false ∧ wellFormed (.linkDown 11) = true := by decide
theorem test_wf_units : wellFormed (.unitTakeMessage 64 0) = false ∧ wellFormed (.engineCommandComplete 0 0 8) = false ∧ wellFormed (.ringPost 0 8) = false ∧
    wellFormed (.cpyLin 0 2 0) = false ∧ wellFormed (.ceSlotWrite 0 0 2 0) = false ∧ wellFormed (.registerWrite 4294967296 0 0) = false ∧
    wellFormed (.lnop 40 0) = false ∧ wellFormed (.lnop 0 16) = false ∧ wellFormed (.larderLaunch 40) = false ∧ wellFormed (.lnop 39 15) = true := by decide
theorem test_wf_tasks : wellFormed (.cfgComplete 256) = false ∧ wellFormed (.barrierArrive 1025) = false ∧ wellFormed (.dispatch 0 0 4) = false ∧
    wellFormed (.gangDispatch 0 1048576 []) = false ∧ wellFormed (.gangDispatch 0 0 [1, 256]) = false ∧ wellFormed (.successorRelease 65536) = false ∧
    wellFormed (.dbgHalt 65536) = false ∧ wellFormed (.mdbgBreakpointHit 4) = false ∧ wellFormed (.instructionFetchTrap 0) = false ∧
    wellFormed (.instructionFetchTrap 9) = false ∧ wellFormed (.arrivalBarrierComplete 0 64) = false ∧ wellFormed (.barrierArrive 1024) = true := by decide
/-- The first slot past the last of each kind of element, and a code of no element. -/
theorem test_wf_slots : wellFormed (.vadd 0 7 6) = false ∧ wellFormed (.ldn 0 15 4) = false ∧ wellFormed (.mrow 0 0x11 4) = false ∧
    wellFormed (.istep 0 0x2F 16) = false ∧ wellFormed (.fscan 0 0x33 2) = false ∧ wellFormed (.agen 0 0x3B 1) = false ∧ wellFormed (.cnt 0 0x4F 1) = false ∧
    wellFormed (.rport 0 0x51 1) = false ∧ wellFormed (.vadd 0 0x12 0) = false ∧ wellFormed (.vadd 256 0 0) = false ∧ wellFormed (.vadd 255 7 5) = true := by decide

/-! ### One step from reset: the first instruction of the management sequencer -/

def first (w : Nat) (p : State → Bool) : Bool := match step (State.reset.withFetchWord 32 w) with
  | .next t => p t
  | _ => false
/-- `addi r7, r0, -3`. -/
theorem test_step_addi : first 0x01383FFD (fun t => (t.ctx 1024).reg 7#5 == -3#64 && (t.ctx 1024).pc == (State.reset.ctx 1024).pc + 4#64) = true := by decide +kernel
/-- `jmp` with displacement 2: the target 8 bytes on. -/
theorem test_step_jmp : first 0x12000002 (fun t => (t.ctx 1024).pc == (State.reset.ctx 1024).pc + 8#64) = true := by decide +kernel
/-- Major 0x0B is unassigned, and TVEC is 0 after reset: the trap is not delivered and the sequencer stops. -/
theorem test_step_illegal : first 0x0B000000 (fun t => (t.ctx 1024).run != .running || (t.ctx 1024).csr.inTrap) = true := by decide +kernel
/-! ### Witnesses: hypotheses of the statements about the sequencer -/


/-- Context 0 of core 0 runs with the code, the handler and the data in the scratchpad window. -/
def seqCtx : Ctx := {
  run := .running
  pc := 0xFFFFFF0000000100#64
  regs := [(1, 0xFFFFFF0000000000#64), (2, 5#64), (3, 0x2000000000006#64), (4, 0xFFFFFFFFFFFF#64), (5, 0xFFFFFF0000000003#64),
    (6, 0x20007#64), (31, 0xFFFFFF000000FFC0#64)]
  csr := { tvec := 0xFFFFFF0000000200#64 }
  task := { fab := true, pdom := 7 } }
/-- The key of the first byte of core 0's scratchpad. -/
def scrKey : Nat := 17592187092992
def seqSt : State := { State.reset with cur := 0, pkg := { State.reset.pkg with hold := false }, ctxs := [(0, seqCtx)] }
/-- The same with another context 0. -/
def seqWith (x : Ctx) : State := { seqSt with ctxs := [(0, x)] }
/-- The management sequencer with its handler and code in HBM. -/
def mgmtCtx : Ctx := { run := .running, pc := 0x100#64, csr := { tvec := 0x200#64 }, regs := [(6, 0x10001#64)] }
def mgmtSt : State := { State.reset with ctxs := [(1024, mgmtCtx)] }

theorem hyp_AluForms : seqSt.ready [0#5, 31#5, 2#5] ∧ seqSt.ready [31#5, 1#5, 0#5] ∧ seqSt.ready [0#5, 0#5] ∧
    seqSt.ready [31#5, 1#5] ∧ seqSt.ready [31#5] ∧ seqCtx.reg 2#5 ≠ 0#64 ∧ seqCtx.reg 0#5 = 0#64 ∧
    2 ^ 63 ≤ (seqCtx.reg 1#5).toNat ∧ (seqCtx.reg 1#5).toNat < 2 ^ 64 ∧ 2 ^ 2 ≤ (seqCtx.reg 2#5).toNat ∧
    (seqCtx.reg 2#5).toNat < 2 ^ 3 := by
  unfold State.ready; decide

theorem hyp_BranchesAndJumps : seqSt.ready [1#5, 2#5] ∧ seqSt.ready [31#5] ∧ seqSt.ready [31#5, 1#5] ∧ (5#3).toNat < 6 ∧
    condHolds 5#3 (seqCtx.reg 1#5) (seqCtx.reg 2#5) = true ∧ condHolds 0#3 (seqCtx.reg 1#5) (seqCtx.reg 2#5) = false ∧
    (seqCtx.pc + 4#64 * (-1#11).signExtend 64 = 0xFFFFFF00000000FC#64) := by
  unfold State.ready; decide
theorem hyp_BranchesAndJumps_target : seqSt.validTarget 0 0xFFFFFF00000000FC#64 ∧ seqSt.validTarget 0 0xFFFFFF000000FFFC#64 := by
  unfold State.validTarget
  exact ⟨⟨by decide, scrKey + 0xFC, by decide, by decide⟩, ⟨by decide, scrKey + 0xFFFC, by decide, by decide⟩⟩

theorem handler_stands : seqSt.hasHandler 0 := by
  unfold State.hasHandler State.validTarget
  exact ⟨by decide, by decide, by decide, scrKey + 0x200, by decide, by decide⟩
theorem mgmt_handler_stands : mgmtSt.hasHandler 1024 := by
  unfold State.hasHandler State.validTarget
  exact ⟨by decide, by decide, by decide, 0x200, by decide, by decide⟩

theorem hyp_MisalignedAddressesTrap : seqSt.ready [31#5, 1#5] ∧ (seqCtx.reg 1#5 + (1#14).signExtend 64).toNat % 4 ≠ 0 ∧
    (seqCtx.reg 1#5 + (7#12).signExtend 64).toNat % 2 ^ (3#2).toNat ≠ 0 ∧
    (seqCtx.reg 5#5 + (0#12).signExtend 64).toNat % 2 ^ (1#2).toNat ≠ 0 ∧ seqCtx.nLd < 64 ∧ seqCtx.nSt < 64 := by
  unfold State.ready; decide

theorem hyp_TrapsAreTaken : (15 < 16) ∧ (seqWith { seqCtx with csr := {} }).ctx 0 = { seqCtx with csr := {} } ∧
    ({ seqCtx with csr := {} } : Ctx).csr.tvec = 0#64 ∧ seqCtx.nSt = 0 ∧ seqCtx.nCp = 0 ∧ seqCtx.csr.trec = 0#64 ∧
    (State.reset.ctx State.reset.cur).csr.tvec = 0#64 ∧ State.reset.cur = 1024 := by decide

/-- Context 0 within a handler. -/
def inTrapSt (tpc : W64) : State := seqWith { seqCtx with csr := { seqCtx.csr with inTrap := true, tpc := tpc } }
theorem hyp_ReturnFromTrap : ((inTrapSt 0xFFFFFF0000000104#64).ctx 0).csr.inTrap = true ∧
    (0xFFFFFF0000000102#64 : W64).toNat % 4 ≠ 0 ∧ seqCtx.csr.inTrap = false := by decide
theorem hyp_ReturnFromTrap_valid : (inTrapSt 0xFFFFFF0000000104#64).validTarget 0 0xFFFFFF0000000104#64 := by
  unfold State.validTarget; exact ⟨by decide, scrKey + 0x104, by decide, by decide⟩
theorem hyp_ReturnFromTrap_fault : (inTrapSt 0x8000000000000000#64).resolve 0 0x8000000000000000#64 2 = .fault 1 := by decide
theorem hyp_ReturnFromTrap_word : let k := scrKey + 0x104
    let s := (inTrapSt 0xFFFFFF0000000104#64).placeWord 0 0xFFFFFF0000000104#64 0x80000000
    s.resolve 0 0xFFFFFF0000000104#64 2 = .mem k ∧ 2 ^ 31 ≤ (s.codeWord (.mem k)).toNat := by decide

/-- The first eight bytes of the scratchpad are within reach, at any size. -/
theorem scratch_reaches : let k := scrKey
    let a := 0xFFFFFF0000000000#64
    seqSt.reaches a 8 0 k ∧ seqSt.reaches a 8 1 k ∧ seqSt.reaches a 1 0 k ∧ seqSt.reaches a 32 0 k ∧ seqSt.reaches a 64 0 k ∧
    seqSt.reaches a 64 1 k ∧ seqSt.reaches a 4 1 k := by
  unfold State.reaches; decide
theorem scratch_address : seqCtx.reg 1#5 + (0#12).signExtend 64 = 0xFFFFFF0000000000#64 ∧
    seqCtx.reg 1#5 + (0#7).signExtend 64 = 0xFFFFFF0000000000#64 ∧ seqCtx.reg 1#5 = 0xFFFFFF0000000000#64 := by decide
theorem hyp_LoadsAndStoresStart : seqCtx.nLd < 64 ∧ seqCtx.nSt < 64 ∧ seqSt.ready [0#5, 1#5] ∧ seqSt.ready [31#5, 1#5, 4#5] ∧
    seqSt.ready [1#5, 4#5] ∧ (seqCtx.reg 4#5).toNat < 2 ^ 48 := by
  unfold State.ready; decide
theorem hyp_AtomicsStart : seqSt.ready [0#5, 1#5, 2#5] ∧ seqCtx.nLd < 64 ∧ seqCtx.nSt < 64 ∧
    (2 ^ 32 - 1 < 2 ^ 32) ∧ (2 ^ 64 - 1 < 2 ^ 64) := by
  unfold State.ready; decide

/-- Context 0 with operations outstanding. -/
def withOps (l : List Op) : Ctx := { seqCtx with ops := l }
theorem hyp_FencesAndWaits : seqCtx.owed = [] ∧ seqSt.fenceBusy 0 3 false = false ∧ seqSt.fenceBusy 0 3 true = false ∧
    (3#3 ≠ 0#3) ∧ (withOps [{ id := 0, form := .ld, inLd := true }]).nLd ≤ 1 ∧ 0 < (withOps [{ id := 0, form := .ld, inLd := true }]).nLd := by
  decide
theorem hyp_FencesAndWaits_busy : ({ (seqWith (withOps [{ id := 0, form := .st, inSt := true, req := some 0 }])) with
    mem := { reqs := [(0, some { by_ := .seq 0, path := 0, kind := .write, wr := [(2 ^ 44, 1#8)] })], nextReq := 1 } }).fenceBusy 0 3 false = true := by
  decide

/-- A load whose data have come. -/
def loadDone : State := { (seqWith (withOps [{ id := 0, form := .ld, inLd := true, req := some 0, dst := some 31#5 }])) with
  mem := { nextReq := 1, reqs := [(0, some { by_ := .seq 0, path := 0, kind := .read, rd := [2 ^ 44], applied := true, bytes := [0xAB#8] })] } }
theorem hyp_LoadCompletes : (loadDone.ctx 0).run ≠ .stopped ∧ loadDone.ctx 0 = { loadDone.ctx 0 with ops := [{ id := 0, form := .ld, inLd := true, req := some 0, dst := some 31#5 }] } ∧
    (loadDone.fab 0).orphans = [] ∧ loadDone.req 0 = some { by_ := .seq 0, path := 0, kind := .read, rd := [2 ^ 44], applied := true, bytes := [0xAB#8] } := by
  decide

theorem hyp_GangReadsSizeAndRank : seqSt.cur < 1024 ∧ seqSt.ready [31#5] ∧ seqCtx.task.size = 1 ∧ seqCtx.task.rank = 0 := by
  unfold State.ready; decide

def aLaunch : Launch := { pdom := 7, cmask := 1#8, u := 1, e := 1, msg := { words := [], pdom := 7, sender := .seq 4 } }
def launchedSt : State := { seqSt with sch := { launches := [(0, some aLaunch)] } }
theorem hyp_EndTrigAndBar : launchedSt.cur < 1024 ∧ (launchedSt.ctx 0).owed = [] ∧ (launchedSt.ctx 0).nSt = 0 ∧ (launchedSt.ctx 0).nCp = 0 ∧
    launchedSt.launchOf seqCtx.task.lid = some aLaunch ∧ launchedSt.wholeRec 0 seqCtx.task GangSt.trigs = true ∧
    launchedSt.wholeRec 0 seqCtx.task GangSt.ended = true ∧ seqCtx.csr.barPending = false ∧ seqCtx.nTl < 64 := by decide
theorem hyp_EndTrigAndBar_pending :
    ((seqWith { seqCtx with csr := { seqCtx.csr with barPending := true } }).ctx 0).csr.barPending = true := by decide

theorem hyp_CpOperationsStart : seqCtx.nCp < 64 ∧ seqSt.cur < 1024 ∧ seqSt.ready [31#5, 1#5, 2#5] ∧ (seqCtx.reg 1#5).toNat % 32 = 0 ∧
    seqSt.ready [2#5] ∧ seqCtx.owed = [] ∧ (seqCtx.reg 2#5).toNat < 2 ^ 32 ∧ seqCtx.nSt = 0 ∧ (31#5 : Reg) ≠ 0#5 ∧
    (seqCtx.reg 2#5).toNat % 2 ^ 16 < 2 ^ 6 ∧ seqSt.ready [31#5, 1#5] ∧ seqSt.ready [1#5, 6#5] ∧ (seqCtx.reg 6#5).toNat < 3 * 2 ^ 16 ∧
    ({ seqSt with ctxs := [(0, { seqCtx with task := {} })] } : State).privileged 0 = true := by
  unfold State.ready; decide

/-- w0 of the message names endpoint 0, unit 0, inbox 0 of this device (DDEV 0, as DEVNUM). -/
theorem hyp_MessagesAreSent : seqCtx.nCp < 64 ∧ (24#5 : Reg).toNat ≤ 24 ∧
    seqSt.ready ((List.range 8).map fun i => 24#5 + BitVec.ofNat 5 i) ∧ seqSt.ready [1#5] ∧ (seqCtx.reg 1#5).toNat % 64 = 0 ∧
    seqCtx.ops = [] ∧ seqSt.mem.stale = [] ∧ seqSt.mem.reqs = [] := by
  unfold State.ready; decide
theorem hyp_MessagesAreSent_own :
    let m : Msg := { words := (List.range 8).map fun _ => 0#64, pdom := 7, sender := .seq 0, req := some 0, lid := 0 }
    seqSt.ownDev m.ddev = true ∧ (seqSt.inbox m.key).length < 64 := by decide

/-- A context that stands at a SEND whose block has come; and a device of a domain of two. -/
def sendOp : Op := { id := 0, form := .send, req := some 0, x := seqCtx.pc }
def sendReq : Req := { by_ := .seq 0, path := 0, kind := .read, applied := true, bytes := List.replicate 64 0#8 }
def sendSt : State := { (seqWith (withOps [sendOp])) with mem := { reqs := [(0, some sendReq)], nextReq := 1 } }
theorem hyp_MessagesAreSent_block : (sendSt.ctx 0).sendRead = some sendOp ∧ sendOp.req = some 0 ∧ sendSt.req 0 = some sendReq ∧
    sendReq.applied = true ∧ sendReq.bad = 0 ∧ seqCtx.sendRead = none ∧ seqSt.sendWaits seqCtx 1#5 = false := by decide
theorem hyp_MessagesAreSent_far : let s : State := { seqSt with xl := { domValid := true, members := [0, 1] } }
    s.ownDev 1 = false ∧ s.inDomain 1 = true ∧ s.ownDev 2 = false ∧ s.inDomain 2 = false := by decide

theorem hyp_RegionFormsStart : seqSt.cur < 1024 ∧ seqCtx.task.fab = true ∧ seqCtx.nTl < 64 ∧ seqSt.ready [31#5, 1#5] ∧
    (seqCtx.reg 1#5).toNat % 64 = 0 ∧ (seqCtx.reg 31#5).toNat % 32 = 0 ∧ ¬ (0xFFFFFFFE00000000 ≤ (seqCtx.reg 1#5).toNat) ∧
    (seqCtx.reg 2#5).toNat < 2 ^ 32 ∧ (0x4F#8).toNat < 0x50 ∧ 0x40 ≤ (0x4F#8).toNat ∧ (0x3B#8).toNat < 0x3C ∧ 0x38 ≤ (0x3B#8).toNat := by
  unfold State.ready; decide
theorem hyp_RegionFormsStart_winter : (seqSt.fab 0).powerOf 0x40 ≠ 1 ∧ ({ seqSt with fabs := [(0, { power := [(0x40, 1)] })] }.fab 0).powerOf 0x40 = 1 ∧
    seqSt.ready [2#5] ∧ seqSt.ready [1#5, 2#5] := by
  unfold State.ready; decide
theorem hyp_RegionFormsStart_order : (({ seqCtx with cfgSince := true } : Ctx).cfgSince = true) ∧
    (({ seqCtx with ranSince := true } : Ctx).ranSince = true) ∧ ({ seqCtx with regs := [(2, 0xFFFF#64), (3, 2#64)] } : Ctx).reg 3#5 = 2#64 ∧
    (({ seqCtx with regs := [(2, 0xFFFF#64), (3, 2#64)] } : Ctx).reg 2#5).toNat < 2 ^ 16 := by decide

theorem hyp_TensorTableAndStatus : seqSt.cur < 1024 ∧ seqSt.ready [31#5, 1#5, 2#5] ∧
    ({ seqCtx with regs := [(2, 0x200#64), (3, 0x7F#64)] } : Ctx).reg 2#5 = 0x200#64 ∧
    ({ seqCtx with regs := [(2, 0x200#64), (3, 0x7F#64)] } : Ctx).reg 3#5 = BitVec.ofNat 64 (0x40 + 63) ∧
    ({ seqSt with fabs := [(0, { pdom := 7 })] }.fab 0).pdom = seqCtx.task.pdom ∧
    seqCtx.task.fab = true ∧ (seqCtx.reg 1#5).toNat % 64 = 0 ∧ seqCtx.nTl < 64 ∧ seqCtx.nSt < 64 ∧ (0x0A38#64 : W64).toNat = 0x38 + 2 ^ 8 * 10 ∧
    elemAssigned 0x38 = true ∧ (seqSt.fab 0).powerOf 0x38 ≠ 1 ∧ (14#64 : W64).toNat ≤ 14 ∧
    ({ seqSt with fabs := [(0, { power := [(0x38, 1)] })] }.fab 0).powerOf 0x38 = 1 := by
  unfold State.ready; decide

theorem hyp_CsrReadsAndWrites : seqSt.ready [31#5] ∧ seqSt.cur < 1024 ∧ mgmtSt.ready [6#5] ∧ mgmtSt.cur = 1024 ∧ (∀ o ∈ seqCtx.ops, o.form ≠ .ldvt) ∧
    (∃ o ∈ (withOps [{ id := 0, form := .ldvt, inLd := true }]).ops, o.form = .ldvt) := by
  refine ⟨?_, ?_, ?_, ?_, ?_, _, List.mem_cons_self, ?_⟩ <;> (try unfold State.ready) <;> decide
theorem hyp_CsrTraps : (0x004#12).toNat < 0x010 ∧ 0x003 < (0x004#12).toNat ∧ (0x00F#12).toNat ≠ 0x008 ∧ 0x102 < (0x103#12).toNat ∧
    (0x0FF#12).toNat < 0x100 ∧ 0x022 < (0x023#12).toNat ∧ (0x003#12).toNat ≤ 0x003 ∧ (0x020#12).toNat = 0x020 ∧
    (0x100#12).toNat ≤ 0x102 ∧ seqSt.cur < 1024 ∧ seqSt.ready [31#5] := by
  unfold State.ready; decide
theorem hyp_SystemForms : mgmtSt.privileged 1024 = true ∧ mgmtSt.cur = 1024 ∧ Nat.land (mgmtSt.mevt mgmtCtx) mgmtCtx.csr.mevtEn.toNat = 0 ∧
    (let x : Ctx := { mgmtCtx with csr := { mgmtCtx.csr with mevt := 4#3, mevtEn := 4#3 } }
     Nat.land (mgmtSt.mevt x) x.csr.mevtEn.toNat ≠ 0) ∧ seqSt.ready [2#5] ∧ (0xFFFE < 0xFFFF) ∧
    (seqCtx.reg 2#5).toNat < 0xFFFF ∧ seqSt.breakpointsFor 0 1 5 = [] ∧ seqSt.breakpointsFor 0 2 5 = [] ∧ 0xFFFF ≤ (seqCtx.reg 1#5).toNat := by
  unfold State.ready; decide
theorem hyp_PrivilegeTraps : seqSt.ready [31#5, 1#5, 6#5] ∧ seqCtx.owed = [] ∧ seqSt.cur < 1024 ∧ seqCtx.task.pdom ≠ 0 ∧
    (seqCtx.reg 6#5).toNat < 3 * 2 ^ 16 ∧ 2 ^ 17 ≤ (seqCtx.reg 6#5).toNat ∧ (31#5 : Reg) ≠ 0#5 ∧ mgmtSt.ready [31#5, 1#5, 6#5] ∧
    ({ seqCtx with task := { pdom := 7 } } : Ctx).task.fab = false ∧ (0x10001#64 : W64).toNat % 2 ^ 16 ≠ seqCtx.task.pdom := by
  unfold State.ready; decide

/-! ### Witnesses: package, ports and what arrives there -/

/-- The device at work: PWRGD asserted, no domain held in reset, ports up, configured as device 1 of a domain of three,
domain 7 active, and one page of it in every TLB used here: page 0 to 64 KiB of HBM, with every right. -/
def aPage : TlbE := { pdom := 7, level := 4, vpn := 0, base := 0, rd := true, wr := true, ex := true, dev := none }
def upSt : State := { State.reset with
  pkg := { rails := true, pwrgd := true, hold := false, bootStage := 3#8 }
  net := { ports := [(0, { linkUp := true }), (1, { linkUp := true, tss := true })] }
  xl := {
    doms := [(0, some { maxPrio := 7 }), (7, some { maxPrio := 7, debug := true })]
    tlbs := [(0, [aPage]), (264, [aPage]), (270, [aPage]), (271, [aPage, { aPage with pdom := 0 }])]
    domValid := true
    jobid := 5#24
    devnum := 1#10
    members := [0, 1, 2] } }

theorem hyp_RailsAndClocks : State.reset.pkg.vaux = true ∧ ({ State.reset with pkg := { pwrgd := true } } : State).pkg.hold = true ∧
    (State.reset.pkg.pwrgd = false) ∧ (0 + 4000000 ≤ 4000000) ∧ (3999999 < 0 + 4000000) ∧ ({ State.reset with pkg := { clkHold := true } } : State).pkg.clkHold = true ∧
    (2 < 3) ∧ 920 ≤ ({ State.reset with pkg := { tempMax := 920#32 } } : State).pkg.tempMax.toInt ∧ State.reset.pkg.tempMax.toInt < 920 ∧
    State.reset.pkg.bootStage ≠ 0xFE#8 ∧ ({ State.reset with pkg := { clkHold := true, bootStage := 0xFE#8 } } : State).pkg.bootStage = 0xFE#8 := by decide
theorem hyp_Resets : State.reset.pkg.rails = false ∧ upSt.pkg.vaux = true ∧ upSt.pkg.rails = true := by decide

theorem hyp_BootStages : State.reset.pkg.vaux = true ∧ State.reset.pkg.clkHold = false ∧ State.reset.pkg.bootStage = 0#8 ∧ (∃ h body, State.reset.slotImage 1 0 = (h, body)) ∧
    (∃ h body, State.reset.slotImage 1 1 = (h, body)) ∧ ({ State.reset with pkg := { bootStage := 2#8 } } : State).pkg.bootStage = 2#8 ∧
    (∃ h body, ({ State.reset with pkg := { bootStage := 1#8 } } : State).slotImage 2 1 = (h, body)) :=
  ⟨by decide, by decide, by decide, ⟨_, _, rfl⟩, ⟨_, _, rfl⟩, by decide, ⟨_, _, rfl⟩⟩
theorem hyp_BootStages_ports : let s : State := { State.reset with pkg := { bootStage := 2#8, hold := false } }
    s.pkg.vaux = true ∧ s.pkg.clkHold = false ∧ s.pkg.hold = false ∧ s.pkg.bootStage = 2#8 := by decide

theorem hyp_LinksAndPortModes : (∃ q < 12, q ≠ 0 ∧ (upSt.port q).mode = 0) ∧ upSt.dataPort = some 0 ∧
    upSt.pkg.bootStage = 3#8 ∧ upSt.pkg.hold = false ∧ upSt.pkg.clkHold = false ∧ (upSt.port 0).modeAct ≠ 2 ∧ upSt.net.wait = [] ∧
    State.reset.pkg.bootStage ≠ 3#8 := by
  refine ⟨⟨11, by decide⟩, ?_⟩; decide
/-- Every port but port 0 carries traces. -/
def onePort : State := { State.reset with net := {
  ports := (0, { linkUp := true, mode := 1 }) :: (List.range 11).map fun i => (i + 1, { linkUp := true, mode := 1, modeAct := 1, trcol := 0x8000000000000000#64 }) } }
theorem hyp_LinksAndPortModes_last : (∀ q < 12, q ≠ 0 → (onePort.port q).mode ≠ 0) ∧ (onePort.port 0).modeAct ≠ (onePort.port 0).mode ∧
    (onePort.port 0).mode ≠ 0 ∧ (∀ c ∈ onePort.net.pdcs, c.port = 0 → c.src / 64 = 1) ∧ (∀ c ∈ onePort.net.inn, c.port ≠ 0) := by decide

/-- A record that drains from the Attic of cluster 7 to a trace port, and one that drains to the cellar. -/
def traceSt (dest : Nat) : State := { onePort with pow := { clus := [(7, { attDest := dest, records := [List.replicate 8 1#64] })] } }
theorem hyp_TraceDrains : ((traceSt 2).clu 7).records = List.replicate 8 1#64 :: [] ∧ ((traceSt 2).clu 7).attDest = 2 ∧
    (traceSt 2).tracePortOf 7 = some 8 ∧ (∀ d < 7, ((traceSt 2).clu d).attDest ≠ 2) ∧ ((traceSt 1).clu 7).attDest = 1 ∧
    ((traceSt 2).port 8).linkUp = true ∧ (traceSt 1).pkg.celOff = false ∧ (List.replicate 8 1#64).length = 8 := by decide

/-- A packet of one message from device 2, domain 7; and one with a count of 0. -/
def aPacket : List Byte := leBytes 0x504D4646 4 ++ [1#8, 1#8, 0#8, 0#8] ++ leBytes (2 * 2 ^ 6 + 7 * 2 ^ 16) 8 ++ List.replicate 64 0#8
theorem hyp_PacketsAreChecked : (upSt.port 0).serves = true ∧ upSt.inTss (rxAt 0) = some false ∧ (upSt.port 1).serves = true ∧
    upSt.inTss (rxAt 1) = some true ∧ (rxAt 1).via.auth = true ∧ (rxAt 0).via.known = true ∧ upSt.xl.domValid = true ∧ (rxAt 0).job = upSt.xl.jobid.toNat ∧
    ({ port := 1, job := 6, via := ⟨0, false, true⟩ } : Rx).via.auth = false ∧ ({ port := 1, job := 6, via := ⟨0, false, true⟩ } : Rx).job ≠ upSt.xl.jobid.toNat ∧
    (let b := aPacket
     let src := leNat ((b.drop 8).take 8) / 2 ^ 6 % 2 ^ 10
     let pdom := leNat ((b.drop 8).take 8) / 2 ^ 16 % 2 ^ 16
     leNat (b.take 4) = 0x504D4646 ∧ leNat ((b.drop 4).take 1) = 1 ∧ leNat ((b.drop 5).take 1) = 1 ∧ b.length = 16 + 64 * 1 ∧
     leNat ((b.drop 6).take 2) = 0 ∧ leNat ((b.drop 8).take 8) % 2 ^ 6 = 0 ∧ upSt.domActive pdom = true ∧ pdom ≠ 0 ∧ src ≠ 0x3FF ∧ src ∈ upSt.xl.members) ∧
    ¬ (leNat (([] : List Byte).take 4) = 0x504D4646) ∧
    (let s : State := { upSt with xl := { upSt.xl with domValid := false } }
     s.xl.domValid = false ∧ (s.port 0).serves = true ∧ s.inTss (rxAt 0) = some false) := by decide

theorem hyp_RemoteTrafficIsServed : upSt.inDomain 2 = true ∧ upSt.pieceKeys 0 none 8 = some (List.range 8) ∧ (0 % 8 + 8 ≤ 8) ∧
    (upSt.wordVer 0).newest < 2 ^ 48 - 1 ∧ upSt.versionFull 0 = false ∧ upSt.mem.stale = [] ∧ (∀ k ∈ List.range 8, k < 2 ^ 60) ∧
    (8 < 9) ∧ nth 0 (List.range 8) 0 = 0 ∧ (0 ≤ (upSt.wordVer 0).newest) ∧ upSt.mem.reqs = [] ∧ (∀ k ∈ List.range 8, isPool k = false) ∧
    upSt.held = false ∧ upSt.found = .good ∧ upSt.net.wait = [] ∧ upSt.net.inn = [] ∧ (rxAt 0).ver = none ∧
    ({ rxAt 0 with ver := some 3 } : Rx).ver = some 3 ∧ 3 < 2 ^ 48 ∧
    ({ upSt with mem := { vers := [(0, { newest := 3, older := [(2, 0#64), (1, 0#64), (0, 0#64)] })] } } : State).versionFull 0 = true := by decide

theorem hyp_HostAccesses : (upSt.port 0).serves = true ∧ upSt.domActive 7 = true ∧ upSt.xl.domValid = true ∧
    (∀ k ∈ [8, 9, 10, 11], k < 2 ^ 60) ∧ (upSt.openIn (rxAt 0) false).rangeKeys (264 + 0 / 2) 7 0 2 8 4 = (upSt.openIn (rxAt 0) false, .ok [8, 9, 10, 11]) ∧
    (upSt.openIn (rxAt 0) false).rangeKeys (264 + 0 / 2) 7 1 2 8 4 = (upSt.openIn (rxAt 0) false, .ok [8, 9, 10, 11]) ∧ upSt.mem.stale = [] ∧ upSt.domActive 8 = false ∧
    (rxAt 0).ver = none ∧ upSt.held = false ∧ upSt.found = .good ∧ upSt.net.wait = [] ∧ upSt.net.inn = [] ∧ (2 ^ 32 - 2 ^ 24 - 8) % 8 = 0 ∧ ({ upSt with pkg := { upSt.pkg with development := true } } : State).pkg.development = true ∧
    upSt.pkg.development = false := by
  refine ⟨?_, ?_, ?_, ?_, by rfl, by rfl, ?_⟩ <;> decide

/-- A delivery context of cluster 0 to device 2, over which a copy has gone. -/
def pdcSt : State := { upSt with
  net := { upSt.net with pdcs := [{ port := 0, src := 0, dst := .dev 2 }] }
  msg := { cmds := [(64, some { msg := { words := [], pdom := 7, sender := .seq 0 }, devs := [2] })] } }
theorem hyp_DeliveryContextsFail : pdcSt.net.pdcs[0]? = some { port := 0, src := 0, dst := .dev 2 } ∧ pdcSt.mem.reqs = [] ∧
    pdcSt.cmd (4096 * 0 + 64 * 1 + 0) = some { msg := { words := [], pdom := 7, sender := .seq 0 }, devs := [2] } ∧ 2 ∈ [2] := by decide

/-! ### Witnesses: memory and translation -/

/-- One request of context 0. -/
def reqSt (r : Req) : State := { seqSt with mem := { reqs := [(0, some r)], nextReq := 1 } }
def aReq (kind : ReqKind) : Req := { by_ := .seq 0, path := 0, kind := kind }
def wordKeys : List Nat := [0, 1, 2, 3, 4, 5, 6, 7]
def meets (r : Req) : Prop := (reqSt r).req 0 = some r ∧ (reqSt r).mayApply 0 = true ∧ (reqSt r).found = .good ∧ (reqSt r).bankBusy r.banked = false ∧ (reqSt r).reachable r = true ∧ r.dev = none ∧
  (∀ k ∈ r.keys, k < 2 ^ 60)
theorem hyp_RequestsAreServed :
    meets { aReq .write with wr := [(0, 1#8)] } ∧ meets { aReq .read with rd := wordKeys } ∧ (reqSt (aReq .read)).mem.stale = [] ∧
    meets { aReq .vstore with ver := 1, wr := wordKeys.zip (leBytes 9 8) } ∧ ((reqSt (aReq .vstore)).wordVer 0).newest < 1 ∧
    (reqSt (aReq .vstore)).versionFull 0 = false ∧ meets { aReq .vstore with ver := 1, wr := [(0, 1#8)], heldAt := some 0 } ∧
    meets { aReq .vstore with ver := 0, wr := [(0, 1#8)] } ∧ (0 ≤ ((reqSt (aReq .vstore)).wordVer 0).newest) ∧
    meets { aReq .retire with rd := [0], ver := 1 } ∧
    meets { aReq .atomic with ats := [{ key := 0, op := 8, dword := true, fp := false, cas := none, x := 1#64 }] } ∧
    meets { aReq .atomic with ats := [{ key := 0, op := 8, dword := true, fp := false, cas := some 0#64, x := 1#64 }] } ∧
    meets { aReq .write with by_ := .unit 0 0x28 0, wr := [(scrKey, 1#8)] } ∧
    (Agent.unit 0 0x28 0).endpoint = ownerOf (nth 0 [scrKey] 0) := by
  unfold meets
  refine ⟨?_, ?_, ?_, ?_, ?_, ?_, ?_, ?_, ?_, ?_, ?_, ?_, ?_⟩ <;> decide

/-- A store of context 0 whose request is `r`. -/
def storeOp : Op := { id := 0, form := .st, inSt := true, req := some 0 }
def storeSt (r : Req) : State := { reqSt r with ctxs := [(0, withOps [storeOp])], clk := { fab := 2 ^ 24 } }
def ackedReq : Req := { aReq .write with wr := [(0, 1#8)], applied := true }
def heldReq : Req := { aReq .vstore with ver := 1, wr := [(0, 1#8)], heldAt := some 0 }
theorem hyp_AcknowledgesAndErrors : (storeSt ackedReq).req 0 = some ackedReq ∧ ((storeSt ackedReq).ctx 0).ops = [storeOp] ∧
    ackedReq.acked = false ∧ ackedReq.bad = 0 ∧ (storeSt heldReq).req 0 = some heldReq ∧ ((storeSt heldReq).ctx 0).ops = [storeOp] ∧
    ((storeSt heldReq).ctx 0).owed = [] ∧ ((storeSt heldReq).ctx 0).run ≠ .stopped ∧ 0 + 2 ^ ((storeSt heldReq).clu (0 / 128)).vstall ≤ (storeSt heldReq).clk.fab ∧
    (reqSt { aReq .write with wr := [(0, 1#8)] }).mayApply 0 = true ∧ (56 ≤ 56) ∧
    (reqSt { aReq .write with wr := [(0, 1#8)] }).bankBusy (Req.banked { aReq .write with wr := [(0, 1#8)] }) = false ∧
    (reqSt { aReq .write with wr := [(0, 1#8)] }).reachable { aReq .write with wr := [(0, 1#8)] } = true ∧ (Req.keys { aReq .write with wr := [(0, 1#8)] }) = [0] ∧
    ({ words := [BitVec.ofNat 64 (56 * 2 ^ 32)], pdom := 7, sender := .seq 0 } : Msg).dep = 56 := by decide

/-- Domain 7 with its root table at 4096, its pages not in any TLB. -/
def walkSt (m : List Miss) (w : List Want) : State := { seqSt with xl := {
  doms := [(0, some { maxPrio := 7 }), (7, some { root := 4096 })]
  misses := m
  wants := w } }
def aWant : Want := { who := .seq 0, pdom := 7, va := 0x12345, acc := 0 }
def aMiss : Miss := { group := 256, pdom := 7, va := 0x10000, waiters := [], level := 4, table := 4096 }
theorem hyp_WalksFollowTheTables_start : (walkSt [] [aWant]).xl.wants[0]? = some aWant ∧
    (walkSt [] [aWant]).xl.misses.any (missOf (l2Group (tlbGroup aWant.who)) 7 0x10000) = false ∧ (walkSt [] [aWant]).l1Full aWant.who = false ∧
    ((walkSt [] [aWant]).xl.misses.filter fun x => x.group == l2Group (tlbGroup aWant.who)).length < 1024 ∧ aWant.held = false := by decide
/-- The entry at the level of the walk, with the table's other entries 0. -/
def withEntry (m : Miss) (w : Nat) : State := { walkSt [m] [] with mem := {
  bytes := ((keyRange (m.table + 8 * idxOf m.va m.level) 8).zip (leBytes w 8)).filter fun e => e.2 ≠ 0#8 } }
theorem hyp_WalksFollowTheTables : (withEntry aMiss 0).xl.misses[0]? = some aMiss ∧ (withEntry aMiss 0).domActive 7 = true ∧ (withEntry aMiss 0).hasWalker 0 aMiss = true ∧ (withEntry aMiss 0).found = .good ∧
    (withEntry aMiss 0).checkEntry 7 0x10000 4 aMiss.acc ((withEntry aMiss 0).entryAt 4096 (idxOf 0x10000 4)) = .fault 2 ∧
    (let m := { aMiss with level := 0 }
     (withEntry m 0x10001).checkEntry 7 0x10000 0 m.acc ((withEntry m 0x10001).entryAt 4096 (idxOf 0x10000 0)) = .down 0x10000) := by decide
/-- The leaf of the entry 0x2001F: frame 2, with every right. -/
def leafTwo : TlbE := { aPage with vpn := 1, base := 0x20000 }
theorem hyp_WalksFollowTheTables_leaf : let s := withEntry aMiss 0x2001F
    s.checkEntry 7 0x10000 4 aMiss.acc (s.entryAt 4096 (idxOf 0x10000 4)) = .leaf leafTwo ∧ s.needsZero leafTwo = true ∧
    ({ s with mem := { s.mem with frames := [(2, { owner := some 7 })] } } : State).needsZero leafTwo = false ∧
    ({ s with mem := { s.mem with frames := [(2, { owner := some 7 })] } } : State).checkEntry 7 0x10000 4 aMiss.acc
      (({ s with mem := { s.mem with frames := [(2, { owner := some 7 })] } } : State).entryAt 4096 (idxOf 0x10000 4)) = .leaf leafTwo ∧
    (walkSt [{ aMiss with leaf := some leafTwo }] []).xl.misses[0]? = some { aMiss with leaf := some leafTwo } ∧ leafTwo.dev = none := by decide
theorem hyp_WalksFollowTheTables_causes : (4 < 5) ∧ 0 % 2 = 0 ∧ (2 ^ 54 + 1) % 2 = 1 ∧ (2 ^ 54 + 1) / 2 ^ 54 % 2 ^ 10 ≠ 0 ∧ 3 % 2 = 1 ∧
    3 / 2 % 2 = 1 ∧ (walkSt [] []).checkEntry 7 0x10000 4 0 0x2001F = .leaf leafTwo := by decide

/-! ### Witnesses: messages, management, launches, records, barriers -/

/-- Word 0 of a message: OPC, LEN, DDEV, endpoint, unit, inbox. -/
def w0of (opc len ddev ep u inbox : Nat) : W64 :=
  BitVec.ofNat 64 (opc * 2 ^ 56 + len * 2 ^ 53 + ddev * 2 ^ 38 + ep * 2 ^ 32 + u * 2 ^ 26 + inbox * 2 ^ 20)
/-- An MG.READ of PDOM 0 by the management sequencer, to its own device. -/
def mgMsg (opc len : Nat) (ws : List W64) : Msg :=
  { words := w0of opc len 1 54 0 0 :: 0#64 :: 0#64 :: ws, pdom := 0, sender := .seq 1024 }
def netSt (m : Msg) (waiting : Bool) (l : List Msg) : State :=
  { upSt with msg := { net := [{ msg := m, src := 54, waiting := waiting }], inbox := [(inboxKey 54 0 0, l)] } }
theorem hyp_MessagesReachUnits : let m := mgMsg 1 1 [0#64]
    let s := netSt m false []
    s.msg.net[0]? = some { msg := m, src := 54 } ∧ s.heldUp 0 m = false ∧ m.exists_ = true ∧ s.opens m = true ∧
    (s.inbox m.key).length < 64 ∧ (netSt m true []).msg.net[0]? = some { msg := m, src := 54, waiting := true } ∧
    64 ≤ ((netSt m false (List.replicate 64 m)).inbox m.key).length ∧ (netSt m false [m, m]).nextInbox 54 0 = some 0 ∧
    (netSt m false [m, m]).inbox (inboxKey 54 0 0) = [m, m] ∧ (netSt m false [m, m]).msgFault m = none := by decide
/-- A command whose effects are complete; its reply goes to address 64 with version 2. -/
def doneCmd (w1 w2 : W64) : Cmd := { msg := { words := [w0of 1 1 1 54 0 0, w1, w2], pdom := 7, sender := .seq 1024 }, finished := true }
def cmdSt (c : Cmd) : State := { upSt with msg := { cmds := [(inboxKey 54 0 0, some c)] } }
theorem hyp_MessagesReachUnits_reply : let c := doneCmd 64#64 2#64
    (cmdSt (doneCmd 0#64 0#64)).cmd (inboxKey 54 0 0) = some (doneCmd 0#64 0#64) ∧ (cmdSt (doneCmd 0#64 0#64)).acknowledged (.eng 54 0 0) = true ∧
    (cmdSt c).acknowledged (.eng 54 0 0) = true ∧ (doneCmd 0#64 0#64).msg.word 1 = 0 ∧
    c.finished = true ∧ c.msg.host = false ∧ c.err = false ∧ c.msg.word 1 ≠ 0 ∧ c.msg.word 1 % 8 = 0 ∧ c.msg.word 2 < 2 ^ 48 ∧
    (cmdSt c).xlate (tlbGroup (.eng 54 0 0)) 7 (w64 (c.msg.word 1)) 1 = .ok 64 none ∧ (cmdSt c).physKey 64 = some 64 ∧
    ((cmdSt c).wordVer 64).newest < c.msg.word 2 ∧ (cmdSt c).versionFull 64 = false ∧ (cmdSt c).held = false ∧ (cmdSt c).found = .good ∧
    (cmdSt c).statusStored 54 0 c = true := by decide

def mgCmd (opc : Nat) (ws : List W64) : Cmd := { msg := mgMsg opc 3 ws }
/-- What every clause of the statement asks for, and its own conditions. -/
def mgMeets (s : State) (c : Cmd) (opc : Nat) : Prop :=
  s.cmd (inboxKey 54 0 0) = some c ∧ c.finished = false ∧ s.found = .good ∧ s.mgmtServes = true ∧ s.held = false ∧ c.msg.opc = opc
theorem hyp_ManagementServices : mgMeets (cmdSt (mgCmd 1 [8#64])) (mgCmd 1 [8#64]) 1 ∧ mgMeets (cmdSt (mgCmd 2 [8#64])) (mgCmd 2 [8#64]) 2 ∧
    mgMeets (cmdSt (mgCmd 3 [0xFFFE#64, 0xFFFFFFF000#64, 15#64])) (mgCmd 3 [0xFFFE#64, 0xFFFFFFF000#64, 15#64]) 3 ∧
    mgMeets (cmdSt (mgCmd 4 [7#64])) (mgCmd 4 [7#64]) 4 ∧ mgMeets (cmdSt (mgCmd 8 [0#64, 0xFFFFFFFFFFFF0000#64, 8#64])) (mgCmd 8 [0#64, 0xFFFFFFFFFFFF0000#64, 8#64]) 8 := by
  unfold mgMeets; decide
theorem hyp_ManagementServices_domains : let s := cmdSt (mgCmd 3 [0xFFFE#64, 0xFFFFFFF000#64, 15#64])
    0 < 0xFFFE ∧ 0xFFFE < 0xFFFF ∧ 0xFFFFFFF000 % 4096 = 0 ∧ 0xFFFFFFF000 < 2 ^ 40 ∧ s.domActive 0xFFFE = false ∧ s.domsOn < 256 ∧
    15 / 8 % 2 = 1 ∧ 7 / 8 % 2 = 0 ∧ (cmdSt (mgCmd 4 [7#64])).domActive 7 = true ∧ (cmdSt (mgCmd 4 [7#64])).domBusy 7 = false ∧
    (mgCmd 8 [0#64, 0xFFFFFFFFFFFF0000#64, 8#64]).msg.word 5 = 8 ∧ inDebugWindow ((mgCmd 8 [0#64, 0xFFFFFFFFFFFF0000#64, 8#64]).msg.word 4) = true := by decide
set_option maxRecDepth 8000 in
theorem hyp_ManagementServices_objects : let s : State := { cmdSt (mgCmd 5 [0#64, 256#64]) with xl := { upSt.xl with domValid := false } }
    s.xl.domValid = false ∧ s.found = .good ∧ (mgCmd 5 [0#64, 256#64]).msg.word 4 = 256 ∧ (∃ l, s.mgFetch 0 0 256 .good = (s, .ok l)) ∧
    (∃ h body, s.fetchImage 0 .good = (s, .ok (h, body))) ∧ (∃ l, s.mgFetch 0 0 48 .good = (s, .ok l)) :=
  ⟨by decide, by decide, by decide, ⟨_, by rfl⟩, ⟨_, _, by rfl⟩, ⟨_, by rfl⟩⟩
theorem hyp_ManagementServices_write : let c := mgCmd 9 [0x0007000000000000#64, 8#64, 5#64]
    mgMeets (cmdSt c) c 9 ∧ inDebugWindow (c.msg.word 4) = false ∧ handleDom c.msg = 7 ∧
    (cmdSt c).rangeKeys 271 7 1 2 8 8 = (cmdSt c, .ok [8, 9, 10, 11, 12, 13, 14, 15]) ∧ (∀ k ∈ [8, 9, 10, 11, 12, 13, 14, 15], k < 2 ^ 60) := by
  unfold mgMeets; refine ⟨by decide, by decide, by decide, by rfl, by decide⟩
/-- The sequencer before the instruction that breakpoint 3 of its debug unit holds. -/
def mdbgSt : State := { cmdSt (mgCmd 1 []) with dbg := { mBp := [(3, 0x101#64)] }, ctxs := [(1024, mgmtCtx)] }
theorem hyp_ManagementServices_debug : (mdbgSt.ctx 1024).run = .running ∧ (3 < 4) ∧ mdbgSt.dbg.mHalted = false ∧ (mdbgSt.ctx 1024).bpDone = 0 ∧
    mdbgSt.mdbgAt 3 (mdbgSt.ctx 1024).pc = true ∧ mdbgSt.mdbgAt 2 (mdbgSt.ctx 1024).pc = false ∧
    ({ cmdSt (mgCmd 1 []) with dbg := { mHalted := true } } : State).dbg.mHalted = true := by decide

/-- A LAUNCH of two records on cluster 7, with PRIO 3, MAXPRIO 7, GANG 0. -/
def launchMsg : Msg := { words := [w0of 0x50 4 1 55 0 0, 0#64, 0#64, 0xFFFFFF0000000100#64, 0x40#64, BitVec.ofNat 64 (2 * 2 ^ 32 + 2 ^ 48),
  BitVec.ofNat 64 (128 * 2 ^ 56 + 3 * 2 ^ 53 + 7 * 2 ^ 50)], pdom := 7, sender := .seq 4 }
def launchSt (step : Nat) (l : SMap (Option Launch)) : State :=
  { upSt with
    msg := { cmds := [(inboxKey 55 0 0, some { msg := launchMsg, step := step })] }
    sch := { launches := l } }
def twoLaunch : Launch := { aLaunch with u := 2, e := 2, cmask := 128#8, msg := launchMsg, written := 1 }
theorem hyp_LaunchesAndJoins_launch : let s := launchSt 0 []
    s.cmd (inboxKey 55 0 0) = some { msg := launchMsg } ∧ launchMsg.opc = 0x50 ∧ s.dom 7 = some { maxPrio := 7, debug := true } ∧
    launchMsg.launchBad 7 = none ∧ s.sch.nextLid = 0 ∧ s.launchOf 0 = none ∧ launchMsg.lCount = 2 ∧
    (launchSt 1 [(0, some twoLaunch)]).launchOf 0 = some twoLaunch ∧ maskCluster launchMsg.lCmask 1 = 7 ∧
    (launchSt 1 [(0, some twoLaunch)]).clActive 7 = true ∧ (launchSt 1 [(0, some twoLaunch)]).findSlot 7 = some 0 ∧
    twoLaunch.written + 1 = launchMsg.lCount := by decide
/-- A finished launch with a successor. -/
def overSt (donerep : Bool) : State := launchSt 1 [(0, some { aLaunch with u := 0, e := 0, donerep := donerep }),
  (1, some { twoLaunch with pred := some 0, written := 2, handles := [0x70100000] })]
theorem hyp_LaunchesAndJoins_end : (overSt true).launchOf 0 = some { aLaunch with u := 0, e := 0, donerep := true } ∧
    (overSt true).successors 0 = [(1, { twoLaunch with pred := some 0, written := 2, handles := [0x70100000] })] ∧
    (overSt true).successors 1 = [] ∧ ({ overSt true with msg := {} } : State).firstReplied 0 = true ∧
    ({ overSt true with msg := {} } : State).launchOf 0 = some { aLaunch with u := 0, e := 0, donerep := true } ∧ (launchSt 1 [(1, some { aLaunch with e := 0 })]).launchOf 1 = some { aLaunch with e := 0 } ∧
    (launchSt 1 [(1, some { aLaunch with e := 0 })]).successors 1 = [] := by decide
def aRec (st : RecSt) (join : Nat) : Rec := {
  code := 0xFFFFFF0000000100#64
  frame := 0x40#64
  join := join
  pdom := 7
  lid := 0
  prio := 3
  maxPrio := 7
  gang := 0
  keep := false
  fab := true
  notrig := false
  st := st }
def joinSt (n : Nat) : State := { upSt with
  sch := { recs := [(7 * 2 ^ 20, some (aRec .pending n))], joins := [(handleOf 7 1 0, none)], monitors := [{ cl := 0, key := 0, ver := 1, handle := handleOf 7 1 0 }] }
  mem := { vers := [(0, { newest := 1 })] } }
theorem hyp_LaunchesAndJoins_join : (joinSt 1).sch.joins[0]? = some (handleOf 7 ((joinSt 1).gen 7 0) 0, none) ∧ (joinSt 1).gen 7 0 < 2 ^ 8 ∧
    (joinSt 1).recAt 7 0 = some (aRec .pending 1) ∧ (joinSt 2).recAt 7 0 = some (aRec .pending 2) ∧ (joinSt 1).clActive 7 = true ∧
    (joinSt 1).preempted 0 = false ∧ (joinSt 1).sch.monitors[0]? = some { cl := 0, key := 0, ver := 1, handle := handleOf 7 1 0 } ∧
    1 ≤ ((joinSt 1).wordVer 0).newest := by decide

/-- Cluster 7 with one record that is ready. -/
def readySt (r : Rec) (time : Nat) : State := { upSt with sch := { recs := [(7 * 2 ^ 20, some r)] }, clk := { time := time } }
theorem hyp_RecordsAreDispatched : (readySt (aRec .ready 0) 0).reserveCores.serveNext 7 = some (0, aRec .ready 0) ∧
    ((readySt (aRec .ready 0) 0).ctx (4 * 255 + 3)).run = .idle ∧ 255 ∈ (readySt (aRec .ready 0) 0).reserveCores.placeCores 7 0 (aRec .ready 0) ∧
    (readySt (aRec .ready 0) 65536).recAt 7 0 = some (aRec .ready 0) ∧ (aRec .ready 0).since + 65536 ≤ 65536 ∧ (aRec .ready 0).prio < (aRec .ready 0).maxPrio := by
  decide
theorem hyp_RecordsAreDispatched_gang : let r := { aRec .ready 0 with gang := 2 }
    (readySt r 0).recAt 7 0 = some r ∧ gangCores r.gang = some [224, 255].length ∧ [224, 255].Pairwise (· < ·) ∧
    (∀ core ∈ [224, 255], core ∈ (readySt r 0).reserveCores.placeCores 7 0 r) ∧ (readySt r 0).reserveCores.serveNext 7 = some (0, r) ∧
    (readySt r 65536).agedGangs 7 = [(7, 0, r)] ∧ (readySt r 65536).holdsResv 7 0 7 = false := by decide

/-- A gang of contexts 0 and 4, whose BARs are outstanding. -/
def barCtx : Ctx := { seqCtx with
  ops := [{ id := 0, form := .bar, inTl := true }]
  csr := { seqCtx.csr with barPending := true }
  task := { seqCtx.task with gang := some 0, size := 2 } }
def gangSt (arrived ended : List Nat) : State := { State.reset with
  ctxs := [(0, barCtx), (4, barCtx)]
  sch := { gangs := [(0, some { members := [0, 4], cross := false, clusters := [0], id := 0, arrived := arrived, ended := ended })] } }
theorem hyp_BarriersRelease : barCtx.hasBar = true ∧ barCtx.task.gang = some 0 ∧ (barCtx.barReady fun o => o.inSt || o.inCp) = true ∧ 4 ∉ [0] ∧
    barCtx.run ≠ .stopped ∧ ({ barCtx with task := {} } : Ctx).barReady Op.inSt = true ∧ ({ barCtx with task := {} } : Ctx).task.gang = none ∧
    (∀ m ∈ [0, 4], m ∈ [0, 4] ∧ ((gangSt [0, 4] []).ctx m).task.gang = some 0) ∧
    (gangSt [0, 4] []).hubsBusy { members := [0, 4], cross := false, clusters := [0], id := 0, arrived := [0, 4] } barCtx.task = false ∧
    (4 ∈ [4] ∧ 4 ∉ [0] ∧ ((gangSt [0] [4]).ctx 0).task.gang = some 0) := by decide

/-! ### Witnesses: registers, power, debug, pre-emption -/

theorem hyp_RegistersAreWritten : mregAt (0x3200040 / 8 * 8) = .vstall 0 ∧ mregAt (0x3270040 / 8 * 8) = .vstall 7 ∧
    mregAt (0x3200148 / 8 * 8) ∈ [.domCfg, .enAcc 0, .clAck 0, .atticWptr 0, .none] ∧ mregAt (0 / 8 * 8) ∈ [.domCfg, .enAcc 0, .clAck 0, .atticWptr 0, .none] ∧
    State.reset.clk.time / 16 < 16 / 16 ∧ (10 ≤ (10#64 : W64).toNat % 64 ∧ (30#64 : W64).toNat % 64 ≤ 30) ∧
    State.reset.held = true ∧ upSt.held = false := by decide
theorem hyp_RegistersAreWritten_baddst : mregAt (0x4100000 / 8 * 8) = .baddst := by decide

/-- Cluster 7 with a state of CLPWR. -/
def cluSt (x : Clu) : State := { upSt with
  pow := { clus := [(7, x)] }
  sch := { stop := [(7, true)] } }
theorem hyp_PowerStates : (∃ x ∈ ([920] : List Int).take 17, 920 ≤ x) ∧ (∀ x ∈ ([920] : List Int).take 17, x < 2 ^ 31) ∧
    (cluSt { req := true, retBase := 1 }).quiesced 7 = true ∧ upSt.quiesced 7 = false ∧
    (cluSt { req := true, retBase := 1 }).physKey (1 * 65536) = some 65536 ∧ ((cluSt { state := 1 }).clu 7).state = 1 ∧
    ((cluSt { state := 2, saveDone := true }).clu 7).saveDone = true ∧ ((cluSt { state := 4 }).clu 7).wokeFrom = 0 ∧ (upSt.clu 7).state = 0 ∧ upSt.held = false ∧
    ((cluSt { state := 3 }).clu 7).state = 3 ∧ ((cluSt { state := 4, wokeFrom := 2 }).clu 7).wokeFrom = 2 ∧ (cluSt { state := 3 }).held = false ∧
    (({ mgmtSt with ctxs := [(1024, { mgmtCtx with csr := { timecmp := 5#64 } })], clk := { time := 5 } } : State).ctx 1024).csr.timecmp.toNat ≤ 5 % 2 ^ 64 := by
  decide

/-- Domain 7 with one running task, its debug registers `w`. -/
def dbgSt (run : RunSt) (d : Dbg) : State := { seqWith { seqCtx with run := run } with
  dbg := { doms := [(7, d)] }
  clk := { fab := 32 }
  fabs := [(0, { pdom := 7, stopAt := true, atEdge := true })] }
theorem hyp_DebugStops : let h := dbgSt .running { words := [(0, 0x400#64)] }
    (h.dbgOf 7).stopped = false ∧ (h.dbgOf 7).word 0x10 = 0 ∧ (h.dbgOf 7).word 0 / 2 ^ 10 % 2 = 1 ∧ (h.ctx 0).run = .running ∧ (h.ctx 0).task.pdom = 7 ∧
    ((dbgSt .stopped { stopped := true }).dbgOf 7).word 0x10 = 0 ∧ ((dbgSt .stopped { stopped := true }).ctx 0).run = .stopped ∧
    (h.fab 0).stopAt = true ∧ (h.fab 0).atEdge = true ∧ (h.dbgOf 7).captureOn = false ∧
    ((dbgSt .running { captureOn := true }).dbgOf 7).captureOn = true := by decide
theorem hyp_DebugStops_run : ∀ e ∈ (dbgSt .stopped { stopped := true }).ctxs, e.1 < 1024 →
    (dbgSt .stopped { stopped := true }).validTarget e.1 ((dbgSt .stopped { stopped := true }).ctx e.1).pc := by
  intro e he _
  have : e = (0, { seqCtx with run := .stopped }) := by simpa [dbgSt, seqWith] using he
  subst this
  unfold State.validTarget
  exact ⟨by decide, scrKey + 0x100, by decide, by decide⟩
/-- PERIOD 5 and ALLLID in PROF.CTL. -/
def capSt (fab : Nat) : State := { dbgSt .running { captureOn := true, words := [(3, 0x40B#64)] } with clk := { fab := fab } }
theorem hyp_DebugStops_sample : let s := capSt 32
    s.ctxs = [(0, seqCtx)] ∧ (s.dbgOf 7).captureOn = true ∧ (s.dbgOf 7).word 0x18 / 2 ^ 10 % 2 = 1 ∧ (s.dbgOf 7).word 0x18 / 2 ^ 6 % 2 = 0 ∧
    (s.dbgOf 7).sampledAt + 2 ^ ((s.dbgOf 7).word 0x18 / 2 % 32) ≤ s.clk.fab ∧
    (capSt 31).clk.fab < (s.dbgOf 7).sampledAt + 2 ^ ((s.dbgOf 7).word 0x18 / 2 % 32) := by decide
/-- Breakpoint 7 and watchpoint 3 with an ACTION. -/
def hitSt (action : Nat) : State :=
  dbgSt .running { words := [(0x1E0 / 8, BitVec.ofNat 64 (1 + action * 2 ^ 7 + 2 ^ 10)), (0x1E8 / 8, seqCtx.pc), (0x260 / 8, BitVec.ofNat 64 (1 + 2 ^ 1 + 2 ^ 3 + action * 2 ^ 7 + 2 ^ 10 + 6 * 2 ^ 11)), (0x268 / 8, 64#64)] }
theorem hyp_DebugStops_hit : (hitSt 0).dbgOf 7 = (hitSt 0).dbgOf ((hitSt 0).ctx 0).task.pdom ∧ ((hitSt 0).dbgOf 7).stopped = false ∧
    ((hitSt 0).dbgOf 7).word (0x100 + 32 * 7) / 2 ^ 7 % 4 = 0 ∧ ((hitSt 1).dbgOf 7).word (0x100 + 32 * 7) / 2 ^ 7 % 4 = 1 ∧
    ((hitSt 0).dbgOf 7).word (0x200 + 32 * 3) / 2 ^ 7 % 4 = 0 ∧ ((hitSt 1).dbgOf 7).word (0x200 + 32 * 3) / 2 ^ 7 % 4 = 1 ∧
    (hitSt 0).breakpointsFor 0 0 seqCtx.pc.toNat = [7] ∧ (hitSt 1).breakpointsFor 0 0 seqCtx.pc.toNat = [7] ∧
    (hitSt 2).breakpointsFor 0 0 seqCtx.pc.toNat = [7] ∧ 6 ∉ (hitSt 0).breakpointsFor 0 0 seqCtx.pc.toNat ∧
    (∀ wr, (hitSt 0).watchSees seqCtx.task (w64 64) 8 wr 3 2 = false) ∧ (∀ n < 3, (hitSt n).watchSees seqCtx.task (w64 64) 8 true 3 3 = true) ∧ ((hitSt 2).dbgOf 7).word (0x100 + 32 * 7) / 2 ^ 7 % 4 = 2 ∧
    ((hitSt 2).dbgOf 7).word (0x200 + 32 * 3) / 2 ^ 7 % 4 = 2 ∧ ((hitSt 2).dbgOf 7).word (0x100 + 32 * 7) / 2 ^ 9 % 4 = 2 ∧
    ((hitSt 2).dbgOf 7).word (0x200 + 32 * 3) / 2 ^ 9 % 4 = 2 ∧ ((hitSt 2).dbgOf 7).word 0x10 = 0 ∧ ((hitSt 2).ctx 0).run = .running := by decide
theorem hyp_DebugStops_handler : (hitSt 1).hasHandler 0 := by
  unfold State.hasHandler State.validTarget
  exact ⟨by decide, by decide, by decide, scrKey + 0x200, by decide, by decide⟩

/-- PREEMPT and RESUME of launch 0, and RESUME of the region of core 0, with the save area at address 0 of a 1 GiB page. -/
def preMsg (opc len w3 : Nat) : Msg := { words := [w0of opc len 1 55 0 0, 0#64, 0#64, BitVec.ofNat 64 w3, 0#64], pdom := 7, sender := .seq 8 }
def bigPage : TlbE := { aPage with level := 2 }
def preSt (m : Msg) (x : Ctx) (l : Launch) (p : List Preempt) (f : Fabric) : State := { upSt with
  xl := { upSt.xl with tlbs := [(270, [bigPage])] }
  msg := { cmds := [(inboxKey 55 0 0, some { msg := m })] }
  sch := { launches := [(0, some l)], preempts := p }
  ctxs := [(0, x)]
  fabs := [(0, f)] }
def preemptSt : State := preSt (preMsg 0x51 2 0) seqCtx aLaunch [] {}
theorem hyp_PreemptAndResume_preempt : let s := preemptSt; let m := preMsg 0x51 2 0
    s.cmd (inboxKey 55 0 0) = some { msg := m } ∧ m.opc = 0x51 ∧ m.preemptBad = none ∧ s.launchOf 0 = some aLaunch ∧
    s.xlate 270 m.tdom (w64 (m.word 4)) 1 = .ok 0 none ∧ s.tlbLookup 270 m.tdom (va57 (w64 (m.word 4))) = some bigPage ∧ bigPage.level = 2 ∧
    s.ctxHit 7 [0] 0 = true ∧ s.ctxHit 7 [0] 1023 = false := by decide
theorem hyp_PreemptAndResume_lids : preemptSt.preemptLids (preMsg 0x51 2 0) = .ok [0] := by rfl
def aPreempt : Preempt := { lids := [0], pdom := 7, save := 0, base := 0, cores := [0] }
def savingSt : State := preSt (preMsg 0x51 2 0) { seqCtx with run := .preempted } { aLaunch with preempted := true } [aPreempt] {}
theorem hyp_PreemptAndResume_save : savingSt.sch.preempts.find? (fun p => p.cores.contains 0) = some aPreempt ∧ savingSt.maySave 0 = true ∧
    (savingSt.ctx 0).run = .preempted := by decide
def aSaved : SavedCore := {
  core := 0
  ctxs := [(0, seqCtx)]
  fab := none
  holder := some 0
  orphans := []
  requests := []
  larder := false
  partWord := 0x081810#64
  tids := []
  full := []
  arrive := []
  rings := [] }
def resumeSt (resuming : Bool) : State :=
  preSt (preMsg 0x52 2 0) {} { aLaunch with preempted := true } [{ aPreempt with cores := [], saved := [aSaved], resuming := resuming }] {}
theorem hyp_PreemptAndResume_resume : let s := resumeSt false; let m := preMsg 0x52 2 0
    s.cmd (inboxKey 55 0 0) = some { msg := m } ∧ m.opc = 0x52 ∧ m.scope = 0 ∧ m.resumeBad = none ∧
    s.preemptsFor m = [{ aPreempt with cores := [], saved := [aSaved] }] ∧ aPreempt.save = m.word 4 ∧
    s.xlate 270 m.tdom (w64 (m.word 4)) 1 = .ok 0 none ∧ s.tlbLookup 270 m.tdom (va57 (w64 (m.word 4))) = some bigPage := by decide
theorem hyp_PreemptAndResume_restore : let s := resumeSt true
    s.sch.preempts.find? (fun p => p.resuming && p.saved.any fun x => x.core == 0) =
      some { aPreempt with cores := [], saved := [aSaved], resuming := true } ∧ [aSaved].find? (fun x => x.core == 0) = some aSaved ∧
    s.mayRestore 0 = true ∧ (aSaved.ctxs.map Prod.fst).Nodup := by decide
/-- A region frozen by a translation fault of the address generator 0x38. -/
def frozenFab : Fabric := { st := .frozen, pdom := 7, units := [(0x38 * 16, { frozen := true, f0 := 0x4000000000000000#64 })] }
theorem hyp_PreemptAndResume_region : let m := preMsg 0x52 2 (2 * 2 ^ 62); let s := preSt m {} aLaunch [] frozenFab
    s.cmd (inboxKey 55 0 0) = some { msg := m } ∧ m.scope = 2 ∧ m.target = 0 ∧ m.resumeBad = none ∧ (s.fab m.target).retryable = true ∧
    (s.fab m.target).pdom = m.pdom := by decide

/-! ### Witnesses: nodes of a running region -/

def inCh (e u p : Nat) (q : List Tok) : Chan :=
  { pelem := 0x38, pslot := 0, pport := 8, inc := false, celem := e, cslot := u, cport := p, depth := 4, q := q }
def outCh (e u o : Nat) : Chan := { pelem := e, pslot := u, pport := 8 + o, inc := false, celem := 7, cslot := 0, cport := 0, depth := 4 }
def aTok : Tok := dataTok 0x00FF#16 true fun i => BitVec.ofNat 32 (i + 1)
def bTok : Tok := dataTok 0x0FF0#16 false fun i => BitVec.ofNat 32 (100 * i) - 700#32
def cTok : Tok := dataTok 0xFFFF#16 false fun i => BitVec.ofNat 32 (i % 3)
/-- A region on core 0 that runs one node, the last of its element, its ports fed and output 0 bound; `u` is the unit. -/
def nodeSt (e k : Nat) (n : Node) (u : Unit_) (feeds : List (Nat × List Tok)) : State := { State.reset with fabs := [(0, {
  st := .running
  nodes := [(unitKey e k, n)]
  units := [(unitKey e (unitSlot e k), u)]
  chans := (feeds.map fun x => inCh e (unitSlot e k) x.1 x.2) ++ [outCh e (unitSlot e k) 0, outCh e (unitSlot e k) 1] })] }
def veNode (opc ty fn : Nat) : Node := { opc := opc, ty := ty, fn := fn, selA := 1, selB := 2, selC := 3, omask := 1#4 }
def veSt (opc ty fn : Nat) : State := nodeSt 0 0 (veNode opc ty fn) {} [(0, [aTok]), (1, [bTok]), (2, [cTok])]
theorem hyp_VectorIntegerForms : ∃ g y, (veSt 0x01 6 0).firing 0 0 0 0x01 g y := by
  unfold State.firing; exact ⟨_, _, by decide, by decide, by decide, by decide, rfl, rfl⟩
theorem hyp_VectorIntegerForms_forms : ∀ x ∈ [(0x0A, 6, 0), (0x20, 6, 0), (0x21, 6, 0), (0x12, 6, 8), (0x14, 6, 4), (0x15, 6, 20), (0x11, 6, 24),
    (0x1B, 4, 0)], let n := ((veSt x.1 x.2.1 x.2.2).fab 0).node 0 0
    (n.opc, n.ty, n.fn) = x := by decide
theorem hyp_VectorFloatAndLaneForms : ∃ g y, (veSt 0x04 1 0).firing 0 0 0 0x04 g y ∧ (((veSt 0x04 1 0).fab 0).node 0 0).operands y = [aTok, bTok, cTok] ∧
    vecArity 0x04 0 = 3 := by
  unfold State.firing; exact ⟨_, _, ⟨by decide, by decide, by decide, by decide, rfl, rfl⟩, by decide, by decide⟩
def veSt2 (opc ty fn : Nat) : State := nodeSt 0 0 { veNode opc ty fn with selC := 0 } {} [(0, [aTok]), (1, [bTok])]
def veSt1 (opc ty fn : Nat) : State := nodeSt 0 0 { veNode opc ty fn with selC := 0, selB := 0 } {} [(0, [aTok])]
theorem hyp_VectorFloatAndLaneForms_arities : (∀ o ∈ [0x01, 0x02, 0x03, 0x28, 0x29, 0x2A], vecArity o 0 = 2) ∧ vecArity 0x1E 0 = 2 ∧
    vecArity 0x1E 1 = 1 ∧ (∀ o ∈ [0x16, 0x17, 0x18, 0x19, 0x1C, 0x1D, 0x1F, 0x2B, 0x30], vecArity o 0 = 1) := by decide
theorem hyp_VectorFloatAndLaneForms_two : ∃ g y, (veSt2 0x28 6 0).firing 0 0 0 0x28 g y ∧ (((veSt2 0x28 6 0).fab 0).node 0 0).operands y = [aTok, bTok] := by
  unfold State.firing; exact ⟨_, _, ⟨by decide, by decide, by decide, by decide, rfl, rfl⟩, by decide⟩
theorem hyp_VectorFloatAndLaneForms_one : ∃ g y, (veSt1 0x1C 6 0).firing 0 0 0 0x1C g y ∧ (((veSt1 0x1C 6 0).fab 0).node 0 0).operands y = [aTok] := by
  unfold State.firing; exact ⟨_, _, ⟨by decide, by decide, by decide, by decide, rfl, rfl⟩, by decide⟩

/-- A node with one input and one output. -/
def oneIn (opc fn : Nat) : Node := { opc := opc, fn := fn, ty := 6, selA := 1, omask := 1#4 }
def twoIn (opc fn : Nat) : Node := { oneIn opc fn with selB := 2 }
def fires (s : State) (e k opc : Nat) : Prop := s.mayFire 0 e k opc
theorem hyp_StreamNodes : let d := dataTok 0#16 false fun _ => 0#32
    fires (nodeSt 0 0 (oneIn 0x2C 0) {} [(0, [aTok])]) 0 0 0x2C ∧ ((nodeSt 0 0 (oneIn 0x2C 0) {} [(0, [d])]).fab 0).look 0 0 0 = .tok d ∧
    ((nodeSt 0 0 (oneIn 0x2C 1) {} [(0, [aTok])]).fab 0).look 0 0 0 = .tok aTok ∧ ([0#32] ++ aTok.values).length < 16 ∧
    ((nodeSt 0 0 (oneIn 0x2C 1) {} [(0, [aTok])]).fab 0).roomAll 0 0 (outsOf 1#4) 2 = none := by
  unfold fires State.mayFire; exact ⟨by decide, rfl, rfl, by decide, by decide⟩
def expdCar : Carry := { vals := [5#32, 6#32, 7#32, 8#32, 9#32, 10#32, 11#32, 12#32], flags := List.replicate 8 (true, false) }
theorem hyp_StreamNodes_two : fires (nodeSt 0 0 (twoIn 0x2D 0) { car := expdCar } [(1, [bTok])]) 0 0 0x2D ∧
    ((nodeSt 0 0 (twoIn 0x2D 0) { car := expdCar } [(1, [bTok])]).fab 0).look 0 0 1 = .tok bTok ∧ bTok.count = expdCar.vals.length ∧
    (let s := nodeSt 0 0 (twoIn 0x2D 0) {} [(0, [aTok]), (1, [bTok])]
     fires s 0 0 0x2D ∧ (s.fab 0).look 0 0 0 = .tok aTok ∧ (s.fab 0).look 0 0 1 = .tok bTok ∧ 0 < bTok.count - 0 ∧ bTok.count - 0 = (aTok.values.drop 0).length) ∧
    (let s := nodeSt 0 0 (twoIn 0x2D 0) { car := { vals := expdCar.vals.take 7 } } [(0, [aTok]), (1, [bTok])]
     fires s 0 0 0x2D ∧ (s.fab 0).look 0 0 0 = .tok aTok ∧ bTok.count - (expdCar.vals.take 7).length < (aTok.values.drop 0).length) ∧
    fires (nodeSt 0 0 (twoIn 0x2E 0) {} [(0, [aTok])]) 0 0 0x2E ∧ ((nodeSt 0 0 (twoIn 0x2E 0) {} [(0, [aTok])]).fab 0).head 0 0 1 = none ∧
    fires (nodeSt 0 0 (twoIn 0x2F 0) {} [(0, [aTok]), (1, [bTok])]) 0 0 0x2F ∧
    ((nodeSt 0 0 (twoIn 0x2F 0) {} [(0, [aTok]), (1, [bTok])]).fab 0).depth 0 0 0 = 0 ∧ bTok.live 0 = false ∧ cTok.live 1 = true := by
  unfold fires State.mayFire; exact ⟨by decide, rfl, by decide, ⟨by decide, rfl, rfl, by decide, by decide⟩, ⟨by decide, rfl, by decide⟩, by decide, by decide, by decide, by decide, by decide, by decide⟩
theorem hyp_StreamNodes_delay : fires (nodeSt 0 0 (oneIn 0x31 15) { car := { toks := List.replicate 16 cTok } } [(0, [aTok])]) 0 0 0x31 ∧
    (List.replicate 16 cTok).length = 15 % 16 + 1 ∧ aTok.isData = true ∧
    ((nodeSt 0 0 (oneIn 0x31 15) { car := { toks := List.replicate 16 cTok } } [(0, [aTok])]).fab 0).feedsBack 0 0 = false := by
  unfold fires State.mayFire; decide
/-- A DLY whose output is its own input. -/
def loopSt : State := { State.reset with fabs := [(0, {
  st := .running
  nodes := [(0, oneIn 0x31 1)]
  chans := [{ outCh 0 0 0 with celem := 0, cslot := 0, cport := 0 }] })] }
theorem hyp_StreamNodes_loop : fires loopSt 0 0 0x31 ∧ (loopSt.fab 0).feedsBack 0 0 = true ∧ ((loopSt.fab 0).unit 0 0).car.n < 1 % 16 + 1 ∧
    (((loopSt.fab 0).unit 0 0).port 0).done = false ∧ (loopSt.fab 0).roomAll 0 0 (outsOf 1#4) 1 = none := by
  unfold fires State.mayFire; decide
/-- A SRC that is a leaf of the counter 0x40, with a permit that is the last. -/
def srcSt (n : Nat) : State := { State.reset with fabs := [(0, {
  st := .running
  nodes := [(0, { opc := 0x32, ty := 6, param := 9, omask := 1#4 }), (0x40 * 16, { opc := 0x38 })]
  units := [(0, { permits := [true], car := { n := n } })]
  chans := [outCh 0 0 0] })] }
theorem hyp_StreamNodes_sources : fires (srcSt 0) 0 0 0x32 ∧ ((srcSt 0).fab 0).underCnt 0 0 = true ∧ ((srcSt 0).fab 0).roomAll 0 0 (outsOf 1#4) 1 = none ∧
    (((srcSt 0).fab 0).unit 0 0).injectDue = false ∧ fires (srcSt 1) 0 0 0x32 ∧ ((srcSt 1).fab 0).underCnt 0 0 = true ∧
    (((srcSt 1).fab 0).unit 0 0).permits.headD false = true ∧ ((srcSt 1).fab 0).doneHeld 0 0 = false ∧
    ((srcSt 1).fab 0).roomAll 0 0 (outsOf 1#4) 1 = none ∧
    fires (nodeSt 0 0 { oneIn 0x33 0 with omask := 0#4 } {} [(0, [aTok])]) 0 0 0x33 ∧ ({ oneIn 0x33 0 with omask := 0#4 } : Node).ports = [0] := by
  unfold fires State.mayFire; decide
def ordTok : Tok := { kind := 6, taint := true }
theorem hyp_StreamNodes_order : let s := nodeSt 8 1 (twoIn 0x49 0) {} [(0, [ordTok]), (1, [{ kind := 6 }])]
    fires s 8 1 0x49 ∧ (∀ p ∈ (twoIn 0x49 0).ports, ∃ a, (s.fab 0).head 8 1 p = some a ∧ a.kind = 6) ∧
    (s.fab 0).roomAll 8 1 (outsOf 1#4) 1 = none := by
  unfold fires State.mayFire
  refine ⟨by decide, ?_, by decide⟩
  intro p hp
  have h : p = 0 ∨ p = 1 := by simpa using (show p ∈ [0, 1] from hp)
  rcases h with rfl | rfl
  · exact ⟨ordTok, by decide, by decide⟩
  · exact ⟨{ kind := 6 }, by decide, by decide⟩
def genUnit (space : Nat) : Unit_ := { gen := { busy := true, space := space, fmt := 1, ndim := 1, base := 64, ext := [20], str := [4], col := 16 } }
theorem hyp_StreamNodes_agen : let s := nodeSt 0x38 0 { opc := 0x40, ty := 1, omask := 1#4 } (genUnit 1) []
    fires s 0x38 0 0x40 ∧ isAg 0x38 = true ∧ (s.fab 0).head 0x38 0 1 = none ∧ ((s.fab 0).unit 0x38 0).gen = (genUnit 1).gen ∧
    (s.fab 0).roomAll 0x38 0 (outsOf 1#4) 1 = none := by unfold fires State.mayFire; decide

/-! ### Witnesses: memory and matrix nodes -/

/-- Two addresses of the scratchpad, 64 and 68, as FP32; the data and the version that go with them. -/
def adr : Tok := addrTok 64 4 (lane3 0 0 false false 1 1) (firstLanes 2) true
def dat : Tok := dataTok (firstLanes 2) false fun i => BitVec.ofNat 32 (i + 0x01020304)
def vsn : Tok := dataTok 1#16 false fun _ => 3#32
def memNode (opc fn : Nat) (b c : Nat) : Node := { opc := opc, fn := fn, ty := 1, selA := 1, selB := b, selC := c }
def memSt (n : Node) (u : Unit_) (feeds : List (Nat × List Tok)) : State := nodeSt 15 3 n u feeds
def adrKeys : List (List Nat) := [keyRange (scrKey + 64) 4, keyRange (scrKey + 68) 4]


theorem hyp_MemoryNodes_room : (memSt (memNode 0x41 0 0 0) {} [(0, [adr])]).unitRoom 0 15 3 ∧
    (memSt (memNode 0x42 0 2 0) {} [(0, [adr]), (1, [dat])]).unitRoom 0 15 3 := by
  unfold State.unitRoom
  exact ⟨⟨by decide, by decide, ⟨_, rfl⟩, by decide, by decide⟩, ⟨by decide, by decide, ⟨_, rfl⟩, by decide, by decide⟩⟩
theorem hyp_MemoryNodes_load : let s := memSt (memNode 0x41 0 0 0) {} [(0, [adr])]
    s.mayFire 0 15 3 0x41 ∧ (memSt (memNode 0x43 0 0 0) {} [(0, [adr])]).mayFire 0 15 3 0x43 ∧ (s.fab 0).look 15 3 0 = .tok adr ∧
    adr.isData = true ∧ adr.ring = false ∧ s.lanesBad 0 adr.space adr.fmt 1 (adr.laneAddrs adr.pred) = false ∧
    s.unitReaches 0 15 3 1 0 4 (elemAddrs 1 4 (adr.laneAddrs adr.pred)) 4 (adr.laneAddrs adr.pred) adrKeys none := by
  unfold State.mayFire State.unitReaches
  exact ⟨by decide, by decide, rfl, by decide, by decide, by decide, rfl, by decide⟩
theorem hyp_MemoryNodes_store : let s := memSt (memNode 0x42 0 2 0) {} [(0, [adr]), (1, [dat])]
    s.mayFire 0 15 3 0x42 ∧ (memSt (memNode 0x42 1 2 0) {} [(0, [adr]), (1, [dat])]).mayFire 0 15 3 0x42 ∧
    (memSt (memNode 0x47 0 2 0) {} [(0, [adr]), (1, [dat])]).mayFire 0 15 3 0x47 ∧
    (memSt (memNode 0x48 0 2 0) {} [(0, [adr]), (1, [dat])]).mayFire 0 15 3 0x48 ∧
    (s.fab 0).heads 15 3 [0, 1] = .toks [(0, adr), (1, dat)] ∧ adr.space ≠ 2 ∧
    s.unitReaches 0 15 3 1 1 4 (elemAddrs 1 4 (adr.laneAddrs (adr.pred &&& dat.pred))) 4 (adr.laneAddrs (adr.pred &&& dat.pred)) adrKeys none ∧
    (∀ x ∈ adrKeys.flatten, s.isFull x = false) ∧ (s.logBytes 15 [] (storeBytes (memNode 0x42 1 2 0) 1 dat adrKeys (adr.laneAddrs adr.pred))).length ≤ 256 := by
  unfold State.mayFire State.unitReaches
  exact ⟨by decide, by decide, by decide, by decide, rfl, by decide, ⟨rfl, by decide⟩, by decide, by decide⟩
def fullSt : State := { memSt (memNode 0x46 1 0 0) {} [(0, [adr])] with mem := { full := [((scrKey + 64) / 16, true)] } }
theorem hyp_MemoryNodes_full : fullSt.mayFire 0 15 3 0x46 ∧ (fullSt.fab 0).look 15 3 0 = .tok adr ∧ (∀ x ∈ adrKeys.flatten, fullSt.isFull x = true) ∧ adr.ring = false ∧
    fullSt.found = .good ∧ fullSt.readFree { by_ := .unit 0 15 3, path := 1, kind := .read, va := 0, rd := adrKeys.flatten, applied := true } = true := by
  unfold State.mayFire; exact ⟨by decide, rfl, by decide, by decide, by decide, by decide⟩
theorem hyp_MemoryNodes_versions : let s := memSt (memNode 0x44 2 2 0) {} [(0, [adr]), (1, [vsn])]
    s.mayFire 0 15 3 0x44 ∧ (s.fab 0).heads 15 3 [0, 1] = .toks [(0, adr), (1, vsn)] ∧ s.wordBad 0 4 adr vsn = false ∧
    adr.addr = 64 ∧ s.unitReaches 0 15 3 1 0 4 [64] 4 [(0, 64)] [keyRange (scrKey + 64) 4] none ∧ ((s.fab 0).unit 15 3).pend = [] ∧
    (memSt (memNode 0x45 2 2 3) {} [(0, [adr]), (1, [dat]), (2, [vsn])]).mayFire 0 15 3 0x45 ∧
    ((memSt (memNode 0x45 2 2 3) {} [(0, [adr]), (1, [dat]), (2, [vsn])]).fab 0).heads 15 3 [0, 1, 2] = .toks [(0, adr), (1, dat), (2, vsn)] ∧
    (memSt (memNode 0x4D 0 2 0) {} [(0, [adr]), (1, [vsn])]).mayFire 0 15 3 0x4D ∧
    s.unitReaches 0 15 3 1 1 1 [64] 1 [] [keyRange (scrKey + 64) 1] none ∧ s.wordBad 0 1 adr vsn = false := by
  unfold State.mayFire State.unitReaches
  exact ⟨by decide, rfl, by decide, by decide, ⟨rfl, by decide⟩, by decide, by decide, rfl, by decide, ⟨rfl, by decide⟩, by decide⟩
def idxTok : Tok := dataTok 1#16 false fun _ => 1#32
def scatUnit : Unit_ := { gen := { space := 1, fmt := 1, ndim := 2, base := 0, ext := [16, 2], str := [4, 64] }, car := { toks := [idxTok] } }
theorem hyp_MemoryNodes_scatter : let s := memSt (memNode 0x4B 0 2 0) scatUnit [(1, [dat])]
    s.mayFire 0 15 3 0x4B ∧ ((s.fab 0).unit 15 3).car.toks = [idxTok] ∧ (s.fab 0).look 15 3 1 = .tok dat ∧
    (1 : Int) = (idxTok.lane (nth 0 ((List.range 16).filter idxTok.live) 0)).toInt ∧ (1 : Int) < (nth 0 scatUnit.gen.ext 1 : Nat) ∧
    s.unitReaches 0 15 3 1 1 4 (elemAddrs 1 4 [(0, 64), (1, 68)]) 4 [(0, 64), (1, 68)] adrKeys none ∧
    addInt 0 (1 * nth 0 scatUnit.gen.str 1 + 0) = 64 ∧ s.lanesBad 0 1 1 1 [(0, 64), (1, 68)] = false := by
  unfold State.mayFire State.unitReaches
  exact ⟨by decide, by decide, rfl, by decide, by decide, ⟨rfl, by decide⟩, by decide, by decide⟩
theorem hyp_MemoryNodes_port : let s := memSt (memNode 0x4C 0 0 0) {} [(0, [dat])]
    s.mayFire 0 15 3 0x4C ∧ (memSt (memNode 0x4C 1 0 0) {} [(0, [dat])]).mayFire 0 15 3 0x4C ∧ (s.fab 0).look 15 3 0 = .tok dat ∧
    s.spKey (rportCore 0 (memNode 0x4C 0 0 0)) 0 = some scrKey ∧ s.spKey (rportCore 0 (memNode 0x4C 0 0 0)) 63 = some (scrKey + 63) ∧
    s.bankBusy (keyRange scrKey 64) = false ∧ s.watchesFor (s.fab 0).task (watchAddr 1 0) 64 false 4 = [] ∧
    (∀ i < 16, s.watchesFor (s.fab 0).task (watchAddr 1 (0 + 4 * i)) 4 true 4 = []) := by
  unfold State.mayFire
  exact ⟨by decide, by decide, rfl, by decide, by decide, by decide, by decide, by decide⟩

/-- The matrix element 0x11 with one node in slot 3. -/
def matSt (n : Node) (u : Unit_) (feeds : List (Nat × List Tok)) : State := nodeSt 0x11 3 n u feeds
def stop0 : Tok := { kind := 8 }
def readyLatch : Latch := { st := 2, cols := List.replicate 64 (List.replicate 64 1#8) }
def matNode (opc fn : Nat) : Node := { opc := opc, fn := fn, ty := 4, selA := 1, selB := 2, selC := 3, omask := 1#4 }
theorem hyp_MatrixNodes_row : let s := matSt (matNode 0x51 0) { mat := { l0 := readyLatch, p := 31 } } [(0, [adr])]
    isMn 0x11 = true ∧ s.mayFire 0 0x11 3 0x51 ∧ (s.fab 0).look 0x11 0 0 = .tok adr ∧ ((s.fab 0).mat 0x11).current.st = 2 ∧
    ((s.fab 0).mat 0x11).p < 32 ∧ adr.space < 3 := by
  unfold State.mayFire; exact ⟨by decide, by decide, rfl, by decide, by decide, by decide⟩
theorem hyp_MatrixNodes_span : let s := matSt (matNode 0x51 0) { mat := { l0 := readyLatch, p := 31 } } [(0, [adr])]
    (matNode 0x51 0).ranges adr.addr = [(64, 64)] ∧ s.spans 0 0x11 1 [(64, 64)] = .keys [keyRange (scrKey + 64) 64] none ∧
    (∀ x ∈ [keyRange (scrKey + 64) 64].flatten, x < 2 ^ 60) ∧ s.mem.stale = [] ∧
    s.bankBusy [keyRange (scrKey + 64) 64].flatten = false ∧ s.found = .good ∧
    s.readFree { by_ := .unit 0 0x11 0, path := 3, kind := .read, rd := [keyRange (scrKey + 64) 64].flatten } = true :=
  ⟨by decide, by rfl, by decide, rfl, by decide, by decide, by decide⟩
theorem hyp_MatrixNodes_gather : let s := matSt (matNode 0x4A 0) { mat := { gather := List.replicate 31 0 }, gen := scatUnit.gen } [(2, [idxTok])]
    s.mayFire 0 0x11 3 0x4A ∧ (s.fab 0).look 0x11 0 2 = .tok idxTok ∧ ((s.fab 0).mat 0x11).gatherFull = false ∧
    ((s.fab 0).mat 0x11).gather.length + 1 ≤ 32 := by
  unfold State.mayFire; exact ⟨by decide, rfl, by decide, by decide⟩
def trigSt (opc fn : Nat) : State := matSt { matNode opc fn with ext := 2 ^ 23 + 1, param := 0 } { mat := { acc := [(0, 5#32), (64, 6#32)], l0 := readyLatch } }
  [(0, [stop0])]
/-- The outputs of MOUT need room for four tokens for each row. -/
theorem hyp_MatrixNodes_stops : (trigSt 0x52 0).mayFire 0 0x11 3 0x52 ∧ (trigSt 0x53 0).mayFire 0 0x11 3 0x53 ∧ (trigSt 0x54 0).mayFire 0 0x11 3 0x54 ∧
    stop0.isStop = true ∧ ((trigSt 0x52 0).fab 0).nextTrig 0x11 stop0.level = some 3 ∧ ((trigSt 0x53 0).fab 0).nextTrig 0x11 stop0.level = some 3 ∧
    ((trigSt 0x54 0).fab 0).nextTrig 0x11 stop0.level = some 3 ∧ ((trigSt 0x53 0).fab 0).roomAll 0x11 0 (outsOf 1#4) (4 * (0 % 32 + 1)) = none := by
  unfold State.mayFire; decide
theorem hyp_MatrixNodes_look : ((trigSt 0x52 0).fab 0).look 0x11 0 0 = .tok stop0 := rfl
def Reach.isKeys : Reach → Bool
  | .keys _ _ => true
  | _ => false
def mldbSt : State := matSt (matNode 0x50 0) {} [(1, [adr])]
theorem hyp_MatrixNodes_load : mldbSt.mayFire 0 0x11 3 0x50 ∧ ((mldbSt.fab 0).mat 0x11).inactive.st = 0 ∧ adr.addr % 16 = 0 := by
  unfold State.mayFire; decide
theorem hyp_MatrixNodes_load_look : (mldbSt.fab 0).look 0x11 0 1 = .tok adr := rfl
theorem hyp_MatrixNodes_load_span : Reach.isKeys (mldbSt.spans 0 0x11 adr.space (colRanges (matNode 0x50 0) adr.addr adr.stride)) = true := by
  decide +kernel
def loadedReq : Req := { by_ := .unit 0 0x11 0, path := 3, kind := .read, applied := true, bytes := List.replicate 4096 7#8 }
def loadingSt : State := { matSt (matNode 0x50 0) { mat := { l0 := { st := 1, req := some 0 } } } [] with
  mem := { reqs := [(0, some loadedReq)], nextReq := 1 } }
theorem hyp_MatrixNodes_loaded : (loadingSt.fab 0).st = .running ∧ ((loadingSt.fab 0).mat 0x11).l0.st = 1 ∧
    ((loadingSt.fab 0).mat 0x11).l0.req = some 0 ∧ ((loadingSt.fab 0).mat 0x11).l1.req = none ∧ ((loadingSt.fab 0).mat 0x11).l1.st ≠ 1 ∧
    ((loadingSt.fab 0).unit 0x11 0).loadAt ≤ loadingSt.clk.fab ∧ loadedReq.applied = true ∧ loadedReq.bad = 0 := by decide
theorem hyp_MatrixNodes_loaded_req : loadingSt.req 0 = some loadedReq := rfl
theorem hyp_MatrixNodes_turn : (List.range 4).find? (fun j => (mnTry mldbSt 0 0x11 (mldbSt.fab 0) j).fires) = some 3 := by decide +kernel

/-! ### Witnesses: fibre and integrator nodes -/

/-- A fibre unit with one operation; ports a and b at depth 2. -/
def fuNode (opc fn b c : Nat) : Node :=
  { opc := opc, fn := fn, ty := 6, selA := 1, selB := b, selC := c, omask := 7#4, param := 20, ext := 0x222 }
def fuSt (n : Node) (car : Carry) (feeds : List (Nat × List Tok)) : State := nodeSt 0x33 0 n { car := car } feeds
/-- Tokens of coordinates 1, 4, 7 and of 4, 5, 7. -/
def coordA : Tok := packed [1#32, 4#32, 7#32] true
def coordB : Tok := packed [4#32, 5#32, 7#32] false
theorem hyp_FibreNodes_scan : let s := fuSt (fuNode 0x58 0 0 0) {} [(0, [coordA])]
    s.mayFire 0 0x33 0 0x58 ∧ (s.fab 0).look 0x33 0 0 = .tok coordA ∧ (fuSt (fuNode 0x58 0 0 0) {} [(0, [stop0])]).mayFire 0 0x33 0 0x58 ∧
    ((fuSt (fuNode 0x58 0 0 0) {} [(0, [stop0])]).fab 0).look 0x33 0 0 = .tok stop0 ∧ coordA.pred ≠ 0#16 ∧ (16 < 20 ∧ 20 ≤ 32) ∧ 2 + 1 = coordA.count := by
  unfold State.mayFire; exact ⟨by decide, rfl, by decide, rfl, by decide, by decide, by decide⟩
/-- The first fibre of the compressed scan has two coordinates, of which none has been taken. -/
theorem hyp_FibreNodes_packed : let s := fuSt (fuNode 0x58 1 2 3) {} [(0, [packed [0#32, 2#32] false]), (1, [packed [5#32, 6#32] false]), (2, [packed [2#32, 4#32] false])]
    s.mayFire 0 0x33 0 0x58 ∧ (s.fab 0).heads 0x33 0 [0, 2] = .toks [(0, packed [0#32, 2#32] false), (2, packed [2#32, 4#32] false)] ∧
    (s.fab 0).look 0x33 0 1 = .tok (packed [5#32, 6#32] false) ∧ (0 : Int) < (2#32).toInt - (0#32).toInt ∧
    (packed [5#32, 6#32] false).values.length ≤ min (2 - 0) (16 - 0) := by
  unfold State.mayFire; exact ⟨by decide, rfl, rfl, by decide, by decide⟩
theorem hyp_FibreNodes_singleton : let s := fuSt (fuNode 0x58 2 2 0) {} [(0, [aTok]), (1, [bTok])]
    s.mayFire 0 0x33 0 0x58 ∧ (s.fab 0).heads 0x33 0 [0, 1] = .toks [(0, aTok), (1, bTok)] ∧ aTok.isData = true := by
  unfold State.mayFire; exact ⟨by decide, rfl, by decide⟩
theorem hyp_FibreNodes_merge : let s := fuSt (fuNode 0x59 0 2 0) {} [(0, [coordA]), (1, [coordB])]
    s.mayFire 0 0x33 0 0x59 ∧ (fuSt (fuNode 0x5A 0 2 0) {} [(0, [coordA]), (1, [coordB])]).mayFire 0 0x33 0 0x5A ∧
    (s.fab 0).look 0x33 0 0 = .tok coordA ∧ (s.fab 0).look 0x33 0 1 = .tok coordB ∧ rising none coordA.values = true ∧ rising none coordB.values = true ∧
    coordA.values.getLast? = some 7#32 ∧ coordB.values.getLast? = some 7#32 ∧ coordA.count + coordB.count ≤ 16 := by
  unfold State.mayFire; exact ⟨by decide, by decide, rfl, rfl, by decide, by decide, by decide, by decide, by decide⟩
def unionCar : Carry := { toks := [dataTok 3#16 false fun _ => 4#32] }
theorem hyp_FibreNodes_union : let s := fuSt (fuNode 0x5A 0 2 0) unionCar [(0, [stop0]), (1, [stop0])]
    s.mayFire 0 0x33 0 0x5A ∧ (s.fab 0).look 0x33 0 0 = .tok stop0 ∧ (s.fab 0).look 0x33 0 1 = .tok stop0 ∧ stop0.kind = 8 ∧ unionCar.toks ≠ [] := by
  unfold State.mayFire; exact ⟨by decide, rfl, rfl, by decide, by decide⟩
theorem hyp_FibreNodes_rep : let s := fuSt (fuNode 0x5B 0 2 0) { n := 2 } [(0, [coordA]), (1, [coordB])]
    s.mayFire 0 0x33 0 0x5B ∧ coordA.values.drop 2 = [7#32] ∧ coordA.values.drop 1 = [4#32, 7#32] ∧ (s.fab 0).look 0x33 0 1 = .tok coordB := by
  unfold State.mayFire; exact ⟨by decide, by decide, by decide, rfl⟩
theorem hyp_FibreNodes_red : let s := fuSt (fuNode 0x5C 0 0 0) {} [(0, [coordA])]
    s.mayFire 0 0x33 0 0x5C ∧ (s.fab 0).look 0x33 0 0 = .tok coordA ∧ coordA.pred ≠ 0#16 ∧ (List.replicate 14 0#32).length < 15 ∧
    (s.fab 0).roomAll 0x33 0 (outsOf 7#4) 0 = none ∧ ((fuSt { fuNode 0x5C 0 0 0 with ext := 0 } {} [(0, [{ kind := 1 }])]).fab 0).look 0x33 0 0 = .tok { kind := 1 } := by
  unfold State.mayFire; exact ⟨by decide, rfl, by decide, by decide, by decide, rfl⟩
theorem hyp_FibreNodes_drop : let s := fuSt (fuNode 0x5D 0 0 0) {} [(0, [dataTok 0#16 false fun _ => 0#32])]
    s.mayFire 0 0x33 0 0x5D ∧ (s.fab 0).look 0x33 0 0 = .tok (dataTok 0#16 false fun _ => 0#32) ∧ (7#4).getLsbD 0 = true ∧
    ((fuSt (fuNode 0x5D 0 0 0) { on := true } [(0, [stop0])]).fab 0).look 0x33 0 0 = .tok stop0 := by
  unfold State.mayFire; exact ⟨by decide, rfl, by decide, rfl⟩

/-! ### Witnesses: integrators and coupling nodes -/

def ieExt (imode qb sdy1 sdy2 sdx : Nat) : Nat := imode + 2 ^ 8 * qb + 2 ^ 22 * sdy1 + 2 ^ 32 * sdy2 + 2 ^ 42 * sdx
def ieCell (opc x : Nat) : Node := { opc := opc, ext := x }
/-- Three integrators of element 0x20: one of constant sources, one that takes the first's increment and a lane of port a,
one that takes the second's increment of the step before; port a holds `t`. -/
def ieSt (opc : Nat) (imode : Nat) (t : Tok) (n : Nat) : State := { State.reset with fabs := [(0, {
  st := .running
  nodes := [(0x200, { ieCell opc (ieExt 1 4 3 0 1) with omask := 1#4 }), (0x201, ieCell opc (ieExt imode 5 0x100 0 0x082)), (0x202, ieCell opc (ieExt 1 3 0x181 0x201 0x301))]
  units := [(0x200, { ints := [{ y := 5, w := 9, dl := 1 }, { y := 7, w := 20, dl := -2 }, { y := -3, w := 4 }], stepNo := n })]
  chans := [inCh 0x20 0 0 [t], outCh 0x20 0 0] })] }
def increments : Tok := { Tok.ofInts [1, -2, 3, 4, -5, 6, 7, -8] with taint := true }
abbrev fwd (i : Nat) : Integ := nth {} (((ieSt 0x61 2 increments 4).fab 0).unit 0x20 0).ints i
theorem hyp_IntegratorNodes_fires : let f := (ieSt 0x61 2 increments 4).fab 0
    isIe 0x20 = true ∧ f.firstSlot 0x20 = some 0 ∧ (ieSt 0x61 2 increments 4).mayFire 0 0x20 0 0x61 ∧ f.roomAll 0x20 0 (f.outPorts 0x20 0) 1 = none ∧
    f.inPorts 0x20 0 = [0] ∧ f.head 0x20 0 0 = some increments ∧ increments.isData = true ∧ f.badHead 0x20 0 0 increments = none ∧
    f.sampleHeld 0x20 = false ∧ f.outPorts 0x20 0 = [0] ∧ (∀ c ∈ f.chans, ¬(c.pelem = 0x20 ∧ c.celem = 0x20)) := by
  unfold State.mayFire; decide
theorem hyp_IntegratorNodes_reverse : (ieSt 0x62 1 increments 4).mayFire 0 0x20 0 0x62 ∧ (ieSt 0x62 1 increments 0).mayFire 0 0x20 0 0x62 ∧
    ((ieSt 0x62 1 increments 0).fab 0).firstSlot 0x20 = some 0 ∧ (((ieSt 0x62 1 increments 0).fab 0).unit 0x20 0).stepNo = 0 := by
  unfold State.mayFire; decide

def tksIe : List (Nat × Tok) := [(0, increments)]
def tail16 (l : List Int) : List Int := l ++ List.replicate (16 - l.length) 0
abbrev cell (opc mode i : Nat) : Node := ((ieSt opc mode increments 4).fab 0).node 0x20 i
/-- What R165 asks of the element's step: integrand 8, then 8 from 7 + 1, then -6 from -3 - (-2) * (-1) - 1; every dz 1 but
the trapezoidal one, (20 + 15 * 3) / 64 = 1. -/
theorem hyp_IntegratorNodes_forward :
    let y1 : List Int := tail16 [8, 8, -6]
    let dz : List Int := tail16 [1, 1, 1]
    let dl := (List.range 16).map fun i => (fwd i).dl
    let S (i : Nat) : Int := ((fwd i).w : Int) + (if (cell 0x61 2 i).imode = 2 then (fwd i).y + nth 0 y1 i else nth 0 y1 i) * srcVal tksIe dz dl (cell 0x61 2 i).sdx
    let q (i : Nat) : Int := 2 ^ (if (cell 0x61 2 i).imode = 2 then (cell 0x61 2 i).qb + 1 else (cell 0x61 2 i).qb)
    (∀ i < 16, (cell 0x61 2 i).stepping = true →
      nth 0 y1 i = (fwd i).y + srcVal tksIe dz dl (cell 0x61 2 i).sdy1 * 2 ^ (cell 0x61 2 i).ky1 + srcVal tksIe dz dl (cell 0x61 2 i).sdy2 * 2 ^ (cell 0x61 2 i).ky2 ∧
      -2 ^ 47 ≤ nth 0 y1 i ∧ nth 0 y1 i < 2 ^ 47 ∧ nth 0 dz i = S i / q i ∧ -8 ≤ nth 0 dz i ∧ nth 0 dz i ≤ 7 ∧
      ∀ j ∈ linked 2 [(cell 0x61 2 i).sdy1, (cell 0x61 2 i).sdy2, (cell 0x61 2 i).sdx], id j < id i) ∧
    (∀ i < 16, (cell 0x61 2 i).stepping = false → nth 0 dz i = 0) := by decide
abbrev bwd (i : Nat) : Integ := nth {} (((ieSt 0x62 1 increments 4).fab 0).unit 0x20 0).ints i
/-- What R170 asks of the reverse step. -/
theorem hyp_IntegratorNodes_backward :
    let rz : List Int := tail16 [0, 1, 0]
    let wo : List Int := tail16 [4, 31, 1]
    let y1 : List Int := tail16 [2, 7, -2]
    let lb : List Int := tail16 []
    (∀ op < 48, ∀ j ∈ revNeeds (cell 0x62 1 (op % 16)) op, j % 16 * 3 + j / 16 < op % 16 * 3 + op / 16) ∧
    (∀ i < 16, (cell 0x62 1 i).stepping = true →
      let b : Int := 2 ^ (cell 0x62 1 i).qb
      let p := (bwd i).y * srcVal tksIe rz lb (cell 0x62 1 i).sdx
      let w := nth 0 y1 i * srcVal tksIe lb lb (cell 0x62 1 i).sdx
      nth 0 wo i = ((bwd i).w - p) % b ∧ nth 0 rz i = (p + nth 0 wo i - (bwd i).w) / b ∧ -8 ≤ nth 0 rz i ∧ nth 0 rz i ≤ 7 ∧
      nth 0 y1 i = (bwd i).y - srcVal tksIe rz lb (cell 0x62 1 i).sdy1 * 2 ^ (cell 0x62 1 i).ky1 - srcVal tksIe rz lb (cell 0x62 1 i).sdy2 * 2 ^ (cell 0x62 1 i).ky2 ∧
      nth 0 lb i = if 4 = 1 ∨ ¬(selKind (cell 0x62 1 i).sdx = 0 ∨ selKind (cell 0x62 1 i).sdx = 2) then 0
        else (w + (nth 0 wo i - w) % b - nth 0 wo i) / b) ∧
    (∀ i < 16, (cell 0x62 1 i).stepping = false → nth 0 rz i = 0 ∧ nth 0 lb i = 0) := by decide
/-- The coupling nodes of ve 0; its ie is 0x20. -/
def codecNode (opc fn param : Nat) : Node := { opc := opc, ty := 6, fn := fn, selA := 1, omask := 1#4, param := param }
def ildSt : State := { State.reset with fabs := [(0, {
  st := .running
  nodes := [(0, { codecNode 0x60 0 0 with ty := 1 }), (0x200, ieCell 0x61 (2 ^ 2 * 4 + ieExt 1 8 3 0 1 + 2 ^ 52))]
  chans := [inCh 0 0 0 [dataTok 0x0003#16 false fun i => if i = 0 then 0x3F800000#32 else 0xC0200000#32], outCh 0 0 0] })] }
theorem hyp_IntegratorNodes_ild : (∃ g y, ildSt.firing 0 0 0 0x60 g y) ∧ ildY 1 (((ildSt.fab 0).node 0x20 0).fy) 0x3F800000#32 = .ok 16 ∧
    ildY 1 (((ildSt.fab 0).node 0x20 1).fy) 0xC0200000#32 = .ok (-2) ∧ ((ildSt.fab 0).unit 0x20 0).frozen = false := by
  unfold State.firing; exact ⟨⟨_, _, by decide, by decide, by decide, by decide, rfl, rfl⟩, by decide, by decide, by decide⟩
def ismpSt (fn : Nat) : State := { State.reset with fabs := [(0, {
  st := .running
  nodes := [(0, { opc := 0x63, ty := 6, fn := fn, omask := 1#4 }), (0x200, ieCell 0x61 (ieExt 1 8 3 0 1))]
  units := [(0, { car := { toks2 := [dataTok 0xFFFF#16 true fun i => BitVec.ofNat 32 i] } })]
  chans := [outCh 0 0 0] })] }
theorem hyp_IntegratorNodes_ismp : ∀ fn ∈ [0, 2], let f := (ismpSt fn).fab 0
    (ismpSt fn).mayFire 0 0 0 0x63 ∧ f.inPorts 0 0 = [] ∧ f.roomAll 0 0 (outsOf 1#4) 1 = none ∧ f.outPorts 0 0 = outsOf 1#4 ∧
    (f.unit 0 0).car.toks2.length = 1 := by unfold State.mayFire; decide
def codecSt (n : Node) : State := nodeSt 0 0 n { res := [(0, [1, 2 ^ 31, 5])] } [(0, [dataTok 0x0007#16 false fun i => BitVec.ofNat 32 (i + 1)])]
theorem hyp_IntegratorNodes_ienc : (∃ g y, (codecSt (codecNode 0x64 0 0)).firing 0 0 0 0x64 g y) ∧
    (∃ g y, (codecSt (codecNode 0x64 1 63)).firing 0 0 0 0x64 g y) ∧ (∃ g y, (codecSt (codecNode 0x65 0 3)).firing 0 0 0 0x65 g y) := by
  unfold State.firing; exact ⟨⟨_, _, by decide, by decide, by decide, by decide, rfl, rfl⟩, ⟨_, _, by decide, by decide, by decide, by decide, rfl, rfl⟩, ⟨_, _, by decide, by decide, by decide, by decide, rfl, rfl⟩⟩

/-! ### Witnesses: regions -/

/-- An image of seven words: the header, counter cn0 as root with trip 3 and step 1, its channel from o0 to port a of ve0,
and a sink in slot 0 of ve0. -/
def anImage : List W64 := [0xC0041111C0000007#64, 0xC0010000C0000002#64, 0xCE000021C0000003#64, 0xC0008000C0000010#64, 0xC0090020C00000C0#64, 0xC0000000C0000001#64, 0xCCC08000C0000000#64]
def badImage : List W64 := anImage.set 6 0xCCC08000C0000001#64
def cfgOp : Op := { id := 0, form := .cfg, inTl := true, x := 0xFFFFFF0000000000#64, y := 0xFFFFFF0000000040#64 }
def cfgSt (l : List W64) : State := { (seqWith (withOps [cfgOp])) with
  mem := { bytes := ((l.flatMap fun w => leBytes w.toNat 8).mapIdx fun i b => (scrKey + i, b)).filter fun x => x.2 != 0#8 } }
theorem hyp_ConfigurationCompletes : let s := cfgSt anImage
    ∃ h, s.tlHead 0 = some h ∧ h.1.form = .cfg ∧ s.cfgReady 0 h = true ∧ s.counterRecords 0 = s ∧
      h.1.y &&& ~~~(0x3F#64) = 0xFFFFFF0000000040#64 ∧ h.1.x = 0xFFFFFF0000000000#64 ∧ h.2.2.2 = false :=
  ⟨(cfgOp, seqCtx.task, 0, false), by decide, by decide, by decide, rfl, by decide, by decide, rfl⟩
theorem hyp_ConfigurationCompletes_reads : let s := cfgSt anImage
    s.lineKeys 0 7 0xFFFFFF0000000040#64 = (s, some (keyRange (scrKey + 64) 64)) ∧
    s.imageKeys 0 7 0xFFFFFF0000000000#64 = (s, some (keyRange scrKey 64, 7)) ∧
    s.readsFree 0 0 false (keyRange (scrKey + 64) 64 ++ keyRange scrKey 64) = true ∧
    wordsOf (s.cfgBytes (keyRange scrKey 64)) 7 = anImage.map BitVec.toNat ∧
    wordsOf ((s.cfgBytes (keyRange (scrKey + 64) 64)).drop 0) 2 = [0, 0] ∧
    (s.counterRecords 0).askFar (.seq 0) (keyRange (scrKey + 64) 64 ++ keyRange scrKey 64) = s := by decide +kernel
def imageOf (l : List W64) : Image := match readImage (l.map BitVec.toNat) with
  | .ok m => m
  | .error _ => {}
def checked (s : State) (l : List W64) : Except Named Fabric :=
  checkImage (imageOf l) (s.tid 0) (fun n => s.spKey (rportCore 0 n)) (partCB (s.part 0))
def cfgFab : Fabric := match checked (cfgSt anImage) anImage with
  | .ok g => g
  | .error _ => {}
theorem hyp_ConfigurationCompletes_passes : readImage (anImage.map BitVec.toNat) = .ok (imageOf anImage) ∧
    checked (cfgSt anImage) anImage = .ok cfgFab ∧ (cfgSt anImage).circuitBad 0 7 cfgFab = none := by decide +kernel
theorem hyp_ConfigurationCompletes_fails : readImage (badImage.map BitVec.toNat) = .ok (imageOf badImage) ∧
    checked (cfgSt badImage) badImage = .error (0, 0) := by decide +kernel

def mark (kind : Nat) : Tok := { kind := kind, lanes := 1#32 :: List.replicate 15 0#32 }
def alignSt (kind : Nat) : State := nodeSt 0 0 (twoIn 0x01 0) {} [(0, [mark kind]), (1, [{ mark kind with taint := true }])]
theorem hyp_TokensPassAndRegionsEnd_align : ∀ kind ∈ [2, 3, 4], let f := (alignSt kind).fab 0
    f.live 0 0 = true ∧ f.used 0 0 = true ∧ f.settled 0 0 = true ∧ f.isSource 0 0 = false ∧ f.inPorts 0 0 = [0, 1] ∧
    f.head 0 0 0 = some (mark kind) ∧ f.head 0 0 1 = some { mark kind with taint := true } ∧ (mark kind).isAligned = true ∧
    f.heldFirst 0 0 = [] ∧ f.roomAll 0 0 (f.outPorts 0 0) 1 = none ∧ (f.outPorts 0 0).Nodup ∧ f.betweenFibres 0 = false ∧
    f.rested (alignSt kind).clk.fab 0 0 = true ∧ f.inGroup 0 = false := by decide
/-- A tile whose unit has stored two bytes; another tile of the commit has not passed it. -/
def tileSt (kind : Nat) : State := { memSt (memNode 0x42 0 2 0) {} [(0, [mark kind]), (1, [mark kind])] with fabs := [(0, {
  ((memSt (memNode 0x42 0 2 0) {} [(0, [mark kind]), (1, [mark kind])]).fab 0) with
    logs := [(15, [{ k := 3, kind := 0, wr := [(scrKey, 1#8), (scrKey + 1, 2#8)] }, { k := 2, kind := 0, wr := [(scrKey, 3#8)] }])]
    commitNeed := [unitKey 15 3, unitKey 14 0] })] }
theorem hyp_TokensPassAndRegionsEnd_tiles : ∀ kind ∈ [2, 3, 4], let f := (tileSt kind).fab 0
    isMt 15 = true ∧ f.live 15 3 = true ∧ f.used 15 3 = true ∧ f.settled 15 3 = true ∧ f.isSource 15 3 = false ∧ f.inPorts 15 3 = [0, 1] ∧
    f.head 15 3 0 = some (mark kind) ∧ f.head 15 3 1 = some (mark kind) ∧ f.heldFirst 15 3 = [] ∧
    f.roomAll 15 3 (f.outPorts 15 3) 1 = none ∧ (∀ x ∈ f.log 15, x.k = 3 → x.kind = 0 ∧ ∀ y ∈ x.wr, isLocal y.1 = true) ∧
    (∃ x ∈ f.commitNeed, x ∉ f.commitSeen ∧ x ≠ unitKey 15 3) ∧ f.rested (tileSt kind).clk.fab 15 3 = true ∧ f.inGroup 15 = false ∧
    (∀ x ∈ f.egress, x.elem ≠ 15) ∧ (tileSt kind).mem.reqs = [] ∧ (tileSt kind).farBusy (.unit 0 15 3) = false ∧
    (tileSt kind).bankBusy (((f.log 15).filter fun x => x.k == 3 && x.kind != 2).flatMap fun x => x.wr.map Prod.fst) = false := by decide
/-- A counter at whose point a commit is due, over a source that feeds a tile. -/
def commitSt : State := { State.reset with fabs := [(0, {
  st := .running
  nodes := [(0, { opc := 0x32, ty := 6, omask := 1#4 }), (unitKey 15 0, memNode 0x42 0 2 0), (0x400, { opc := 0x38, param := 5, ext := 0x10 })]
  units := [(0x400, { ctl := { active := true, trip := 5, iter := 2, due := 1 } })]
  seqNo := 0xFFFF
  chans := [{ outCh 0 0 0 with celem := 15 }] })] }
theorem hyp_TokensPassAndRegionsEnd_commit : let f := commitSt.fab 0
    isCn 0x40 = true ∧ f.live 0x40 0 = true ∧ f.commitPoint commitSt.clk.fab 0x40 = true ∧ (0, 0) ∈ f.sourcesUnder 0x40 ∧ (f.commitStart commitSt.clk.fab 0x40).commitNeed ≠ [] := by decide +kernel
def endSt : State := { State.reset with fabs := [(0, { st := .running, draining := true, doneJoin := some 7 })] }
theorem hyp_TokensPassAndRegionsEnd_done : (endSt.fab 0).st = .running ∧ (endSt.fab 0).halted = false ∧ (endSt.fab 0).held = false ∧
    (endSt.fab 0).faultWord = [] ∧ (endSt.fab 0).allDrained = true ∧
    (endSt.fab 0).egress = [] ∧ endSt.writesOver 0 = true := by decide +kernel
def faultSt : State := { State.reset with clk := { State.reset.clk with fab := 20 }, fabs := [(0, { st := .running, faultWord := [1#64, 2#64], quietSince := 4, handler := some 7 })] }
theorem hyp_TokensPassAndRegionsEnd_fault : let f := faultSt.fab 0
    f.st = .running ∧ f.held = false ∧ f.faultWord ≠ [] ∧ f.recorded = false ∧ f.quietSince + 16 ≤ faultSt.clk.fab ∧ f.frec = 0 ∧
    f.halted = false ∧ faultSt.stirs 0 = false := by decide +kernel

/-- Controller cn0 with the counter cn1 as its child, a second child cn2, and a sink as its leaf. -/
def ctlSt (n : Node) (x : Ctl) : State := { State.reset with fabs := [(0, {
  st := .running
  nodes := [(0, oneIn 0x33 0), (0x400, n), (0x410, { opc := 0x38, param := 5 }), (0x420, { opc := 0x38, param := 5, ext := 0x20 })]
  units := [(0x400, { ctl := x }), (0x410, { stage := 1 }), (0x420, { stage := 2 })]
  chans := [outCh 0x40 0 0] })] }
def stands (s : State) (opc : Nat) : Prop := isCn 0x40 = true ∧ (s.fab 0).live 0x40 0 = true ∧ (s.fab 0).rested s.clk.fab 0x40 0 = true ∧
  ((s.fab 0).node 0x40 0).opc = opc ∧  0x40 ∉ (s.fab 0).children 0x40
def rootCnt : Node := { opc := 0x38, omask := 1#4, param := 4, ext := 0x10 + 2 ^ 45 * 16 + 2 ^ 29 * 7 }
def lowCnt : Node := { rootCnt with ext := 0x3 }
theorem hyp_ControllersRun_cnt : let s := ctlSt rootCnt { active := true, last := true, trip := 4, iter := 3, dones := [(0x410, 3), (0x420, 3)] }
    stands s 0x38 ∧ (s.fab 0).children 0x40 = [0x41, 0x42] ∧ ((s.fab 0).ctl 0x40).iter < 4 ∧ (s.fab 0).cntCaught 0x40 = true ∧
    ((s.fab 0).unit 0x40 0).injectDue = false ∧ (s.fab 0).roomAll 0x40 0 ((outsOf 1#4).filter (· == 0)) 1 = none ∧ (0, 0) ∈ (s.fab 0).leaves 0x40 := by
  unfold stands; decide +kernel
theorem hyp_ControllersRun_round : let s := ctlSt lowCnt { active := true, trip := 4, iter := 4, stopOut := true, dones := [(0, 4), (0x410, 4), (0x420, 4)] }
    stands s 0x38 ∧ (s.fab 0).cntCaught 0x40 = true ∧ (∀ y ∈ (s.fab 0).leaves 0x40, 4 ≤ ((s.fab 0).ctl 0x40).doneBy y.1 y.2) ∧ lowCnt.isRoot = false := by
  unfold stands; decide +kernel
theorem hyp_ControllersRun_cseq : let s := ctlSt { opc := 0x39, ext := 0x10 } { active := true, last := true, started := 1, dones := [(0x410, 1)] }
    stands s 0x39 ∧ ((s.fab 0).ctl 0x40).started < ((s.fab 0).children 0x40).length ∧
    ((s.fab 0).ctl 0x40).doneBy (nth 0 ((s.fab 0).children 0x40) 0) 0 ≠ 0 := by unfold stands; decide +kernel
theorem hyp_ControllersRun_cpipe : let s := ctlSt { opc := 0x3A, ext := 0x10 } { permits := [true], iter := 2, finished := 2, reported := 2, dones := [(0x410, 2), (0x420, 2)], sent := [(0, 2), (1, 2)] }
    stands s 0x3A ∧ (∀ i < 2, SMap.get 0 ((s.fab 0).ctl 0x40).sent i = 2) ∧ ((s.fab 0).ctl 0x40).doneBy (nth 0 ((s.fab 0).children 0x40) 1) 0 = 2 := by
  unfold stands; decide +kernel
theorem hyp_ControllersRun_passes : let s := ctlSt { opc := 0x3A, ext := 0x10 } { iter := 3, finished := 1, reported := 3, dones := [(0x410, 2), (0x420, 1)], sent := [(0, 2), (1, 1)], flags := [false, false, true] }
    stands s 0x3A ∧ SMap.get 0 ((s.fab 0).ctl 0x40).sent 0 < ((s.fab 0).ctl 0x40).iter ∧ ((s.fab 0).ctl 0x40).reported = ((s.fab 0).ctl 0x40).iter ∧
    SMap.get 0 ((s.fab 0).ctl 0x40).sent 0 = ((s.fab 0).ctl 0x40).doneBy (nth 0 ((s.fab 0).children 0x40) 0) 0 ∧
    ((s.fab 0).ctl 0x40).doneBy (nth 0 ((s.fab 0).children 0x40) 1) 0 = ((s.fab 0).ctl 0x40).finished := by
  unfold stands; decide +kernel
theorem hyp_ControllersRun_cstrm : let s := ctlSt { opc := 0x3B, ext := 0x10 } { permits := [false, true] }
    stands s 0x3B ∧ ((s.fab 0).ctl 0x40).active = false ∧ (0, 0) ∈ (s.fab 0).leaves 0x40 := by unfold stands; decide +kernel
def owedSt : State := { State.reset with fabs := [(0, { ((ctlSt rootCnt {}).fab 0) with units := [(0, { doneOwed := 2 }), (0x400, {}), (0x410, { stage := 1, doneOwed := 1 })] })] }
theorem hyp_ControllersRun_signal : let f := owedSt.fab 0
    f.st = .running ∧ f.halted = false ∧ f.leafCtl 0 0 = some 0x40 ∧ f.parentOf 0x41 = some 0x40 ∧ (f.unit 0 0).doneOwed = 2 ∧
    (f.unit 0x41 0).doneOwed = 1 ∧ f.loading 0 = false ∧ f.loading 0x41 = false := by decide +kernel

/-! ### Witnesses: events of tiles and elements -/

def aFab (f : Fabric) : State := { State.reset with fabs := [(0, f)] }
def tileReq (kind : ReqKind) : Req := { by_ := .unit 0 15 3, path := 1, kind := kind }
def egressSt : State := aFab { egress := [{ elem := 15, k := 2, req := tileReq .write }, { elem := 15, k := 3, req := tileReq .read }] }
theorem hyp_TileEvents_egress : let f := egressSt.fab 0
    f.egress[1]? = some { elem := 15, k := 3, req := tileReq .read } ∧ (∀ y ∈ f.egress.take 1, ¬(y.elem = 15 ∧ y.k = 3)) ∧
    (tileReq .read).dev = none := by decide
def winterSt : State := { aFab { st := .done, power := [(3, 0)], wakeAt := [(0x21, some 90)] } with clk := { fab := 4096 } }
theorem hyp_TileEvents_winter : let f := winterSt.fab 0
    f.st = .done ∧ f.powerOf 3 = 0 ∧ SMap.get 0 f.idleSince 3 + 4096 * f.divOf 3 ≤ winterSt.clk.fab ∧
    SMap.get none f.wakeAt 0x21 = some 90 ∧ 90 + 64 ≤ winterSt.clk.fab := by decide
/-- Ring entry 9 of core 0: slots of 16 bytes, four of them, from barrier 2 and scratchpad byte 256. -/
def aRing : List W64 := [0x1F00000000000000#64, 256#64, 0#64, 0x0000100404020000#64, 0#64, 0#64, 0#64, 0#64]
def ringTileSt : State := { State.reset with mem := { tids := [(9, aRing)], arrive := [(3, 16)], notices := [{ core := 0, ring := 9, to_ := .unit 1 15 0 }, { core := 0, ring := 9, to_ := .unit 1 15 0, hold := 50 }] }, clk := { fab := 60 } }
theorem hyp_TileEvents_barrier : ringTileSt.ringsOf 0 = [(9, 16, 4, 4, 2, 256)] ∧ ringShape (ringTileSt.tid 0 9) = some (16, 4, 4, 2, 256) ∧
    16 ≤ SMap.get 0 ringTileSt.mem.arrive (0 * 64 + 3) ∧
    (List.range 16).filterMap (fun i => ringTileSt.spaceKey 0 1 (256 + (3 - 2) * 16 + i)) = keyRange (scrKey + 272) 16 := by decide
theorem hyp_TileEvents_notices : ringTileSt.mem.notices[0]? = some { core := 0, ring := 9, to_ := .unit 1 15 0 } ∧
    ringTileSt.mem.notices[1]? = some { core := 0, ring := 9, to_ := .unit 1 15 0, hold := 50 } ∧ (50 ≠ 0 ∧ 50 ≤ ringTileSt.clk.fab) := by decide
theorem hyp_TileEvents_late : let s : State := { aFab { late := [(0, 0, 0, 30)] } with clk := { fab := 60 } }
    s.mem.notices = [] ∧ s.fabs = [(0, s.fab 0)] ∧ (s.fab 0).late[0]? = some (0, 0, 0, 30) ∧ 30 ≤ s.clk.fab := by decide
theorem hyp_TileEvents_replay : let s := memSt (memNode 0x41 0 0 0) {} [(0, [adr])]
    (s.fab 0).live 15 3 = true ∧ 0 < (s.fab 0).divOf 15 := by decide
/-- A store of core 0 that has stood at a full log since time 100. -/
def stuckTile (opc : Nat) : State := { memSt (memNode opc 1 2 0) { stuckAt := some (100, 64) } [(0, [adr]), (1, [dat])] with clk := { fab := 2 ^ 24 + 100 } }
theorem hyp_TileEvents_stuck : ∀ opc ∈ [0x42, 0x45, 0x4D, 0x46, 0x47], let f := (stuckTile opc).fab 0
    (f.node 15 3).opc = opc ∧ (f.unit 15 (unitSlot 15 3)).stuckAt = some (100, 64) ∧ f.live 15 3 = true ∧ isIe 15 = false ∧
    100 + 2 ^ ((stuckTile opc).clu (clusterOf 0)).vstall * f.divOf 15 ≤ (stuckTile opc).clk.fab ∧ f.faultWord = [] ∧ (f.unit 15 3).stage < 16 := by decide
def pended (r : Req) (opc : Nat) : State := { memSt { memNode opc 0 0 0 with omask := 1#4 } { pend := [{ req := some 0, addr := adr }] } [] with
  pkg := { hold := false }
  mem := { reqs := [(0, some r)], nextReq := 1 } }
def gotReq : Req := { tileReq .read with rd := adrKeys.flatten, applied := true, bytes := [1#8, 2#8, 3#8, 4#8, 5#8, 6#8, 7#8, 8#8] }
theorem hyp_TileEvents_result : ∀ opc ∈ [0x41, 0x43], let f := (pended gotReq opc).fab 0
    f.st = .running ∧ (f.unit 15 3).pend = [{ req := some 0, addr := adr }] ∧ (pended gotReq opc).req 0 = some gotReq ∧
    gotReq.applied = true ∧ gotReq.bad = 0 ∧ (f.node 15 3).ordOut = false ∧ adr.ring = false ∧ (f.node 15 3).ty = adr.fmt ∧
    (f.node 15 3).els = 1 ∧ elemBytes adr.fmt = 4 := by decide
def wantReq : Req := { tileReq .vload with rd := keyRange (scrKey + 64) 8, ver := 0 }
theorem hyp_TileEvents_versions : let s := pended wantReq 0x44
    ((s.fab 0).unit 15 3).pend = [{ req := some 0, addr := adr }] ∧ s.req 0 = some wantReq ∧ s.mayApply 0 = true ∧ s.reachable wantReq = true ∧ s.bankBusy wantReq.banked = false ∧
    wantReq.ver = (s.wordVer (nth 0 wantReq.rd 0)).newest ∧ (∀ y ∈ (s.wordVer (nth 0 wantReq.rd 0)).older, y.1 < wantReq.ver) := by decide

/-! ### Witnesses: engines -/

/-- A byte of core 0's scratchpad as a pool address. -/
def pa (o : Nat) : W64 := 0xFE00100000000000#64 + BitVec.ofNat 64 o
def engCmd (e opc step : Nat) (ws : List W64) : Cmd :=
  { msg := { words := w0of opc 7 1 0 e 0 :: 0#64 :: 0#64 :: ws, pdom := 7, sender := .seq 0 }, step := step }
/-- Engine `e` of cluster 0 works on a command of context 0. -/
def engSt (e : Nat) (c : Cmd) : State := { seqSt with
  xl := { seqSt.xl with devnum := 4#10, domValid := true, members := [4, 5] }
  msg := { cmds := [(inboxKey 0 e 0, some c)] }
  mem := { bytes := (List.range 64).map fun i => (scrKey + i, BitVec.ofNat 8 (i + 1)) } }
def engMeets (e : Nat) (c : Cmd) : Prop := (engSt e c).cmd (inboxKey 0 e 0) = some c ∧ c.finished = false ∧ (engSt e c).mem.stale = [] ∧ (engSt e c).found = .good
def ptOk (s : State) (pdom w a n acc : Nat) (keys : List Nat) : Prop :=
  s.spot 256 pdom w a n acc = (s, .ok (.keys keys)) ∧ ∀ k ∈ keys, k < 2 ^ 60
theorem pool_spot (e : Nat) (c : Cmd) (w a n acc : Nat) (h : isPoolAddr a = true) :
    (engSt e c).spot 256 7 w a n acc = (engSt e c, (engSt e c).poolSpot 7 w a n) := by simp [State.spot, h]
def linCmd : Cmd := engCmd 0 0x10 64 [pa 0, pa 0x400, 100#64]
theorem hyp_CopiesMoveBytes_lin : engMeets 0 linCmd ∧ linCmd.msg.opc = 0x10 ∧ linCmd.step < linCmd.msg.word 5 ∧ linCmd.msg.word 5 ≤ 2 ^ 36 ∧
    ptOk (engSt 0 linCmd) 7 3 (pa 64).toNat 36 0 (keyRange (scrKey + 64) 36) ∧ ptOk (engSt 0 linCmd) 7 4 (pa 0x440).toNat 36 1 (keyRange (scrKey + 0x440) 36) := by
  unfold engMeets ptOk
  refine ⟨by decide, by decide, by decide, by decide, ?_, ?_⟩ <;> rw [pool_spot _ _ _ _ _ _ (by decide)] <;> exact ⟨by rfl, by decide⟩
def tileCmd : Cmd := engCmd 0 0x11 40 [pa 0, pa 0x400, 0x2_00000020#64, 0x00000010_FFFFFFC0#64]
theorem hyp_CopiesMoveBytes_tile : engMeets 0 tileCmd ∧ tileCmd.msg.opc = 0x11 ∧ tileWordOk (tileCmd.msg.word 5) = true ∧
    ptOk (engSt 0 tileCmd) 7 3 (pa 24).toNat 24 0 (keyRange (scrKey + 24) 24) ∧ ptOk (engSt 0 tileCmd) 7 4 (pa 0x3C8).toNat 24 1 (keyRange (scrKey + 0x3C8) 24) := by
  unfold engMeets ptOk
  refine ⟨by decide, by decide, by decide, ?_, ?_⟩ <;> rw [pool_spot _ _ _ _ _ _ (by decide)] <;> exact ⟨by rfl, by decide⟩
/-- Rows of 32 bytes by index, two of them, 64 bytes apart: the second row of a gather and the end of its first row. -/
def rowCmd (opc step : Nat) (p : List W32) : Cmd := { engCmd 0 opc step [pa 4, pa 0x800, pa 0x400, 0x2_00000020#64, 64#64] with part_ := p }
theorem hyp_CopiesMoveBytes_rows : (∀ opc ∈ [0x12, 0x13], engMeets 0 (rowCmd opc 32 []) ∧ (rowCmd opc 32 []).msg.opc = opc ∧ tileWordOk ((rowCmd opc 32 []).msg.word 6) = true) ∧
    ptOk (engSt 0 (rowCmd 0x12 32 [])) 7 3 (pa 8).toNat 4 0 (keyRange (scrKey + 8) 4) ∧
    (BitVec.ofNat 32 (leNat ((keyRange (scrKey + 8) 4).map (engSt 0 (rowCmd 0x12 32 [])).byte))).toInt = 0x0C0B0A09 ∧
    engMeets 0 (rowCmd 0x12 8 [2#32]) ∧ (8 % 32 ≠ 0) ∧
    ptOk (engSt 0 (rowCmd 0x12 8 [2#32])) 7 4 (pa 0x888).toNat 24 0 (keyRange (scrKey + 0x888) 24) ∧
    ptOk (engSt 0 (rowCmd 0x12 8 [2#32])) 7 5 (pa 0x408).toNat 24 1 (keyRange (scrKey + 0x408) 24) ∧
    ptOk (engSt 0 (rowCmd 0x13 8 [2#32])) 7 4 (pa 0x808).toNat 24 0 (keyRange (scrKey + 0x808) 24) ∧
    ptOk (engSt 0 (rowCmd 0x13 8 [2#32])) 7 5 (pa 0x488).toNat 24 1 (keyRange (scrKey + 0x488) 24) := by
  unfold engMeets ptOk
  refine ⟨by decide, ?_, by decide, by decide, by decide, ?_, ?_, ?_, ?_⟩ <;> rw [pool_spot _ _ _ _ _ _ (by decide)] <;> exact ⟨by rfl, by decide⟩
/-- A multicast of 16 bytes to receiver 1, core 0. -/
def mcastCmd : Cmd := engCmd 0 0x14 0 [pa 0, pa 0x400, 0#64, 0x10_00000002#64]
theorem hyp_CopiesMoveBytes_mcast : engMeets 0 mcastCmd ∧ mcastCmd.msg.opc = 0x14 ∧ mcastCmd.msg.mcastBad = none ∧ mcastCmd.msg.receivers = [(1, 0)] ∧
    (engSt 0 mcastCmd).gangHas mcastCmd.msg.sender 0 = true ∧
    ptOk (engSt 0 mcastCmd) 7 3 (pa 0).toNat 16 0 (keyRange scrKey 16) := by
  unfold engMeets ptOk
  refine ⟨by decide, by decide, by decide, by decide, by decide, ?_⟩
  rw [pool_spot _ _ _ _ _ _ (by decide)]
  exact ⟨by rfl, by decide⟩
theorem hyp_CopiesMoveBytes_slots : (engSt 0 mcastCmd).mcastSlots (.eng 0 0 0) mcastCmd.msg 16 = .ok [(1, 0, keyRange (scrKey + 0x400) 16)] := by rfl
/-- Port 0 serves inbox 0, and inbox 0 is ready. -/
theorem hyp_CopiesMoveBytes_ports : ∀ c ∈ [linCmd, tileCmd, rowCmd 0x12 32 [], rowCmd 0x12 8 [2#32], rowCmd 0x13 8 [2#32], mcastCmd],
    (engSt 0 c).portServes 0 0 0 = some 0 := by decide
theorem hyp_CopiesMoveBytes_words : (∀ c ∈ [linCmd, tileCmd], (engSt 0 c).wordsBad c.msg [3] [4] = none) ∧
    ∀ c ∈ [rowCmd 0x12 32 [], rowCmd 0x12 8 [2#32], rowCmd 0x13 8 [2#32]], (engSt 0 c).wordsBad c.msg [3, 4] [5] = none := by decide

def onCmd : Cmd := engCmd 3 0x30 0 [pa 0, pa 0x1000, 64#64, 0#64, 0#64]
theorem hyp_HubsRingsAndCollectives_on : engMeets 3 onCmd ∧ onCmd.msg.opc = 0x30 ∧ (engSt 3 onCmd).onBad 0 onCmd.msg = none ∧
    (engSt 3 onCmd).gangHas onCmd.msg.sender (paCore (onCmd.msg.word 3)) = true ∧ (engSt 3 onCmd).pubEntryFor 0 0 64 = some 0 ∧
    (engSt 3 onCmd).subEntryFor 0 = some 0 := by unfold engMeets; decide
/-- Publisher entry 0 and subscriber entry 0, both of core 0. -/
def aSub (st : Nat) : Sub := { cl := 0, pubEntry := 0, pubCore := 0, subEntry := 0, subCore := 0, pub := 0, sub := 0x1000, len := 64, pdom := 7, lid := 0, statusVa := 0, statusVer := 1, state := st, pubCtx := 0 }
def subCmd (opc : Nat) : Cmd := engCmd 3 opc 0 [BitVec.ofNat 64 (aSub 0).handle]
def subSt (c : Cmd) (x : Sub) : State := { engSt 3 c with msg := { (engSt 3 c).msg with subs := [x] }, clk := { time := 40 } }
theorem hyp_HubsRingsAndCollectives_off : ∀ opc ∈ [0x31, 0x32], (subSt (subCmd opc) (aSub 2)).cmd (inboxKey 0 3 0) = some (subCmd opc) ∧ (subCmd opc).msg.opc = opc ∧
    (subSt (subCmd opc) (aSub 2)).found = .good ∧ (aSub 2).sent = [] ∧ ((aSub 2).state = 0 ∨ (aSub 2).state = 2) ∧ (aSub 2).state ≠ 3 ∧ (subCmd opc).step = 0 := by decide
theorem hyp_HubsRingsAndCollectives_sub : (subSt (subCmd 0x31) (aSub 2)).subOf 0 (subCmd 0x31).msg = .ok (aSub 2) := by rfl
def fullSub : Sub := { aSub 0 with pending := [(3, some 5#8)], due := [(0, some 40)], sent := [[(0, 1#8), (9, 2#8)]] }
theorem hyp_HubsRingsAndCollectives_batches : let s := subSt onCmd fullSub
    s.msg.subs[0]? = some fullSub ∧ fullSub.state = 0 ∧ ¬ 16 ≤ fullSub.due.length ∧
    (fullSub.due.filter fun y => y.2.any (· ≤ s.clk.time)).map Prod.fst = [0] ∧ fullSub.sent ≠ [] ∧ s.clActive (clusterOf fullSub.subCore) = true ∧
    s.windowKeys fullSub.subCore 1 fullSub.sub fullSub.len = some (keyRange (scrKey + 0x1000) 64) := by decide

/-- A ring of two entries at byte 0x2000 of the scratchpad; its TAIL is 3, its HEAD `h`. -/
def postCmd (step : Nat) : Cmd := engCmd 4 0x40 step [pa 0x2000, pa 0]
def postSt (h : Nat) (step : Nat) : State := { engSt 4 (postCmd step) with
  clk := { time := 100 }
  mem := { bytes := ((List.range 64).map fun i => (scrKey + i, BitVec.ofNat 8 (i + 1))) ++ [(scrKey + 0x2000, 3#8), (scrKey + 0x2008, BitVec.ofNat 8 h), (scrKey + 0x2010, 2#8)] } }
theorem hyp_HubsRingsAndCollectives_ring : ∀ h ∈ [1, 2], ∀ step ∈ [0, 1], let s := postSt h step
    let m := (postCmd step).msg
    s.cmd (inboxKey 0 4 0) = some (postCmd step) ∧ s.postBehind 0 0 (postCmd step) = false ∧ s.found = .good ∧ m.opc = 0x40 ∧ s.mem.stale = [] ∧ isPoolAddr (m.word 3) = true ∧ paSpace (m.word 3) = 1 ∧
    bits (m.word 3) 40 4 = 0 ∧ paTid (m.word 3) = 0 ∧ paOff (m.word 3) % 64 = 0 ∧ clusterOf (paCore (m.word 3)) = 0 ∧ m.word 4 % 64 = 0 ∧
    s.runsTask 0 m.pdom = true ∧ s.windowKeys 0 1 0x2000 64 = some (keyRange (scrKey + 0x2000) 64) ∧ (s.windowKeys 0 1 0x2000 192).isSome = true ∧
    ([0, 1, 2, 3, 4, 5, 6, 7].map fun i => leNat ((keyRange (scrKey + 0x2000 + 8 * i) 8).map s.byte)) = [3, h, 2, 0, 0, 0, 0, 0] ∧
    (step = 1 → (postCmd step).result + 64 ≤ s.clk.time) ∧ (s.wordVer (scrKey + 0x2000)).newest < 3 + 1 ∧ s.versionFull (scrKey + 0x2000) = false := by decide
theorem hyp_HubsRingsAndCollectives_entry : ptOk (postSt 2 0) 7 4 (pa 0).toNat 64 0 (keyRange scrKey 64) := by
  unfold ptOk; exact ⟨by rfl, by decide⟩

/-- A reduction of two INT32 elements in the group of devices 4 and 5, or of device 4 alone. -/
def collCmd (opc lg step : Nat) : Cmd := engCmd 2 opc step [pa 0, pa 0x400, 0#64, 0x00000002_60000000#64, BitVec.ofNat 64 (4 + lg * 2 ^ 10)]
theorem hyp_HubsRingsAndCollectives_start : ∀ opc ∈ [0x20, 0x21, 0x22], ∀ lg ∈ [0, 1], let c := collCmd opc lg 0
    engMeets 2 c ∧ (engSt 2 c).collRank (cGroup c).toNat = some 0 ∧ gLog (cGroup c).toNat = lg ∧ c.step = 0 ∧ (engSt 2 c).wordsBad c.msg [3] [4, 5] = none ∧ (engSt 2 c).reduceBad c = none ∧
    cCount c * cSize c = 8 ∧ (engSt 2 c).inDomain (gBase (cGroup c).toNat + Nat.xor 0 1) = true := by unfold engMeets; decide
theorem hyp_HubsRingsAndCollectives_source : ptOk (engSt 2 (collCmd 0x20 1 0)) 7 3 (pa 0).toNat 8 0 (keyRange scrKey 8) ∧
    ptOk (engSt 2 (collCmd 0x20 0 0)) 7 4 (pa 0x400).toNat 8 1 (keyRange (scrKey + 0x400) 8) := by
  unfold ptOk; exact ⟨⟨by rfl, by decide⟩, ⟨by rfl, by decide⟩⟩
def bcCmd (lg root : Nat) : Cmd := engCmd 2 0x23 0 [pa 0, 16#64, BitVec.ofNat 64 (4 + lg * 2 ^ 10), BitVec.ofNat 64 root]
theorem hyp_HubsRingsAndCollectives_bc : (∀ x ∈ [(0, 0), (1, 1)], let c := bcCmd x.1 x.2
    engMeets 2 c ∧ (engSt 2 c).collRank (cGroup c).toNat = some 0 ∧ (engSt 2 c).wordsBad c.msg (if x.2 = 0 then [3] else []) (if x.2 = 0 then [] else [3]) = none ∧ (engSt 2 c).bcBad c = none ∧ Nat.xor 0 (c.msg.word 6 % 2 ^ 10) = x.2) ∧
    ptOk (engSt 2 (bcCmd 0 0)) 7 3 (pa 0).toNat 16 0 (keyRange scrKey 16) := by
  unfold engMeets ptOk; exact ⟨by decide, by rfl, by decide⟩
/-- The partner's two elements have arrived. -/
def lastCmd : Cmd := { collCmd 0x20 1 1 with part_ := [1#32, 2#32] }
def lastSt : State := { engSt 2 lastCmd with msg := { (engSt 2 lastCmd).msg with
  collIn := [⟨0, 0, cDesc lastCmd, cGroup lastCmd, 0, 0, [1#8, 0#8, 0#8, 0#8, 255#8, 255#8, 255#8, 255#8], none⟩] } }
theorem hyp_HubsRingsAndCollectives_last : cType lastCmd = 6 ∧ cOp lastCmd = 0 ∧ lastCmd.step = gLog (cGroup lastCmd).toNat ∧ lastCmd.step ≠ 0 ∧
    lastSt.disagrees 0 0 lastCmd = false ∧ lastSt.collFault 0 0 lastCmd = none ∧ lastSt.arrived 0 0 lastCmd 0 8 = some [1#8, 0#8, 0#8, 0#8, 255#8, 255#8, 255#8, 255#8] ∧
    lastSt.cmd (inboxKey 0 2 0) = some lastCmd ∧ lastSt.found = .good := by decide
theorem hyp_HubsRingsAndCollectives_dest : ptOk lastSt 7 4 (pa 0x400).toNat 8 1 (keyRange (scrKey + 0x400) 8) := by unfold ptOk; exact ⟨by rfl, by decide⟩
/-- Domain 7's page 0 in the TLB of cluster 0's engines. -/
def arriveSt : State := { upSt with xl := { upSt.xl with tlbs := [(256, [aPage])] } }
theorem hyp_HubsRingsAndCollectives_data : arriveSt.inDomain 2 = true ∧ (arriveSt.port 0).serves = true ∧ arriveSt.inTss (rxAt 0) = some false ∧
    (arriveSt.xl.domValid = true ∧ (rxAt 0).job = arriveSt.xl.jobid.toNat) ∧ (∀ x ∈ keyRange 64 4, x < 2 ^ 60) ∧ arriveSt.found = .good ∧ isBcast (cDesc lastCmd) = false := by decide
theorem hyp_HubsRingsAndCollectives_keys : let u := arriveSt.openIn (rxAt 0) false
    u.spot 256 7 5 64 4 1 = (u, .ok (.keys (keyRange 64 4))) := by rfl

/-! ### Witnesses: Larder programs -/

/-- A Larder command: markers, OPC, A, B. -/
def lc (opc a b : Nat) : W64 := BitVec.ofNat 64 (3 * 2 ^ 62 + opc * 2 ^ 58 + a * 2 ^ 32 + 3 * 2 ^ 30 + b)
def ldLaunch : Msg := { words := [w0of 0x50 3 1 8 0 0, 0#64, 0#64, 0x40#64, 0x3_00000001#64, 0x100#64], pdom := 7, sender := .seq 0 }
/-- Virtual pages 0 and 1 of domain 7 are HBM and cellar; core 0 has ring entry 9, slots of 32 bytes. -/
def ldSt : State := { seqSt with
  xl := { upSt.xl with tlbs := [(256, [aPage, { aPage with vpn := 1, base := 0x10000000000 }])] }
  mem := {
    bytes := (List.range 64).map fun i => (i, BitVec.ofNat 8 (i + 1))
    tids := [(9, [0x1F00000000000000#64, 0x100#64, 0#64, 0x0000200404020000#64, 0#64, 0#64, 0#64, 0#64])] } }
def ldStart : State := { ldSt with msg := { cmds := [(inboxKey 8 0 0, some { msg := ldLaunch })] } }
theorem hyp_LarderProgramsRun_launch : let m := ldLaunch
    (∀ j < 0, ldStart.cmd (inboxKey 8 0 j) = none) ∧ ldStart.cmd (inboxKey 8 0 0) = some { msg := m } ∧ m.opc = 0x50 ∧ m.word 3 % 8 = 0 ∧
    m.word 4 / 2 ^ 16 % 2 ^ 8 = 0 ∧ m.word 4 % 2 ^ 10 + 1 = 2 ∧ ldStart.runsTask 0 m.pdom = true ∧ ldStart.freeLdCtx 0 = some 0 ∧ ldStart.mem.stale = [] ∧ ldStart.found = .good := by decide
theorem hyp_LarderProgramsRun_program : ldStart.rangeKeys (larderGroup 0) 7 0 2 0x40 16 = (ldStart, .ok (keyRange 64 16)) ∧ ∀ k ∈ keyRange 64 16, k < 2 ^ 60 :=
  ⟨by rfl, by decide⟩
/-- Context 0 of Larder `ld` at the command `w`, the second of four. -/
def ldCtxAt (w : W64) : LCtx := {
  prog := [0#64, w, 0#64, 0#64]
  index := 1
  state := 1
  pdom := 7
  msg := some ldLaunch
  rmask := 1
  base := [0#64, 16#64, 0x10000#64, 0x8000000000000000#64, 48#64, 0#64, 0#64, 0#64]
  loops := [(1, 2)] }
def ldAt (ld : Nat) (w : W64) : State := { ldSt with msg := { larders := [(ld * 16, ldCtxAt w)] } }
def ldMeets (ld : Nat) (w : W64) (opc : Nat) : Prop := (ldAt ld w).ldCtx ld 0 = ldCtxAt w ∧ (ldCtxAt w).prog[(ldCtxAt w).index]? = some w ∧
  (ldCtxAt w).state = 1 ∧ lcOpc w.toNat = opc ∧ lcDefined w.toNat = true ∧ (ldAt ld w).mem.stale = [] ∧ (ldAt ld w).found = .good
theorem hyp_LarderProgramsRun_undefined : lcDefined (lc 14 0 0).toNat = false ∧ lcDefined (lc 0 0 1).toNat = false ∧ lcDefined (0#64).toNat = false ∧
    lcDefined (lc 11 64 0).toNat = false ∧ ldLaunch.host = false ∧ ldLaunch.word 1 = 0 := by decide
theorem hyp_LarderProgramsRun_plain : ldMeets 0 (lc 0 0 0) 0 ∧ ldMeets 0 (lc 1 0 5) 1 ∧ ldMeets 0 (lc 2 0 0) 2 ∧ ldMeets 0 (lc 3 0x1FFFFFF 0x3FFFFFFF) 3 ∧
    ldMeets 0 (lc 4 0x1A 0x3FFFFFFF) 4 ∧ ldMeets 0 (lc 11 (3 * 8 + 3) 3) 11 ∧ (ldCtxAt 0#64).loops.length < 4 ∧ ldMeets 0 (lc 12 0 0) 12 ∧
    (ldAt 0 (lc 12 0 0)).larderQuiet 0 0 = true := by unfold ldMeets; decide
/-- One row of 16 bytes at lb0, padded to 32. -/
def pushW (opc : Nat) : W64 := lc opc (9 * 8 + 2 ^ 11) 0
theorem hyp_LarderProgramsRun_push : ∀ opc ∈ [5, 6], let s := ldAt 0 (pushW opc)
    ldMeets 0 (pushW opc) opc ∧ s.runsTask 0 7 = true ∧ s.slotSize 0 9 = 32 ∧ tileFits 1 1 32 = true ∧ s.mayBind 0 0 [(0, 9)] = true ∧
    (ldCtxAt (pushW opc)).receivers = [0] := by unfold ldMeets; decide
theorem hyp_LarderProgramsRun_slot : (ldAt 0 (pushW 5)).pushSlot (.larder 0 0) 0 9 32 = .slot (keyRange (scrKey + 0x100) 32) ∧
    (ldAt 0 (pushW 5)).ownKeys 0 7 0 0 16 = (ldAt 0 (pushW 5), .ok (keyRange 0 16)) ∧ ∀ k ∈ keyRange 0 16, k < 2 ^ 60 := ⟨by rfl, by rfl, by decide⟩
/-- Every slot of the ring is pushed and none is freed. -/
def waitSt : State := { ldAt 0 (pushW 5) with mem := { (ldAt 0 (pushW 5)).mem with rings := [(9, { pushes := 4 })] } }
theorem hyp_LarderProgramsRun_wait : waitSt.pushSlot (.larder 0 0) 0 9 32 = .wait := by rfl
/-- Two indices at lb1, rows of 16 bytes from lb0, stride 16 bytes. -/
def gathW : W64 := lc 13 (1 + 9 * 2 ^ 6) (1 * 2 ^ 16 + 1)
def gathSt : State := { ldAt 0 gathW with mem := { (ldAt 0 gathW).mem with bytes := (List.range 16).map (fun i => (i, BitVec.ofNat 8 (i + 1))) ++ [(16, 1#8), (20, 2#8), (32, 7#8)] } }
theorem hyp_LarderProgramsRun_gather : ldMeets 0 gathW 13 ∧ gathSt.slotSize 0 9 = 32 ∧ 32 / (16 * 1) = 2 ∧ 32 % (16 * 1) = 0 ∧
    ([0, 1].map fun j => leNat ((((keyRange 16 8).map gathSt.byte).drop (4 * j)).take 4)) = [1, 2] := by unfold ldMeets; decide
theorem hyp_LarderProgramsRun_rows : gathSt.pushSlot (.larder 0 0) 0 9 32 = .slot (keyRange (scrKey + 0x100) 32) ∧
    gathSt.ownKeys 0 7 0 16 8 = (gathSt, .ok (keyRange 16 8)) ∧ gathSt.ownKeys 0 7 0 16 16 = (gathSt, .ok (keyRange 16 16)) ∧
    gathSt.ownKeys 0 7 0 32 16 = (gathSt, .ok (keyRange 32 16)) := ⟨by rfl, by rfl, by rfl, by rfl⟩
/-- A fill of 64 bytes from cellar slice 0 (lb2) to HBM (lb0), and a spill of 64 bytes back; larder 32. -/
theorem hyp_LarderProgramsRun_cellar : ldMeets 32 (lc 7 (2 * 8) 1) 7 ∧ ldMeets 32 (lc 8 2 1) 8 ∧ 0x10000 % 64 = 0 ∧
    (∀ k ∈ keyRange 0x10000000000 64, k < 2 ^ 60) := by unfold ldMeets; decide
theorem hyp_LarderProgramsRun_cellar_keys : let s := ldAt 32 (lc 7 (2 * 8) 1)
    s.ownKeys 32 7 0 0x10000 64 = (s, .ok (keyRange 0x10000000000 64)) ∧ s.spot (larderGroup 32) 7 0 0 64 1 = (s, .ok (.keys (keyRange 0 64))) ∧
    (isPoolAddr 0 && paSpace 0 == 3) = false := by decide +kernel
theorem hyp_LarderProgramsRun_spill_keys : let s := ldAt 32 (lc 8 2 1)
    s.ownKeys 32 7 1 0x10000 64 = (s, .ok (keyRange 0x10000000000 64)) ∧ s.fetchKeys (larderGroup 32) 7 0 0 64 = (s, .ok (keyRange 0 64)) := by decide +kernel
theorem hyp_LarderProgramsRun_stamp : ldMeets 0 (lc 9 4 5) 9 ∧ ldMeets 0 (lc 9 (8 + 4) 0) 9 ∧ ldMeets 0 (lc 10 4 0) 10 ∧ ((ldAt 0 (lc 9 4 5)).wordVer 48).newest < 1 ∧
    (ldAt 0 (lc 9 4 5)).versionFull 48 = false ∧ (ldAt 0 (lc 9 4 5)).held = false ∧ (ldAt 0 (lc 9 4 5)).larderQuiet 0 0 = true ∧ (lc 10 4 0).toNat % 2 ^ 30 ≤ ((ldAt 0 (lc 10 4 0)).wordVer 48).newest := by
  unfold ldMeets; decide
theorem hyp_LarderProgramsRun_stamp_key : (ldAt 0 (lc 9 4 5)).stampKey 0 (ldCtxAt (lc 9 4 5)) 48 1 = (ldAt 0 (lc 9 4 5), .ok 48) ∧
    (ldAt 0 (lc 10 4 0)).stampKey 0 (ldCtxAt (lc 10 4 0)) 48 0 = (ldAt 0 (lc 10 4 0), .ok 48) := ⟨by rfl, by rfl⟩
def releasedSt : State := { ldSt with msg := { larders := [(0, { ldCtxAt (lc 0 0 0) with state := 4 })] } }
theorem hyp_LarderProgramsRun_release : (releasedSt.ldCtx 0 0).state = 4 ∧ releasedSt.larderQuiet 0 0 = true := by decide

/-! ### Witnesses: the step, the encoding, memory -/

/-- A management sequencer that runs the word `w` at address 0x100 of HBM, and the word after it. -/
def fetchSt (w w2 : W32) : State := { mgmtSt with mem := { bytes := ((keyRange 0x100 8).zip (leBytes w.toNat 4 ++ leBytes w2.toNat 4)).filter fun x => x.2 ≠ 0#8 } }
def fetches (s : State) : Prop := s.agenda = [] ∧ s.cur = 1024 ∧ (s.ctx 1024).run = .running ∧ s.dbg.mHalted = false ∧
  s.mdbgBreak (s.ctx 1024).pc = none ∧ (s.ctx 1024).endWait = false ∧ (s.ctx 1024).pendTrap = none ∧ s.breakpointsFor 1024 0 (s.ctx 1024).pc.toNat = []
theorem hyp_StepRunsDecoded : fetches (fetchSt 0x00298E00#32 0#32) ∧ fetches (fetchSt 0x49203FFF#32 0xBFFFFFFE#32) ∧
    fetches (fetchSt 0x0B000000#32 0#32) ∧ fetches (fetchSt 0x49200000#32 0#32) := by unfold fetches; decide
theorem hyp_StepRunsDecoded_fetch : let u := (fetchSt 0x49203FFF#32 0xBFFFFFFE#32).pass
    u.resolve 1024 0x100#64 2 = .mem 0x100 ∧ u.resolve 1024 (0x100#64 + 4#64) 2 = .mem 0x104 ∧ u.codeWord (.mem 0x100) = 0x49203FFF#32 ∧
    u.codeWord (.mem 0x104) = 0xBFFFFFFE#32 ∧ isLong 0x49203FFF#32 = true ∧ isLong 0x00298E00#32 = false := by decide +kernel
theorem hyp_StepRunsDecoded_words : decode 0x00298E00#32 0#32 = .ok (.add 5#5 6#5 7#5) ∧ decode 0x0B000000#32 0#32 = .error .major ∧
    decode 0x49203FFF#32 0xBFFFFFFE#32 = .ok (.limm 4#5 (-2#44)) ∧ decode 0x49200000#32 0#32 = .error .pair := by decide
theorem hyp_StepRunsDecoded_events : ({ fetchSt 0#32 0#32 with agenda := [.lnop 0 0] } : State).agenda = Instr.lnop 0 0 :: [] ∧
    ({ fetchSt 0#32 0#32 with dbg := { mStep := true } } : State).dbg.mStep = true ∧
    (let x := ({ fetchSt 0#32 0#32 with dbg := { mStep := true } } : State).ctx 1024; x.stall = 0 ∧ x.sendRead = none) := by decide
theorem hyp_EncodeAndDecodeAgree : wellFormed (.add 5#5 6#5 7#5) = true ∧ encode (.add 5#5 6#5 7#5) ≠ [] ∧ (Instr.add 5#5 6#5 7#5).size = 4 ∧
    wellFormed (.limm 4#5 (-2#44)) = true ∧ (Instr.limm 4#5 (-2#44)).size = 8 ∧ 4 ≤ (List.replicate 4 0#8).length ∧
    decode 0x00298E00#32 0#32 = .ok (.add 5#5 6#5 7#5) := by decide
theorem hyp_MemoryStaysCanonical : Memory.wf (fetchSt 0x00298E00#32 0#32).mem.bytes = true ∧
    ∃ t, step (fetchSt 0x00298E00#32 0#32) = .next t := ⟨by decide, _, rfl⟩
theorem hyp_ResetValues : (0 : Nat) ≠ 1024 ∧ (0 : Nat) < 12 ∧ (7 : Nat) < 8 ∧ (39 : Nat) < 40 ∧ (15 : Nat) < 16 := by decide

end Sys2Proof.Tests
end

section
/-! Integer and address forms (R282 to R285), the return from a trap (R315) and GANG (R300). -/

namespace Sys2Proof.Machine

/-! ### Values of the integer forms (R282, R283) -/

theorem minValue_unsigned (a b : W64) : minValue true a b = if a.toNat ≤ b.toNat then a else b := by
  by_cases h : a.toNat ≤ b.toNat
  · simp [minValue, BitVec.ult, h]
  · simp [minValue, BitVec.ult, h, Nat.not_le.mp h]

theorem minValue_signed (a b : W64) : minValue false a b = if a.toInt ≤ b.toInt then a else b := by
  by_cases h : a.toInt ≤ b.toInt
  · simp [minValue, BitVec.slt, h]
  · simp [minValue, BitVec.slt, h, Int.not_le.mp h]

/-- The model compares strictly; where the operands are equal either of them is the maximum. -/
theorem maxValue_unsigned (a b : W64) : maxValue true a b = if a.toNat ≤ b.toNat then b else a := by
  rcases lt_trichotomy a.toNat b.toNat with h | h | h
  · simp [maxValue, BitVec.ult, h, h.le]
  · simp [maxValue, BitVec.eq_of_toNat_eq h]
  · simp [maxValue, BitVec.ult, h.not_gt, h.not_ge]

theorem maxValue_signed (a b : W64) : maxValue false a b = if a.toInt ≤ b.toInt then b else a := by
  rcases lt_trichotomy a.toInt b.toInt with h | h | h
  · simp [maxValue, BitVec.slt, h, h.le]
  · simp [maxValue, BitVec.eq_of_toInt_eq h]
  · simp [maxValue, BitVec.slt, h.not_gt, h.not_ge]

/-! The six conditions (R260), as the value that CMP and CMPI write. -/

theorem boolValue_condHolds_eq (a b : W64) : boolValue (condHolds 0#3 a b) = if a = b then 1#64 else 0#64 := by
  simp [boolValue, condHolds]

theorem boolValue_condHolds_ne (a b : W64) : boolValue (condHolds 1#3 a b) = if a = b then 0#64 else 1#64 := by
  by_cases h : a = b <;> simp [boolValue, condHolds, h]

theorem boolValue_condHolds_lt (a b : W64) :
    boolValue (condHolds 2#3 a b) = if a.toInt < b.toInt then 1#64 else 0#64 := by
  simp [boolValue, condHolds, BitVec.slt]

theorem boolValue_condHolds_ge (a b : W64) :
    boolValue (condHolds 3#3 a b) = if a.toInt < b.toInt then 0#64 else 1#64 := by
  by_cases h : a.toInt < b.toInt
  · simp [boolValue, condHolds, BitVec.slt, h]
  · simp [boolValue, condHolds, BitVec.slt, h]

theorem boolValue_condHolds_ltu (a b : W64) :
    boolValue (condHolds 4#3 a b) = if a.toNat < b.toNat then 1#64 else 0#64 := by
  simp [boolValue, condHolds, BitVec.ult]

theorem boolValue_condHolds_geu (a b : W64) :
    boolValue (condHolds 5#3 a b) = if a.toNat < b.toNat then 0#64 else 1#64 := by
  by_cases h : a.toNat < b.toNat
  · simp [boolValue, condHolds, BitVec.ult, h]
  · simp [boolValue, condHolds, BitVec.ult, h]

theorem clzValue_zero : clzValue 0#64 = 64#64 := rfl

theorem clzValue_top {a : W64} {n : Nat} (lo : 2 ^ n ≤ a.toNat) (hi : a.toNat < 2 ^ (n + 1)) :
    clzValue a = BitVec.ofNat 64 (63 - n) := by
  have h0 : a.toNat ≠ 0 := (lt_of_lt_of_le (Nat.two_pow_pos n) lo).ne'
  have ha : a ≠ 0#64 := fun h => h0 (by rw [h]; rfl)
  have hn : Nat.log2 a.toNat = n := (Nat.log2_eq_iff h0).mpr ⟨lo, hi⟩
  rw [clzValue, if_neg ha, hn, w64]

theorem popcValue_countP (a : W64) : popcValue a = BitVec.ofNat 64 ((List.range 64).countP fun i => a.getLsbD i) := by
  rw [popcValue, w64, List.countP_eq_length_filter]

/-- R184's sext of the low `n` bits is the signed value of those bits. -/
theorem sextNat_toNat {w : Nat} (a : BitVec w) (n : Nat) : sextNat a.toNat n = (a.setWidth n).toInt := by
  rw [sextNat, BitVec.toInt_eq_toNat_cond, BitVec.toNat_setWidth]

theorem sextValue_eq (z : BitVec 2) (a : W64) : sextValue z a = (a.setWidth (8 * 2 ^ z.toNat)).signExtend 64 := by
  rw [sextValue, sextNat_toNat, BitVec.signExtend]

/-- A six-bit shift amount is below 64 as it stands. -/
theorem shiftAmount_mod (i : BitVec 6) : (i.setWidth 64).toNat % 64 = i.toNat := by
  have h := i.isLt
  rw [BitVec.toNat_setWidth]; omega

theorem shlValue_imm (a : W64) (i : BitVec 6) : shlValue a (i.setWidth 64) = a <<< i.toNat := by
  rw [shlValue, shiftAmount_mod]
theorem shrValue_imm (a : W64) (i : BitVec 6) : shrValue a (i.setWidth 64) = a >>> i.toNat := by
  rw [shrValue, shiftAmount_mod]
theorem shaValue_imm (a : W64) (i : BitVec 6) : shaValue a (i.setWidth 64) = a.sshiftRight i.toNat := by
  rw [shaValue, shiftAmount_mod]

/-! ### What the shared operations of the integer forms do once their scalars are ready

`hi` names the operation that the instruction is, `hv` the value that it writes. -/

section
variable {s : State} {d a b : Reg} {i : Instr} {v : W64}

theorem exec_alu {f : W64 → W64 → W64} (h : s.ready [d, a, b]) (hi : exec i s = .next (s.alu d a b f))
    (hv : f ((s.ctx s.cur).reg a) ((s.ctx s.cur).reg b) = v) :
    ∃ t, exec i s = .next t ∧ s.wroteReg t d v ((s.ctx s.cur).taintOf a || (s.ctx s.cur).taintOf b) 4 := by
  rw [hi, State.alu, State.withRegs_ready h, hv]
  exact ⟨_, rfl, s.wroteReg_finish ..⟩

theorem exec_aluSlow {f : W64 → W64 → W64} (h : s.ready [d, a, b]) (hi : exec i s = .next (s.aluSlow d a b f))
    (hv : f ((s.ctx s.cur).reg a) ((s.ctx s.cur).reg b) = v) :
    ∃ t, exec i s = .next (t.slow s.cur (s.ctx s.cur).pc) ∧
      s.wroteReg t d v ((s.ctx s.cur).taintOf a || (s.ctx s.cur).taintOf b) 4 := by
  rw [hi, State.aluSlow, State.withRegs_ready h, hv]
  exact ⟨_, rfl, s.wroteReg_finish ..⟩

theorem exec_divide {f : W64 → W64 → W64} (h : s.ready [d, a, b]) (hb : (s.ctx s.cur).reg b ≠ 0#64)
    (hi : exec i s = .next (s.divide d a b f)) (hv : f ((s.ctx s.cur).reg a) ((s.ctx s.cur).reg b) = v) :
    ∃ t, exec i s = .next (t.slow s.cur (s.ctx s.cur).pc) ∧
      s.wroteReg t d v ((s.ctx s.cur).taintOf a || (s.ctx s.cur).taintOf b) 4 := by
  rw [hi, State.divide, State.withRegs_ready h, if_neg hb, hv]
  exact ⟨_, rfl, s.wroteReg_finish ..⟩

theorem exec_divide_zero {f : W64 → W64 → W64} (h : s.ready [d, a, b]) (hb : (s.ctx s.cur).reg b = 0#64)
    (hi : exec i s = .next (s.divide d a b f)) : exec i s = .next (s.trap s.cur 6 0#64) := by
  rw [hi, State.divide, State.withRegs_ready h, if_pos hb]

theorem exec_alu1 {f : W64 → W64} (h : s.ready [d, a]) (hi : exec i s = .next (s.alu1 d a f))
    (hv : f ((s.ctx s.cur).reg a) = v) :
    ∃ t, exec i s = .next t ∧ s.wroteReg t d v ((s.ctx s.cur).taintOf a) 4 := by
  rw [hi, State.alu1, State.withRegs_ready h, hv]
  exact ⟨_, rfl, s.wroteReg_finish ..⟩

theorem exec_sel (h : s.ready [d, a, b]) :
    ∃ t, exec (.sel d a b) s = .next t ∧
      s.wroteReg t d (if (s.ctx s.cur).reg d ≠ 0#64 then (s.ctx s.cur).reg a else (s.ctx s.cur).reg b)
        ((s.ctx s.cur).taintOf d || (s.ctx s.cur).taintOf a || (s.ctx s.cur).taintOf b) 4 :=
  ⟨_, congrArg Host.Outcome.next (State.withRegs_ready h _), s.wroteReg_finish ..⟩

theorem exec_limm (h : s.ready [d]) (imm : BitVec 44) :
    ∃ t, exec (.limm d imm) s = .next t ∧ s.wroteReg t d (imm.signExtend 64) false 8 :=
  ⟨_, congrArg Host.Outcome.next (State.withRegs_ready h _), s.wroteReg_step ..⟩

theorem exec_addpc (h : s.ready [d]) (imm : BitVec 44) :
    ∃ t, exec (.addpc d imm) s = .next t ∧ s.wroteReg t d ((s.ctx s.cur).pc + imm.signExtend 64) false 8 :=
  ⟨_, congrArg Host.Outcome.next (State.withRegs_ready h _), s.wroteReg_step ..⟩

end

/-- Settles O1: each form is one of the operations above, at the value that the lemma of its function gives. -/
theorem aluForms : Obligations.AluForms := by
  unfold Obligations.AluForms
  refine ⟨⟨?registers, ?zeroDivisor⟩, ?oneSource, ?immediates⟩
  case registers =>
    intro s d a b h x A B done slow
    refine ⟨exec_alu h rfl rfl, exec_alu h rfl rfl, exec_aluSlow h rfl rfl, exec_aluSlow h rfl rfl, exec_aluSlow h rfl rfl,
      exec_alu h rfl rfl, exec_alu h rfl rfl, exec_alu h rfl rfl, exec_alu h rfl rfl,
      exec_alu h rfl rfl, exec_alu h rfl rfl, exec_alu h rfl rfl,
      exec_alu h rfl (minValue_unsigned A B), exec_alu h rfl (maxValue_unsigned A B),
      exec_alu h rfl (minValue_signed A B), exec_alu h rfl (maxValue_signed A B),
      exec_alu h rfl (boolValue_condHolds_eq A B), exec_alu h rfl (boolValue_condHolds_ne A B),
      exec_alu h rfl (boolValue_condHolds_lt A B), exec_alu h rfl (boolValue_condHolds_ge A B),
      exec_alu h rfl (boolValue_condHolds_ltu A B), exec_alu h rfl (boolValue_condHolds_geu A B),
      fun hB => ?quotients, exec_sel h⟩
    exact ⟨exec_divide h hB rfl rfl, exec_divide h hB rfl rfl, exec_divide h hB rfl rfl, exec_divide h hB rfl rfl⟩
  case zeroDivisor =>
    rintro s d a b u i (rfl | rfl) h hb
    · exact exec_divide_zero h hb rfl
    · exact exec_divide_zero h hb rfl
  case oneSource =>
    intro s d a h x A done
    exact ⟨fun hA => exec_alu1 h rfl ((congrArg clzValue hA).trans clzValue_zero),
      fun n _ lo hi => exec_alu1 h rfl (clzValue_top lo hi),
      exec_alu1 h rfl (popcValue_countP A), exec_alu1 h rfl (sextValue_eq 0#2 A), exec_alu1 h rfl (sextValue_eq 1#2 A),
      exec_alu1 h rfl (sextValue_eq 2#2 A)⟩
  case immediates =>
    intro s d a i14 i6 i11 i44 h hd x A I done
    exact ⟨exec_alu1 h rfl rfl, exec_alu1 h rfl rfl, exec_alu1 h rfl rfl, exec_alu1 h rfl rfl,
      exec_alu1 h rfl (shlValue_imm A i6), exec_alu1 h rfl (shrValue_imm A i6), exec_alu1 h rfl (shaValue_imm A i6),
      exec_alu1 h rfl (boolValue_condHolds_eq A I), exec_alu1 h rfl (boolValue_condHolds_ne A I),
      exec_alu1 h rfl (boolValue_condHolds_lt A I), exec_alu1 h rfl (boolValue_condHolds_ge A I),
      exec_alu1 h rfl (boolValue_condHolds_ltu A I), exec_alu1 h rfl (boolValue_condHolds_geu A I),
      exec_limm hd i44, exec_addpc hd i44⟩

/-! ### The return from a trap (R315, R256) -/

section
variable {s : State} {c : Nat}

theorem State.targetTrap_fault {a : W64} (h4 : a.toNat % 4 = 0) (f : Nat) :
    s.targetTrap a (.fault f) = some (0x10 + f, a) := by
  simp [State.targetTrap, aligned, h4]

/-- R256: a word of kind 0b10 or 0b11 is no start of an instruction. -/
theorem State.targetTrap_notStart {a : W64} {k : Nat} (h4 : a.toNat % 4 = 0) (hw : 2 ^ 31 ≤ (s.codeWord (.mem k)).toNat) :
    s.targetTrap a (.mem k) = some (2, a) := by
  have : 2 ≤ (s.codeWord (.mem k)).toNat / 2 ^ 30 := by omega
  simp only [State.targetTrap, aligned, h4, this, ↓reduceIte]
  rfl

theorem State.returnFromTrap_outside (hi : (s.ctx c).csr.inTrap = false) : s.returnFromTrap c = s.trap c 1 0#64 := by
  simp [State.returnFromTrap, hi]

theorem State.returnFromTrap_misaligned (hi : (s.ctx c).csr.inTrap = true) (h4 : (s.ctx c).csr.tpc.toNat % 4 ≠ 0) :
    s.returnFromTrap c = s.trap c 4 (s.ctx c).csr.tpc := by
  simp [State.returnFromTrap, aligned, hi, h4]

/-- An aligned TPC that fails another check, once it resolves. -/
theorem State.returnFromTrap_traps {p : Place} {cause : Nat} {detail : W64} (hi : (s.ctx c).csr.inTrap = true)
    (h4 : (s.ctx c).csr.tpc.toNat % 4 = 0) (hr : s.resolve c (s.ctx c).csr.tpc 2 = p)
    (ht : s.targetTrap (s.ctx c).csr.tpc p = some (cause, detail)) : s.returnFromTrap c = s.trap c cause detail := by
  cases p with
  | miss => simp [State.targetTrap, aligned, h4] at ht
  | _ => simp [State.returnFromTrap, aligned, hi, h4, hr, ht]

theorem State.returnFromTrap_returns (hi : (s.ctx c).csr.inTrap = true) (hv : s.validTarget c (s.ctx c).csr.tpc) :
    s.returnFromTrap c = s.setCtx c { s.ctx c with
      pc := (s.ctx c).csr.tpc
      stall := 0
      bpDone := 0
      csr := { (s.ctx c).csr with inTrap := false } } := by
  obtain ⟨k, hr, ht⟩ := State.targetTrap_valid hv
  have h4 := hv.1
  simp [State.returnFromTrap, aligned, hi, h4, hr, ht]

end

theorem exec_rft (s : State) : exec .rft s = .next (s.returnFromTrap s.cur) := rfl

/-- Settles O5: RFT is the return from a trap, whose outcome the checks of R256 decide in their order. -/
theorem returnFromTrap : Obligations.ReturnFromTrap := by
  unfold Obligations.ReturnFromTrap
  intro s x
  refine ⟨fun hi hv => ?_, fun hi h4 => ?_, fun f hi h4 hr => ?_, fun k hi h4 hr hw => ?_, fun hi => ?_, by decide⟩
  · rw [exec_rft, State.returnFromTrap_returns hi hv]
    exact ⟨_, rfl, s.onlyCtx_setCtx .., State.ctx_setCtx_same ..⟩
  · rw [exec_rft, State.returnFromTrap_misaligned hi h4]
  · rw [exec_rft, State.returnFromTrap_traps hi h4 hr (State.targetTrap_fault h4 f)]
  · rw [exec_rft, State.returnFromTrap_traps hi h4 hr (State.targetTrap_notStart h4 hw)]
  · rw [exec_rft, State.returnFromTrap_outside hi]

/-! ### GANG (R300) -/

theorem State.taskOnly_task (s : State) {c : Nat} (h : c < 1024) (k : State) : s.taskOnly c k = k := by
  simp [State.taskOnly, isMgmt, h.ne]

theorem exec_gang {s : State} {d : Reg} (hc : s.cur < 1024) (h : s.ready [d]) :
    exec (.gang d) s = .next (s.finish s.cur d
      (BitVec.ofNat 64 ((s.ctx s.cur).task.size * 2 ^ 32 + (s.ctx s.cur).task.rank)) false) :=
  congrArg Host.Outcome.next ((State.withRegs_ready h _).trans (s.taskOnly_task hc _))

/-- The word of GANG, for each of the 32 scalars. -/
theorem decode_gang : ∀ d : Reg, decode (0x2D000000#32 ||| d.setWidth 32 <<< 19) 0#32 = .ok (.gang d) := by decide

/-- Settles O10: a task's GANG passes its checks and writes n·2^32 + rank; a gang of one reads 2^32. -/
theorem gangReadsSizeAndRank : Obligations.GangReadsSizeAndRank := by
  unfold Obligations.GangReadsSizeAndRank
  intro s d hc h x
  refine ⟨⟨_, exec_gang hc h, s.wroteReg_finish ..⟩, fun hn hk => ⟨_, exec_gang hc h, ?_⟩, decode_gang d⟩
  have hv : BitVec.ofNat 64 (x.size * 2 ^ 32 + x.rank) = 0x100000000#64 := by rw [hn, hk]; rfl
  exact hv ▸ s.wroteReg_finish ..

end Sys2Proof.Machine
end
